-- ==== Sys2Proof/Word.lean ====
section
/-! DEFINITION. The words of the machine: bytes (R7) and the 64-bit patterns of scalar and system registers (R11). -/

namespace Sys2Proof

/-- One byte of memory or of a row. -/
abbrev Byte := BitVec 8

/-- A scalar register, a system register or an address. -/
abbrev Word := BitVec 64

end Sys2Proof
end

