-- ==== Sys2Proof/Syntax.lean ====
section
/-! DEFINITION. The instructions and steps of the Merelm Z4, one constructor per row of the opcode table (R67 and the
steps of 95_what_each_step_holds.md). An encoded row carries its encoding's fields; a step of the module carries what
the outside supplies to it. -/

namespace Sys2Proof

/-- A five-bit register field (R64): scalar, vector or mask by the instruction. -/
abbrev Reg := BitVec 5

/-- Which hart: a launched hart by its place (R31), or the die manager core of a die (`dm`, then `die` alone counts). -/
structure HartKey where
  dm : Bool
  die : Nat
  clu : Nat
  core : Nat
  slot : Nat
deriving DecidableEq, Repr

/-- Which core. A die manager core is `dm`. -/
structure CoreKey where
  dm : Bool
  die : Nat
  clu : Nat
  core : Nat
deriving DecidableEq, Repr

/-- Which flue: cores 4f to 4f+3 of a cluster (R231). -/
structure FlueKey where
  die : Nat
  clu : Nat
  flue : Nat
deriving DecidableEq, Repr

/-- The fields of a tile form's two words (R66). -/
structure Tile where
  acc : Reg
  a : Reg
  b : Reg
  rmask : BitVec 3
  asp : BitVec 1
  bsp : BitVec 1
  afmt : BitVec 4
  bfmt : BitVec 4
  ma : Reg
  sb : Reg
  tra : BitVec 1
  trb : BitVec 1
  sae : BitVec 1
  sbe : BitVec 1
deriving DecidableEq, Repr

/-- What a package counts for a grove homed elsewhere (R325, R354): element units, lane cycles, gate charge, discarded
entries, pages returned and kept. -/
structure GroveCounts where
  units : Nat
  lcyc : Nat
  charge : Nat
  discarded : Nat
  returned : Nat
  kept : Nat
deriving DecidableEq, Repr

/-- What another module sends to this home package (R347, R349, R351, R354). Addresses are local (bits 41:0). -/
inductive FabricRequest where
  /-- A read of `len` bytes, a forwarded gather unit's included (R311). -/
  | read (addr len : Nat)
  /-- A store, or the partner's copy of a mirrored store (R349), under the layout `nl` of its page; a poisoned one arrives poisoned
  (R347). -/
  | write (addr : Nat) (bytes : List Byte) (nl : BitVec 4) (poison : Bool)
  /-- An atomic of R90: operation `op`, width in bytes, operand and compare value, under the layout `nl` of its page. -/
  | atomic (op : BitVec 3) (addr width : Nat) (operand compare : Word) (nl : BitVec 4)
  /-- The update of a scatter-add (R151, R152): the sum added to `width` bytes; as floats of that width with rounding mode and flush
  mode where they are given. -/
  | update (addr width : Nat) (sum : Word) (float : Option (BitVec 2 × BitVec 2)) (nl : BitVec 4) (poison : Bool)
  /-- A linked launch elsewhere asks for `n` members from `first` on before its first placement (R354). -/
  | ask (slot first n : Nat)
  /-- A remote member's `BJOIN` (R316, R354). -/
  | bjoin (slot member : Nat) (shared : Bool) (addr : Word)
  /-- A post of a remote member at this home ballot unit (R317, R354). -/
  | post (slot member : Nat) (hash : Word)
  /-- A remote member's `BLEAVE` (R318, R354). -/
  | leave (slot member : Nat)
  /-- A remote member's gang has left its launch, by felling or otherwise, with its package's counts for it (R318, R354). -/
  | gone (slot member : Nat) (felled : Bool) (counts : GroveCounts)
  /-- Felling sent by a remote home ballot unit to the gangs of grove `gid` homed at `hpkg` (R354). -/
  | fell (hpkg gid : Nat) (felled : List Nat)
  /-- A remote home ballot unit closes grove `gid`: lists registered here return, the shared one where `shared` says that it is one of
  them (R324, R354). -/
  | closed (hpkg gid : Nat) (shared : Bool)
  /-- One rank's join of a collective (R351), with its source bytes. -/
  | join (tag : Word) (rank : Nat) (word0 : Word) (n root : Nat) (list : List Nat) (data : List Byte)
deriving DecidableEq, Repr

/-- One constructor per row of the opcode table. -/
inductive Instr where
  | add (d a b : Reg)  -- R82
  | sub (d a b : Reg)  -- R82
  | and (d a b : Reg)  -- R82
  | or (d a b : Reg)  -- R82
  | xor (d a b : Reg)  -- R82
  | andn (d a b : Reg)  -- R82
  | sll (d a b : Reg)  -- R82
  | srl (d a b : Reg)  -- R82
  | sra (d a b : Reg)  -- R82
  | slt (d a b : Reg)  -- R82
  | sltu (d a b : Reg)  -- R82
  | min (d a b : Reg)  -- R82
  | max (d a b : Reg)  -- R82
  | minu (d a b : Reg)  -- R82
  | maxu (d a b : Reg)  -- R82
  | mul (d a b : Reg)  -- R82
  | mulh (d a b : Reg)  -- R82
  | mulhu (d a b : Reg)  -- R82
  | div (d a b : Reg)  -- R83
  | divu (d a b : Reg)  -- R83
  | rem (d a b : Reg)  -- R83
  | remu (d a b : Reg)  -- R83
  | clz (d a : Reg)  -- R82
  | ctz (d a : Reg)  -- R82
  | popc (d a : Reg)  -- R82
  | addw (d a b : Reg)  -- R82
  | subw (d a b : Reg)  -- R82
  | addi (d a : Reg) (i : BitVec 14)  -- R84
  | andi (d a : Reg) (i : BitVec 14)  -- R84
  | ori (d a : Reg) (i : BitVec 14)  -- R84
  | xori (d a : Reg) (i : BitVec 14)  -- R84
  | slli (d a : Reg) (s : BitVec 6)  -- R84
  | srli (d a : Reg) (s : BitVec 6)  -- R84
  | srai (d a : Reg) (s : BitVec 6)  -- R84
  | slti (d a : Reg) (i : BitVec 14)  -- R84
  | lui (d : Reg) (i : BitVec 19)  -- R84
  | addpc (d : Reg) (i : BitVec 19)  -- R84
  | beq (a b : Reg) (o : BitVec 14)  -- R85
  | bne (a b : Reg) (o : BitVec 14)  -- R85
  | blt (a b : Reg) (o : BitVec 14)  -- R85
  | bge (a b : Reg) (o : BitVec 14)  -- R85
  | bltu (a b : Reg) (o : BitVec 14)  -- R85
  | bgeu (a b : Reg) (o : BitVec 14)  -- R85
  | jal (d : Reg) (o : BitVec 19)  -- R86
  | jalr (d a : Reg) (i : BitVec 14)  -- R86
  | lb (d a : Reg) (i : BitVec 11)  -- R87
  | lh (d a : Reg) (i : BitVec 11)  -- R87
  | lw (d a : Reg) (i : BitVec 11)  -- R87
  | ld (d a : Reg) (i : BitVec 11)  -- R87
  | lbz (d a : Reg) (i : BitVec 11)  -- R87
  | lhz (d a : Reg) (i : BitVec 11)  -- R87
  | lwz (d a : Reg) (i : BitVec 11)  -- R87
  | sb (d a : Reg) (i : BitVec 11)  -- R87
  | sh (d a : Reg) (i : BitVec 11)  -- R87
  | sw (d a : Reg) (i : BitVec 11)  -- R87
  | sd (d a : Reg) (i : BitVec 11)  -- R87
  | amoswap (d a b : Reg) (x : BitVec 4) (o : BitVec 2)  -- R90
  | amoadd (d a b : Reg) (x : BitVec 4) (o : BitVec 2)  -- R90
  | amoand (d a b : Reg) (x : BitVec 4) (o : BitVec 2)  -- R90
  | amoor (d a b : Reg) (x : BitVec 4) (o : BitVec 2)  -- R90
  | amoxor (d a b : Reg) (x : BitVec 4) (o : BitVec 2)  -- R90
  | amomin (d a b : Reg) (x : BitVec 4) (o : BitVec 2)  -- R90
  | amomax (d a b : Reg) (x : BitVec 4) (o : BitVec 2)  -- R90
  | amocas (d a b : Reg) (x : BitVec 4) (o : BitVec 2)  -- R90
  | amowswap (d a b : Reg) (x : BitVec 4) (o : BitVec 2)  -- R90
  | amowadd (d a b : Reg) (x : BitVec 4) (o : BitVec 2)  -- R90
  | amowand (d a b : Reg) (x : BitVec 4) (o : BitVec 2)  -- R90
  | amowor (d a b : Reg) (x : BitVec 4) (o : BitVec 2)  -- R90
  | amowxor (d a b : Reg) (x : BitVec 4) (o : BitVec 2)  -- R90
  | amowmin (d a b : Reg) (x : BitVec 4) (o : BitVec 2)  -- R90
  | amowmax (d a b : Reg) (x : BitVec 4) (o : BitVec 2)  -- R90
  | amowcas (d a b : Reg) (x : BitVec 4) (o : BitVec 2)  -- R90
  | lda (d a : Reg) (x : BitVec 4)  -- R92
  | lwa (d a : Reg) (x : BitVec 4)  -- R92
  | stl (a b : Reg) (x : BitVec 4)  -- R92
  | swl (a b : Reg) (x : BitVec 4)  -- R92
  | fence (x : BitVec 4)  -- R93
  | fenceSV (x : BitVec 4)  -- R93
  | fenceVS (x : BitVec 4)  -- R93
  | fenceVV (x : BitVec 4)  -- R93
  | fenceSS (x : BitVec 4)  -- R93
  | fenceI  -- R93
  | getsr (d : Reg) (n : BitVec 9)  -- R97
  | putsr (a : Reg) (n : BitVec 9)  -- R97
  | swapsr (d a : Reg) (n : BitVec 9)  -- R97
  | setsrb (d a : Reg) (n : BitVec 9)  -- R97
  | clrsrb (d a : Reg) (n : BitVec 9)  -- R97
  | trap (a : Reg) (n : BitVec 9)  -- R99
  | tret  -- R109
  | wfe (d : Reg)  -- R100
  | endHart  -- R101
  | yieldpt (a : Reg) (s : BitVec 1)  -- R102
  | halt  -- R103
  | brkpt (n : BitVec 9)  -- R99
  | fadd (d a b : Reg)  -- R94
  | fsub (d a b : Reg)  -- R94
  | fmul (d a b : Reg)  -- R94
  | fdiv (d a b : Reg)  -- R94
  | fmin (d a b : Reg)  -- R94
  | fmax (d a b : Reg)  -- R94
  | fsqrt (d a : Reg)  -- R94
  | fcvtFI (d a : Reg)  -- R95
  | fcvtIF (d a : Reg)  -- R94
  | feq (d a b : Reg)  -- R94
  | flt (d a b : Reg)  -- R94
  | fle (d a b : Reg)  -- R94
  | setvl (d a : Reg) (c : BitVec 12)  -- R110
  | setvlr (d a b : Reg)  -- R111
  | setrc (d a : Reg)  -- R111
  | setdim (a b : Reg) (n : BitVec 2)  -- R111
  | vaddVV (d a b : Reg) (k : BitVec 3) (e : BitVec 1)  -- R124
  | vsubVV (d a b : Reg) (k : BitVec 3) (e : BitVec 1)  -- R124
  | vrsubVV (d a b : Reg) (k : BitVec 3) (e : BitVec 1)  -- R124
  | vmulVV (d a b : Reg) (k : BitVec 3) (e : BitVec 1)  -- R124
  | vmulhVV (d a b : Reg) (k : BitVec 3) (e : BitVec 1)  -- R124
  | vmulhuVV (d a b : Reg) (k : BitVec 3) (e : BitVec 1)  -- R124
  | vdivVV (d a b : Reg) (k : BitVec 3) (e : BitVec 1)  -- R124
  | vdivuVV (d a b : Reg) (k : BitVec 3) (e : BitVec 1)  -- R124
  | vremVV (d a b : Reg) (k : BitVec 3) (e : BitVec 1)  -- R124
  | vremuVV (d a b : Reg) (k : BitVec 3) (e : BitVec 1)  -- R124
  | vminVV (d a b : Reg) (k : BitVec 3) (e : BitVec 1)  -- R124
  | vmaxVV (d a b : Reg) (k : BitVec 3) (e : BitVec 1)  -- R124
  | vminuVV (d a b : Reg) (k : BitVec 3) (e : BitVec 1)  -- R124
  | vmaxuVV (d a b : Reg) (k : BitVec 3) (e : BitVec 1)  -- R124
  | vandVV (d a b : Reg) (k : BitVec 3) (e : BitVec 1)  -- R124
  | vorVV (d a b : Reg) (k : BitVec 3) (e : BitVec 1)  -- R124
  | vxorVV (d a b : Reg) (k : BitVec 3) (e : BitVec 1)  -- R124
  | vsllVV (d a b : Reg) (k : BitVec 3) (e : BitVec 1)  -- R124
  | vsrlVV (d a b : Reg) (k : BitVec 3) (e : BitVec 1)  -- R124
  | vsraVV (d a b : Reg) (k : BitVec 3) (e : BitVec 1)  -- R124
  | vsaddVV (d a b : Reg) (k : BitVec 3) (e : BitVec 1)  -- R124
  | vssubVV (d a b : Reg) (k : BitVec 3) (e : BitVec 1)  -- R124
  | vsadduVV (d a b : Reg) (k : BitVec 3) (e : BitVec 1)  -- R124
  | vssubuVV (d a b : Reg) (k : BitVec 3) (e : BitVec 1)  -- R124
  | vmaccVV (d a b : Reg) (k : BitVec 3) (e : BitVec 1)  -- R124
  | vabs (d a : Reg) (k : BitVec 3) (e : BitVec 1)  -- R124
  | vneg (d a : Reg) (k : BitVec 3) (e : BitVec 1)  -- R124
  | vaddVS (d a b : Reg) (k : BitVec 3) (e : BitVec 1)  -- R124
  | vsubVS (d a b : Reg) (k : BitVec 3) (e : BitVec 1)  -- R124
  | vrsubVS (d a b : Reg) (k : BitVec 3) (e : BitVec 1)  -- R124
  | vmulVS (d a b : Reg) (k : BitVec 3) (e : BitVec 1)  -- R124
  | vmulhVS (d a b : Reg) (k : BitVec 3) (e : BitVec 1)  -- R124
  | vmulhuVS (d a b : Reg) (k : BitVec 3) (e : BitVec 1)  -- R124
  | vdivVS (d a b : Reg) (k : BitVec 3) (e : BitVec 1)  -- R124
  | vdivuVS (d a b : Reg) (k : BitVec 3) (e : BitVec 1)  -- R124
  | vremVS (d a b : Reg) (k : BitVec 3) (e : BitVec 1)  -- R124
  | vremuVS (d a b : Reg) (k : BitVec 3) (e : BitVec 1)  -- R124
  | vminVS (d a b : Reg) (k : BitVec 3) (e : BitVec 1)  -- R124
  | vmaxVS (d a b : Reg) (k : BitVec 3) (e : BitVec 1)  -- R124
  | vminuVS (d a b : Reg) (k : BitVec 3) (e : BitVec 1)  -- R124
  | vmaxuVS (d a b : Reg) (k : BitVec 3) (e : BitVec 1)  -- R124
  | vandVS (d a b : Reg) (k : BitVec 3) (e : BitVec 1)  -- R124
  | vorVS (d a b : Reg) (k : BitVec 3) (e : BitVec 1)  -- R124
  | vxorVS (d a b : Reg) (k : BitVec 3) (e : BitVec 1)  -- R124
  | vsllVS (d a b : Reg) (k : BitVec 3) (e : BitVec 1)  -- R124
  | vsrlVS (d a b : Reg) (k : BitVec 3) (e : BitVec 1)  -- R124
  | vsraVS (d a b : Reg) (k : BitVec 3) (e : BitVec 1)  -- R124
  | vsaddVS (d a b : Reg) (k : BitVec 3) (e : BitVec 1)  -- R124
  | vssubVS (d a b : Reg) (k : BitVec 3) (e : BitVec 1)  -- R124
  | vsadduVS (d a b : Reg) (k : BitVec 3) (e : BitVec 1)  -- R124
  | vssubuVS (d a b : Reg) (k : BitVec 3) (e : BitVec 1)  -- R124
  | vmaccVS (d a b : Reg) (k : BitVec 3) (e : BitVec 1)  -- R124
  | vaddVI (d a : Reg) (i : BitVec 5) (k : BitVec 3) (e : BitVec 1)  -- R124
  | vsubVI (d a : Reg) (i : BitVec 5) (k : BitVec 3) (e : BitVec 1)  -- R124
  | vrsubVI (d a : Reg) (i : BitVec 5) (k : BitVec 3) (e : BitVec 1)  -- R124
  | vmulVI (d a : Reg) (i : BitVec 5) (k : BitVec 3) (e : BitVec 1)  -- R124
  | vmulhVI (d a : Reg) (i : BitVec 5) (k : BitVec 3) (e : BitVec 1)  -- R124
  | vmulhuVI (d a : Reg) (i : BitVec 5) (k : BitVec 3) (e : BitVec 1)  -- R124
  | vdivVI (d a : Reg) (i : BitVec 5) (k : BitVec 3) (e : BitVec 1)  -- R124
  | vdivuVI (d a : Reg) (i : BitVec 5) (k : BitVec 3) (e : BitVec 1)  -- R124
  | vremVI (d a : Reg) (i : BitVec 5) (k : BitVec 3) (e : BitVec 1)  -- R124
  | vremuVI (d a : Reg) (i : BitVec 5) (k : BitVec 3) (e : BitVec 1)  -- R124
  | vminVI (d a : Reg) (i : BitVec 5) (k : BitVec 3) (e : BitVec 1)  -- R124
  | vmaxVI (d a : Reg) (i : BitVec 5) (k : BitVec 3) (e : BitVec 1)  -- R124
  | vminuVI (d a : Reg) (i : BitVec 5) (k : BitVec 3) (e : BitVec 1)  -- R124
  | vmaxuVI (d a : Reg) (i : BitVec 5) (k : BitVec 3) (e : BitVec 1)  -- R124
  | vandVI (d a : Reg) (i : BitVec 5) (k : BitVec 3) (e : BitVec 1)  -- R124
  | vorVI (d a : Reg) (i : BitVec 5) (k : BitVec 3) (e : BitVec 1)  -- R124
  | vxorVI (d a : Reg) (i : BitVec 5) (k : BitVec 3) (e : BitVec 1)  -- R124
  | vsllVI (d a : Reg) (i : BitVec 5) (k : BitVec 3) (e : BitVec 1)  -- R124
  | vsrlVI (d a : Reg) (i : BitVec 5) (k : BitVec 3) (e : BitVec 1)  -- R124
  | vsraVI (d a : Reg) (i : BitVec 5) (k : BitVec 3) (e : BitVec 1)  -- R124
  | vsaddVI (d a : Reg) (i : BitVec 5) (k : BitVec 3) (e : BitVec 1)  -- R124
  | vssubVI (d a : Reg) (i : BitVec 5) (k : BitVec 3) (e : BitVec 1)  -- R124
  | vsadduVI (d a : Reg) (i : BitVec 5) (k : BitVec 3) (e : BitVec 1)  -- R124
  | vssubuVI (d a : Reg) (i : BitVec 5) (k : BitVec 3) (e : BitVec 1)  -- R124
  | vmaccVI (d a : Reg) (i : BitVec 5) (k : BitVec 3) (e : BitVec 1)  -- R124
  | vfaddVV (d a b : Reg) (k : BitVec 3) (e : BitVec 1)  -- R125
  | vfsubVV (d a b : Reg) (k : BitVec 3) (e : BitVec 1)  -- R125
  | vfmulVV (d a b : Reg) (k : BitVec 3) (e : BitVec 1)  -- R125
  | vfdivVV (d a b : Reg) (k : BitVec 3) (e : BitVec 1)  -- R125
  | vfminVV (d a b : Reg) (k : BitVec 3) (e : BitVec 1)  -- R125
  | vfmaxVV (d a b : Reg) (k : BitVec 3) (e : BitVec 1)  -- R125
  | vfmaVV (d a b : Reg) (k : BitVec 3) (e : BitVec 1)  -- R125
  | vfnmsVV (d a b : Reg) (k : BitVec 3) (e : BitVec 1)  -- R125
  | vfsqrt (d a : Reg) (k : BitVec 3) (e : BitVec 1)  -- R125
  | vfabs (d a : Reg) (k : BitVec 3) (e : BitVec 1)  -- R125
  | vfneg (d a : Reg) (k : BitVec 3) (e : BitVec 1)  -- R125
  | vfrnd (d a : Reg) (k : BitVec 3) (e : BitVec 1)  -- R125
  | vfscaleVV (d a b : Reg) (k : BitVec 3) (e : BitVec 1)  -- R125
  | vfclass (d a : Reg) (k : BitVec 3) (e : BitVec 1)  -- R125
  | vfaddVS (d a b : Reg) (k : BitVec 3) (e : BitVec 1)  -- R125
  | vfsubVS (d a b : Reg) (k : BitVec 3) (e : BitVec 1)  -- R125
  | vfmulVS (d a b : Reg) (k : BitVec 3) (e : BitVec 1)  -- R125
  | vfdivVS (d a b : Reg) (k : BitVec 3) (e : BitVec 1)  -- R125
  | vfminVS (d a b : Reg) (k : BitVec 3) (e : BitVec 1)  -- R125
  | vfmaxVS (d a b : Reg) (k : BitVec 3) (e : BitVec 1)  -- R125
  | vfmaVS (d a b : Reg) (k : BitVec 3) (e : BitVec 1)  -- R125
  | vfnmsVS (d a b : Reg) (k : BitVec 3) (e : BitVec 1)  -- R125
  | vfscaleVS (d a b : Reg) (k : BitVec 3) (e : BitVec 1)  -- R125
  | vceqVV (d a b : Reg) (k : BitVec 3)  -- R126
  | vcneVV (d a b : Reg) (k : BitVec 3)  -- R126
  | vcltVV (d a b : Reg) (k : BitVec 3)  -- R126
  | vcleVV (d a b : Reg) (k : BitVec 3)  -- R126
  | vcltuVV (d a b : Reg) (k : BitVec 3)  -- R126
  | vcleuVV (d a b : Reg) (k : BitVec 3)  -- R126
  | vfceqVV (d a b : Reg) (k : BitVec 3)  -- R126
  | vfcltVV (d a b : Reg) (k : BitVec 3)  -- R126
  | vfcleVV (d a b : Reg) (k : BitVec 3)  -- R126
  | vfcunVV (d a b : Reg) (k : BitVec 3)  -- R126
  | vceqVS (d a b : Reg) (k : BitVec 3)  -- R126
  | vcneVS (d a b : Reg) (k : BitVec 3)  -- R126
  | vcltVS (d a b : Reg) (k : BitVec 3)  -- R126
  | vcleVS (d a b : Reg) (k : BitVec 3)  -- R126
  | vcltuVS (d a b : Reg) (k : BitVec 3)  -- R126
  | vcleuVS (d a b : Reg) (k : BitVec 3)  -- R126
  | vfceqVS (d a b : Reg) (k : BitVec 3)  -- R126
  | vfcltVS (d a b : Reg) (k : BitVec 3)  -- R126
  | vfcleVS (d a b : Reg) (k : BitVec 3)  -- R126
  | vfcunVS (d a b : Reg) (k : BitVec 3)  -- R126
  | kand (d a b : Reg)  -- R127
  | kor (d a b : Reg)  -- R127
  | kxor (d a b : Reg)  -- R127
  | kandn (d a b : Reg)  -- R127
  | knot (d a : Reg)  -- R127
  | kset (d : Reg)  -- R127
  | kclr (d : Reg)  -- R127
  | kmov (d a : Reg)  -- R127
  | kpop (d a : Reg)  -- R127
  | kfirst (d a : Reg)  -- R127
  | kfromv (d a : Reg)  -- R127
  | ktov (d a : Reg)  -- R127
  | klt (d a b : Reg)  -- R127
  | kblk (d a b : Reg)  -- R127
  | kenc (d a : Reg) (c : BitVec 5)  -- R127
  | vredsum (d a : Reg) (k : BitVec 3) (e : BitVec 1)  -- R128
  | vredmin (d a : Reg) (k : BitVec 3) (e : BitVec 1)  -- R128
  | vredmax (d a : Reg) (k : BitVec 3) (e : BitVec 1)  -- R128
  | vredminu (d a : Reg) (k : BitVec 3) (e : BitVec 1)  -- R128
  | vredmaxu (d a : Reg) (k : BitVec 3) (e : BitVec 1)  -- R128
  | vredand (d a : Reg) (k : BitVec 3) (e : BitVec 1)  -- R128
  | vredor (d a : Reg) (k : BitVec 3) (e : BitVec 1)  -- R128
  | vfredsum (d a : Reg) (k : BitVec 3) (e : BitVec 1)  -- R56
  | vfredmin (d a : Reg) (k : BitVec 3) (e : BitVec 1)  -- R128
  | vfredmax (d a : Reg) (k : BitVec 3) (e : BitVec 1)  -- R128
  | vscan (d a : Reg) (k : BitVec 3) (e : BitVec 1)  -- R128
  | vfscan (d a : Reg) (k : BitVec 3) (e : BitVec 1)  -- R57
  | vfredsumo (d a : Reg) (k : BitVec 3) (e : BitVec 1)  -- R57
  | vmov (d a : Reg) (k : BitVec 3) (e : BitVec 1)  -- R129
  | vsplat (d a : Reg) (k : BitVec 3) (e : BitVec 1)  -- R129
  | viota (d a : Reg) (k : BitVec 3) (e : BitVec 1)  -- R129
  | vslup (d a b : Reg) (k : BitVec 3) (e : BitVec 1)  -- R129
  | vsldn (d a b : Reg) (k : BitVec 3) (e : BitVec 1)  -- R129
  | vrgath (d a b : Reg) (k : BitVec 3) (e : BitVec 1)  -- R129
  | vcmprs (d a : Reg) (k : BitVec 3) (e : BitVec 1)  -- R129
  | venc (d a b : Reg)  -- R130
  | veinfo (d a : Reg) (e : BitVec 1)  -- R129
  | vextr (d a b : Reg) (e : BitVec 1)  -- R129
  | vins (d a b : Reg) (e : BitVec 1)  -- R129
  | vcvt (d a : Reg) (s t : BitVec 5) (k : BitVec 3) (e : BitVec 1)  -- R131
  | vtabld (a : Reg)  -- R132
  | vlatd (d a b : Reg) (k : BitVec 3) (e : BitVec 1)  -- R132
  | vdictg (d a : Reg) (k : BitVec 3) (e : BitVec 1)  -- R132
  | vtabst (d : Reg)  -- R132
  | vld (d a : Reg) (t : BitVec 2) (k : BitVec 3) (o : BitVec 1)  -- R137
  | vlds (d a b : Reg) (t : BitVec 2) (k : BitVec 3) (o : BitVec 1)  -- R137
  | vldx (d a b : Reg) (t : BitVec 2) (k : BitVec 3) (o : BitVec 1)  -- R137
  | vldff (d a : Reg) (t : BitVec 2) (k : BitVec 3) (o : BitVec 1)  -- R145
  | vld3 (d a : Reg) (t : BitVec 2) (k : BitVec 3) (o : BitVec 1)  -- R146
  | vldc (d a b : Reg) (t : BitVec 2)  -- R148
  | vst (d a : Reg) (t : BitVec 2) (k : BitVec 3) (o : BitVec 1)  -- R138
  | vsts (d a b : Reg) (t : BitVec 2) (k : BitVec 3) (o : BitVec 1)  -- R138
  | vstx (d a b : Reg) (t : BitVec 2) (k : BitVec 3) (o : BitVec 1)  -- R138
  | vst3 (d a : Reg) (t : BitVec 2) (k : BitVec 3) (o : BitVec 1)  -- R146
  | vstc (d a b : Reg) (t : BitVec 2)  -- R149
  | vscadd (d a b : Reg) (t : BitVec 2) (k : BitVec 3)  -- R151
  | vscfadd (d a b : Reg) (t : BitVec 2) (k : BitVec 3)  -- R152
  | vgacq (d a b : Reg) (x : BitVec 4)  -- R153
  | vsrel (d a b : Reg) (x : BitVec 4)  -- R154
  | tkpost (a : Reg)  -- R187
  | tkwait (a : Reg)  -- R187
  | lpinfo (d : Reg)  -- R181
  | gangid (d a : Reg)  -- R181
  | fluest (d : Reg)  -- R244
  | curcls (d a : Reg)  -- R244
  | epush (d a : Reg) (x : BitVec 4)  -- R191
  | epop (d : Reg) (x : BitVec 4)  -- R191
  | estat (d : Reg) (x : BitVec 4)  -- R192
  | epush2 (d a b : Reg) (x : BitVec 4)  -- R191
  | menter  -- R193
  | mexit  -- R193
  | settile (d a b : Reg)  -- R195
  | mzero (d : Reg)  -- R209
  | mrdf (d a b : Reg)  -- R211
  | mcmprs (d a b : Reg)  -- R212
  | maccadd (d a : Reg)  -- R210
  | vbind (d a : Reg)  -- R188
  | vunbind (d : Reg)  -- R188
  | splook (d a : Reg)  -- R223
  | spinst (d a b : Reg)  -- R223
  | spdrop (d a : Reg)  -- R223
  | spzero (a b : Reg)  -- R223
  | gbar  -- R226
  | gbarv (d a : Reg)  -- R226
  | gbarw (d : Reg)  -- R226
  | barrive (d a : Reg)  -- R228
  | bwait (d a b : Reg)  -- R228
  | launch (d a b : Reg)  -- R261
  | evsig (d a : Reg)  -- R261
  | evwait (d a : Reg)  -- R261
  | qinfo (d a : Reg)  -- R261
  | bjoin (d a b : Reg)  -- R316
  | bpost (d a : Reg)  -- R317
  | bpoll (d : Reg)  -- R318
  | bchk (d : Reg)  -- R318
  | bleave (d : Reg)  -- R318
  | probe (d a b : Reg)  -- R286
  | tlbinv (a b : Reg)  -- R287
  | tlbinva (a : Reg)  -- R287
  | nInc (d : Reg) (p : BitVec 7)  -- R65
  | nCopy (d : Reg) (s : BitVec 5)  -- R65
  | nLdf (d : Reg) (p : BitVec 7)  -- R65
  | nStf (d : Reg) (p : BitVec 7)  -- R65
  | nBrz (a : Reg) (p : BitVec 7)  -- R65
  | nBrnz (a : Reg) (p : BitVec 7)  -- R65
  | nGo (p : BitVec 12)  -- R65
  | nAcc (d : Reg) (s : BitVec 5)  -- R65
  | mop (t : Tile)  -- R203
  | mops (t : Tile)  -- R203
  | mopl (t : Tile)  -- R203
  | mopd (t : Tile)  -- R203
  | eventTrap  -- R34
  | timerCompare  -- R34
  | wfeWake (h : HartKey)  -- R100
  | gangBarrierRelease (h : HartKey)  -- R226
  | viqDispatch (h : HartKey)  -- R177
  | vectorRetire (h : HartKey) (mismatch : Option (BitVec 6))  -- R184
  | dispatchGateCycle (c : CoreKey)  -- R183
  | flueWindowEnd (f : FlueKey)  -- R234
  | flrailStepDone (f : FlueKey)  -- R242
  | clusterClockStopDone (die clu : Nat)  -- R254
  | clusterClockRestartDone (die clu : Nat)  -- R254
  | schedulerStep (die : Nat)  -- R263
  | hartStop (h : HartKey)  -- R169
  | launchCompletion (launch : Nat)  -- R272
  | hartFelled (h : HartKey)  -- R322
  | pageListReturn (slot member : Nat)  -- R323
  | groveClose (slot : Nat)  -- R324
  | hostQueueTailWrite (die q : Nat) (tail : Word)  -- R329
  | hostCancelRequest (die q : Nat) (seq : Word)  -- R330
  | hostMailboxWrite (die : Nat) (tail : Word)  -- R339
  | hostMemWrite (pa : Nat) (bytes : List Byte)  -- R303
  | moduleReset  -- R303
  | scrub (line : Nat)  -- R304
  | thermalSample (stack layer temp : Nat)  -- R308
  | sramMonitorCrossing (die dom : Nat)  -- R343
  | engineRecordArrival (h : HartKey) (eng : Nat)  -- R192
  | copy (h : HartKey)  -- R294
  | conv (h : HartKey)  -- R294
  | convef (h : HartKey)  -- R295
  | comp (h : HartKey)  -- R294
  | decomp (h : HartKey)  -- R294
  | fill (h : HartKey)  -- R294
  | spfill (h : HartKey)  -- R294
  | pgather (h : HartKey)  -- R310
  | igather (h : HartKey)  -- R310
  | allred (h : HartKey)  -- R352
  | bcast (h : HartKey)  -- R352
  | allgath (h : HartKey)  -- R352
  | dbar (h : HartKey)  -- R353
  | send (h : HartKey)  -- R336
  | markcfg (h : HartKey)  -- R337
  | ping (die : Nat)  -- R338
  | retire (die : Nat)  -- R338
  | keyload (die : Nat)  -- R338
  | firmwareMessage (die : Nat) (status : BitVec 8) (detail : BitVec 32)  -- R338
  | doubleTrapReport (die : Nat)  -- R339
  | linkKillReport (die : Nat)  -- R339
  | portLinkFail (port : Nat)  -- R355
  | packageUnreachable (pkg : Nat)  -- R355
  | dieLinkFail (d e : Nat)  -- R274
  | vlWrite (v : Word)  -- R29
  | vcfgWrite (v : Word)  -- R29
  | rcWrite (v : Word)  -- R29
  | tbnWrite (v : Word)  -- R25
  | eventClear (v : Word)  -- R34
  | tsaveWrite (v : Word)  -- R104
  | lprWrite (v : Word)  -- R178
  | lgoffWrite (v : Word)  -- R180
  | gatecfgWrite (v : Word)  -- R182
  | seedchkWrite (v : Word)  -- R185
  | flcfgWrite (v : Word)  -- R241
  | flselWrite (v : Word)  -- R241
  | flrailWrite (v : Word)  -- R242
  | cqctlClose (on : Bool)  -- R250
  | cqctlPre (on : Bool)  -- R251
  | cqctlSleep (on : Bool)  -- R254
  | cwakeWrite (v : Word)  -- R255
  | mfaqPop (d : Reg)  -- R306
  | energyloRead (d : Reg)  -- R342
  | uvpinClear (v : Word)  -- R343
  | jbaseWrite (v : Word)  -- R331
  | mbxbaseWrite (v : Word)  -- R340
  | mbxreplyWrite (v : Word)  -- R340
  | ptrootWrite (v : Word)  -- R276
  | asidWrite (v : Word)  -- R276
  | sysregWrite (n : BitVec 9) (v : Word)  -- R97
  | encodingNotInstruction (w : Word)  -- R69
  | instructionFetchFault (addr tinfo : Word)  -- R60
  | storageBitError (line : Nat) (bits : List Nat)  -- R302
  | fabricRequestArrival (r : FabricRequest)  -- R347
  | pathAnswersAgain (pkg : Nat)  -- R355
  | fabricPortTrained (port : Nat)  -- R345
  | cxlLinkTrained (flits256 : Bool)  -- R328
deriving DecidableEq, Repr

end Sys2Proof
end

