-- ==== Sys2Proof/WellFormed.lean ====
section
/-! DEFINITION. Well-formed instructions: the field values that R69 leaves to an instruction once its function is known.
A value refused here is an encoding that is not an instruction and raises ILLOP. -/

namespace Sys2Proof

/-- Scope codes 11 to 15 are no scope (R69, R160). -/
def scopeOk (x : BitVec 4) : Bool := decide (x.toNat ≤ 10)

/-- Engine numbers are 1 to 5 (R63, R69). -/
def engineOk (x : BitVec 4) : Bool := decide (1 ≤ x.toNat) && decide (x.toNat ≤ 5)

/-- Format codes 17 to 31 are reserved (R36, R37). -/
def fmtOk (f : BitVec 5) : Bool := decide (f.toNat ≤ 16)

/-- A mask field names `k0` to `k7` (R64). -/
def maskOk (k : Reg) : Bool := decide (k.toNat ≤ 7)

/-- The A field of `KMOV` may also name `kff` and `ksm` (R64). -/
def maskSrcOk (k : Reg) : Bool := decide (k.toNat ≤ 9)

/-- The cfg field of `SETVL` (R68): SEW codes 4 to 7 and FZ 3 are reserved. -/
def cfgOk (c : BitVec 12) : Bool :=
  decide ((c.extractLsb' 0 3).toNat ≤ 3) && decide (c.extractLsb' 5 2 ≠ 3#2)

/-- The places a hart can stand in (R2): a launched hart's, or a die manager core's. -/
def HartKey.ok (h : HartKey) : Bool :=
  decide (h.die < 4) && (h.dm || (decide (h.clu < 16) && decide (h.core < 48) && decide (h.slot < 4)))

/-- A core of the module (R2). -/
def CoreKey.ok (c : CoreKey) : Bool :=
  decide (c.die < 4) && (c.dm || (decide (c.clu < 16) && decide (c.core < 48)))

/-- A flue of the module (R2). -/
def FlueKey.ok (f : FlueKey) : Bool := decide (f.die < 4) && decide (f.clu < 16) && decide (f.flue < 12)

/-- The fields of a tile form that its other fields leave unused, and its scratchpad pairs (R66, R69): MA is zero without A scales
but under `MOPS` (TMAJ 1), whose A scales need a register after MA; SB is zero without B scales; a pair starts at 1 to 30. -/
def Tile.ok (t : Tile) (tmaj : Nat) : Bool :=
  (if tmaj = 1 then t.sae == 0 || t.ma != 31 else t.sae == 1 || t.ma == 0) && (t.sbe == 1 || t.sb == 0) &&
  (t.asp == 0 || (t.a != 0 && t.a != 31)) && (t.bsp == 0 || (t.b != 0 && t.b != 31))

/-- Every instruction of the table with every field value the spec defines. -/
def Instr.wf : Instr → Bool
  | .add .. | .sub .. | .and .. | .or .. | .xor .. | .andn .. | .sll .. | .srl .. | .sra .. | .slt .. | .sltu .. => true
  | .min .. | .max .. | .minu .. | .maxu .. | .mul .. | .mulh .. | .mulhu .. | .div .. | .divu .. | .rem .. | .remu .. => true
  | .clz .. | .ctz .. | .popc .. | .addw .. | .subw .. | .addi .. | .andi .. | .ori .. | .xori .. | .slli .. => true
  | .srli .. | .srai .. | .slti .. | .lui .. | .addpc .. | .beq .. | .bne .. | .blt .. | .bge .. | .bltu .. | .bgeu .. => true
  | .jal .. | .jalr .. => true
  | .lb .. | .lh .. | .lw .. | .ld .. | .lbz .. | .lhz .. | .lwz .. | .sb .. | .sh .. | .sw .. | .sd .. => true
  | .amoswap _ _ _ x _ | .amoadd _ _ _ x _ | .amoand _ _ _ x _ | .amoor _ _ _ x _ | .amoxor _ _ _ x _ => scopeOk x
  | .amomin _ _ _ x _ | .amomax _ _ _ x _ | .amocas _ _ _ x _ | .amowswap _ _ _ x _ | .amowadd _ _ _ x _ => scopeOk x
  | .amowand _ _ _ x _ | .amowor _ _ _ x _ | .amowxor _ _ _ x _ | .amowmin _ _ _ x _ | .amowmax _ _ _ x _ => scopeOk x
  | .amowcas _ _ _ x _ | .lda _ _ x | .lwa _ _ x | .stl _ _ x | .swl _ _ x | .fence x | .fenceSV x | .fenceVS x => scopeOk x
  | .fenceVV x | .fenceSS x => scopeOk x
  | .fenceI | .getsr .. | .putsr .. | .swapsr .. | .setsrb .. | .clrsrb .. | .trap .. | .tret | .wfe .. | .endHart => true
  | .yieldpt .. | .halt | .brkpt .. | .fadd .. | .fsub .. | .fmul .. | .fdiv .. | .fmin .. | .fmax .. | .fsqrt .. => true
  | .fcvtFI .. | .fcvtIF .. | .feq .. | .flt .. | .fle .. => true
  | .setvl _ _ c => cfgOk c
  | .setvlr .. => true
  | .setrc .. => true
  | .setdim _ _ n => decide (n ≠ 3#2)
  | .vaddVV .. | .vsubVV .. | .vrsubVV .. | .vmulVV .. | .vmulhVV .. | .vmulhuVV .. | .vdivVV .. | .vdivuVV .. => true
  | .vremVV .. | .vremuVV .. | .vminVV .. | .vmaxVV .. | .vminuVV .. | .vmaxuVV .. | .vandVV .. | .vorVV .. => true
  | .vxorVV .. | .vsllVV .. | .vsrlVV .. | .vsraVV .. | .vsaddVV .. | .vssubVV .. | .vsadduVV .. | .vssubuVV .. => true
  | .vmaccVV .. | .vabs .. | .vneg .. | .vaddVS .. | .vsubVS .. | .vrsubVS .. | .vmulVS .. | .vmulhVS .. => true
  | .vmulhuVS .. | .vdivVS .. | .vdivuVS .. | .vremVS .. | .vremuVS .. | .vminVS .. | .vmaxVS .. | .vminuVS .. => true
  | .vmaxuVS .. | .vandVS .. | .vorVS .. | .vxorVS .. | .vsllVS .. | .vsrlVS .. | .vsraVS .. | .vsaddVS .. => true
  | .vssubVS .. | .vsadduVS .. | .vssubuVS .. | .vmaccVS .. | .vaddVI .. | .vsubVI .. | .vrsubVI .. | .vmulVI .. => true
  | .vmulhVI .. | .vmulhuVI .. | .vdivVI .. | .vdivuVI .. | .vremVI .. | .vremuVI .. | .vminVI .. | .vmaxVI .. => true
  | .vminuVI .. | .vmaxuVI .. | .vandVI .. | .vorVI .. | .vxorVI .. | .vsllVI .. | .vsrlVI .. | .vsraVI .. => true
  | .vsaddVI .. | .vssubVI .. | .vsadduVI .. | .vssubuVI .. | .vmaccVI .. | .vfaddVV .. | .vfsubVV .. | .vfmulVV .. => true
  | .vfdivVV .. | .vfminVV .. | .vfmaxVV .. | .vfmaVV .. | .vfnmsVV .. | .vfsqrt .. | .vfabs .. | .vfneg .. => true
  | .vfrnd .. | .vfscaleVV .. | .vfclass .. | .vfaddVS .. | .vfsubVS .. | .vfmulVS .. | .vfdivVS .. | .vfminVS .. => true
  | .vfmaxVS .. | .vfmaVS .. | .vfnmsVS .. | .vfscaleVS .. => true
  | .vceqVV d _ _ _ | .vcneVV d _ _ _ | .vcltVV d _ _ _ | .vcleVV d _ _ _ | .vcltuVV d _ _ _ | .vcleuVV d _ _ _ => maskOk d
  | .vfceqVV d _ _ _ | .vfcltVV d _ _ _ | .vfcleVV d _ _ _ | .vfcunVV d _ _ _ | .vceqVS d _ _ _ | .vcneVS d _ _ _ => maskOk d
  | .vcltVS d _ _ _ | .vcleVS d _ _ _ | .vcltuVS d _ _ _ | .vcleuVS d _ _ _ | .vfceqVS d _ _ _ | .vfcltVS d _ _ _ => maskOk d
  | .vfcleVS d _ _ _ | .vfcunVS d _ _ _ => maskOk d
  | .kand d a b | .kor d a b | .kxor d a b | .kandn d a b => maskOk d && maskOk a && maskOk b
  | .knot d a => maskOk d && maskOk a
  | .kset d => maskOk d
  | .kclr d => maskOk d
  | .kmov d a => maskOk d && maskSrcOk a
  | .kpop _ a => maskOk a
  | .kfirst _ a => maskOk a
  | .kfromv d _ => maskOk d
  | .ktov _ a => maskOk a
  | .klt d _ _ => maskOk d
  | .kblk d _ _ => maskOk d
  | .kenc d a _ => maskOk d && maskOk a
  | .vredsum .. | .vredmin .. | .vredmax .. | .vredminu .. | .vredmaxu .. | .vredand .. | .vredor .. | .vfredsum .. => true
  | .vfredmin .. | .vfredmax .. | .vscan .. | .vfscan .. | .vfredsumo .. | .vmov .. | .vsplat .. | .viota .. => true
  | .vslup .. | .vsldn .. | .vrgath .. | .vcmprs .. | .venc .. | .veinfo .. | .vextr .. | .vins .. => true
  | .vcvt _ _ s t _ _ => fmtOk s && fmtOk t
  | .vtabld .. | .vlatd .. | .vdictg .. | .vtabst .. | .vld .. | .vlds .. | .vldx .. | .vldff .. | .vld3 .. | .vldc .. => true
  | .vst .. | .vsts .. | .vstx .. | .vst3 .. | .vstc .. | .vscadd .. | .vscfadd .. => true
  | .vgacq _ _ _ x => scopeOk x
  | .vsrel _ _ _ x => scopeOk x
  | .tkpost .. | .tkwait .. | .lpinfo .. | .gangid .. | .fluest .. | .curcls .. => true
  | .epush _ _ x | .epop _ x | .estat _ x | .epush2 _ _ _ x => engineOk x
  | .menter | .mexit | .settile .. | .mzero .. | .mrdf .. | .mcmprs .. | .maccadd .. | .vbind .. | .vunbind .. => true
  | .splook .. | .spinst .. | .spdrop .. | .spzero .. | .gbar | .gbarv .. | .gbarw .. | .barrive .. | .bwait .. => true
  | .launch .. | .evsig .. | .evwait .. | .qinfo .. | .bjoin .. | .bpost .. | .bpoll .. | .bchk .. | .bleave .. => true
  | .probe .. | .tlbinv .. | .tlbinva .. => true
  | .nInc d p => !(decide (d = 0#5) && decide (p = 0#7))
  | .nCopy .. | .nLdf .. | .nStf .. | .nBrz .. | .nBrnz .. | .nGo .. | .nAcc .. => true
  | .mop t => t.ok 0
  | .mops t => t.ok 1
  | .mopl t => t.ok 2
  | .mopd t => t.ok 3
  | .eventTrap | .timerCompare => true
  | .wfeWake h | .gangBarrierRelease h | .viqDispatch h | .vectorRetire h _ => h.ok
  | .dispatchGateCycle c => c.ok
  | .flueWindowEnd f => f.ok
  | .flrailStepDone f => f.ok
  | .clusterClockStopDone die clu => decide (die < 4) && decide (clu < 16)
  | .clusterClockRestartDone die clu => decide (die < 4) && decide (clu < 16)
  | .schedulerStep die => decide (die < 4)
  | .hartStop h => h.ok
  | .launchCompletion .. => true
  | .hartFelled h => h.ok
  | .pageListReturn slot _ => decide (slot < 256)
  | .groveClose slot => decide (slot < 256)
  | .hostQueueTailWrite die q _ => decide (die < 4) && decide (q < 64)
  | .hostCancelRequest die q _ => decide (die < 4) && decide (q < 64)
  | .hostMailboxWrite die _ => decide (die < 4)
  | .hostMemWrite .. | .moduleReset | .scrub .. => true
  | .thermalSample stack layer temp => decide (stack < 12) && decide (layer ≤ 20) && decide (temp < 256)
  | .sramMonitorCrossing die dom => decide (die < 4) && decide (dom ≤ 16)
  | .engineRecordArrival h _ | .copy h | .conv h | .convef h | .comp h | .decomp h | .fill h | .spfill h | .pgather h => h.ok
  | .igather h | .allred h | .bcast h | .allgath h | .dbar h | .send h | .markcfg h => h.ok
  | .ping die | .retire die | .keyload die | .firmwareMessage die _ _ | .doubleTrapReport die | .linkKillReport die => decide (die < 4)
  | .portLinkFail port => decide (port < 18)
  | .packageUnreachable pkg => decide (pkg < 1152)
  | .dieLinkFail d e => decide (d < 4) && decide (e < 4)
  | .vlWrite .. | .vcfgWrite .. | .rcWrite .. | .tbnWrite .. | .eventClear .. | .tsaveWrite .. | .lprWrite .. => true
  | .lgoffWrite .. | .gatecfgWrite .. | .seedchkWrite .. | .flcfgWrite .. | .flselWrite .. | .flrailWrite .. => true
  | .cqctlClose .. | .cqctlPre .. | .cqctlSleep .. | .cwakeWrite .. | .mfaqPop .. | .energyloRead .. | .uvpinClear .. => true
  | .jbaseWrite .. | .mbxbaseWrite .. | .mbxreplyWrite .. | .ptrootWrite .. | .asidWrite .. | .sysregWrite .. => true
  | .encodingNotInstruction .. | .instructionFetchFault .. => true
  | .storageBitError _ bits => bits.all (· < 568)
  | .fabricRequestArrival .. => true
  | .pathAnswersAgain pkg => decide (pkg < 1152)
  | .fabricPortTrained port => decide (port < 18)
  | .cxlLinkTrained .. => true

/-- Rows with an encoding of their own; the others are steps of the module that no fetched word stands for. -/
def Instr.encoded : Instr → Bool
  | .add .. | .sub .. | .and .. | .or .. | .xor .. | .andn .. | .sll .. | .srl .. | .sra .. | .slt .. | .sltu .. => true
  | .min .. | .max .. | .minu .. | .maxu .. | .mul .. | .mulh .. | .mulhu .. | .div .. | .divu .. | .rem .. | .remu .. => true
  | .clz .. | .ctz .. | .popc .. | .addw .. | .subw .. | .addi .. | .andi .. | .ori .. | .xori .. | .slli .. => true
  | .srli .. | .srai .. | .slti .. | .lui .. | .addpc .. | .beq .. | .bne .. | .blt .. | .bge .. | .bltu .. | .bgeu .. => true
  | .jal .. | .jalr .. | .lb .. | .lh .. | .lw .. | .ld .. | .lbz .. | .lhz .. | .lwz .. | .sb .. | .sh .. | .sw .. => true
  | .sd .. | .amoswap .. | .amoadd .. | .amoand .. | .amoor .. | .amoxor .. | .amomin .. | .amomax .. | .amocas .. => true
  | .amowswap .. | .amowadd .. | .amowand .. | .amowor .. | .amowxor .. | .amowmin .. | .amowmax .. | .amowcas .. => true
  | .lda .. | .lwa .. | .stl .. | .swl .. | .fence .. | .fenceSV .. | .fenceVS .. | .fenceVV .. | .fenceSS .. => true
  | .fenceI | .getsr .. | .putsr .. | .swapsr .. | .setsrb .. | .clrsrb .. | .trap .. | .tret | .wfe .. | .endHart => true
  | .yieldpt .. | .halt | .brkpt .. | .fadd .. | .fsub .. | .fmul .. | .fdiv .. | .fmin .. | .fmax .. | .fsqrt .. => true
  | .fcvtFI .. | .fcvtIF .. | .feq .. | .flt .. | .fle .. | .setvl .. | .setvlr .. | .setrc .. | .setdim .. => true
  | .vaddVV .. | .vsubVV .. | .vrsubVV .. | .vmulVV .. | .vmulhVV .. | .vmulhuVV .. | .vdivVV .. | .vdivuVV .. => true
  | .vremVV .. | .vremuVV .. | .vminVV .. | .vmaxVV .. | .vminuVV .. | .vmaxuVV .. | .vandVV .. | .vorVV .. => true
  | .vxorVV .. | .vsllVV .. | .vsrlVV .. | .vsraVV .. | .vsaddVV .. | .vssubVV .. | .vsadduVV .. | .vssubuVV .. => true
  | .vmaccVV .. | .vabs .. | .vneg .. | .vaddVS .. | .vsubVS .. | .vrsubVS .. | .vmulVS .. | .vmulhVS .. => true
  | .vmulhuVS .. | .vdivVS .. | .vdivuVS .. | .vremVS .. | .vremuVS .. | .vminVS .. | .vmaxVS .. | .vminuVS .. => true
  | .vmaxuVS .. | .vandVS .. | .vorVS .. | .vxorVS .. | .vsllVS .. | .vsrlVS .. | .vsraVS .. | .vsaddVS .. => true
  | .vssubVS .. | .vsadduVS .. | .vssubuVS .. | .vmaccVS .. | .vaddVI .. | .vsubVI .. | .vrsubVI .. | .vmulVI .. => true
  | .vmulhVI .. | .vmulhuVI .. | .vdivVI .. | .vdivuVI .. | .vremVI .. | .vremuVI .. | .vminVI .. | .vmaxVI .. => true
  | .vminuVI .. | .vmaxuVI .. | .vandVI .. | .vorVI .. | .vxorVI .. | .vsllVI .. | .vsrlVI .. | .vsraVI .. => true
  | .vsaddVI .. | .vssubVI .. | .vsadduVI .. | .vssubuVI .. | .vmaccVI .. | .vfaddVV .. | .vfsubVV .. | .vfmulVV .. => true
  | .vfdivVV .. | .vfminVV .. | .vfmaxVV .. | .vfmaVV .. | .vfnmsVV .. | .vfsqrt .. | .vfabs .. | .vfneg .. => true
  | .vfrnd .. | .vfscaleVV .. | .vfclass .. | .vfaddVS .. | .vfsubVS .. | .vfmulVS .. | .vfdivVS .. | .vfminVS .. => true
  | .vfmaxVS .. | .vfmaVS .. | .vfnmsVS .. | .vfscaleVS .. | .vceqVV .. | .vcneVV .. | .vcltVV .. | .vcleVV .. => true
  | .vcltuVV .. | .vcleuVV .. | .vfceqVV .. | .vfcltVV .. | .vfcleVV .. | .vfcunVV .. | .vceqVS .. | .vcneVS .. => true
  | .vcltVS .. | .vcleVS .. | .vcltuVS .. | .vcleuVS .. | .vfceqVS .. | .vfcltVS .. | .vfcleVS .. | .vfcunVS .. => true
  | .kand .. | .kor .. | .kxor .. | .kandn .. | .knot .. | .kset .. | .kclr .. | .kmov .. | .kpop .. | .kfirst .. => true
  | .kfromv .. | .ktov .. | .klt .. | .kblk .. | .kenc .. | .vredsum .. | .vredmin .. | .vredmax .. | .vredminu .. => true
  | .vredmaxu .. | .vredand .. | .vredor .. | .vfredsum .. | .vfredmin .. | .vfredmax .. | .vscan .. | .vfscan .. => true
  | .vfredsumo .. | .vmov .. | .vsplat .. | .viota .. | .vslup .. | .vsldn .. | .vrgath .. | .vcmprs .. | .venc .. => true
  | .veinfo .. | .vextr .. | .vins .. | .vcvt .. | .vtabld .. | .vlatd .. | .vdictg .. | .vtabst .. | .vld .. => true
  | .vlds .. | .vldx .. | .vldff .. | .vld3 .. | .vldc .. | .vst .. | .vsts .. | .vstx .. | .vst3 .. | .vstc .. => true
  | .vscadd .. | .vscfadd .. | .vgacq .. | .vsrel .. | .tkpost .. | .tkwait .. | .lpinfo .. | .gangid .. | .fluest .. => true
  | .curcls .. | .epush .. | .epop .. | .estat .. | .epush2 .. | .menter | .mexit | .settile .. | .mzero .. | .mrdf .. => true
  | .mcmprs .. | .maccadd .. | .vbind .. | .vunbind .. | .splook .. | .spinst .. | .spdrop .. | .spzero .. | .gbar => true
  | .gbarv .. | .gbarw .. | .barrive .. | .bwait .. | .launch .. | .evsig .. | .evwait .. | .qinfo .. | .bjoin .. => true
  | .bpost .. | .bpoll .. | .bchk .. | .bleave .. | .probe .. | .tlbinv .. | .tlbinva .. | .nInc .. | .nCopy .. => true
  | .nLdf .. | .nStf .. | .nBrz .. | .nBrnz .. | .nGo .. | .nAcc .. | .mop .. | .mops .. | .mopl .. | .mopd .. => true
  | .eventTrap | .timerCompare | .wfeWake .. | .gangBarrierRelease .. | .viqDispatch .. | .vectorRetire .. => false
  | .dispatchGateCycle .. | .flueWindowEnd .. | .flrailStepDone .. | .clusterClockStopDone .. => false
  | .clusterClockRestartDone .. | .schedulerStep .. | .hartStop .. | .launchCompletion .. | .hartFelled .. => false
  | .pageListReturn .. | .groveClose .. | .hostQueueTailWrite .. | .hostCancelRequest .. | .hostMailboxWrite .. => false
  | .hostMemWrite .. | .moduleReset | .scrub .. | .thermalSample .. | .sramMonitorCrossing .. => false
  | .engineRecordArrival .. | .copy .. | .conv .. | .convef .. | .comp .. | .decomp .. | .fill .. | .spfill .. => false
  | .pgather .. | .igather .. | .allred .. | .bcast .. | .allgath .. | .dbar .. | .send .. | .markcfg .. | .ping .. => false
  | .retire .. | .keyload .. | .firmwareMessage .. | .doubleTrapReport .. | .linkKillReport .. | .portLinkFail .. => false
  | .packageUnreachable .. | .dieLinkFail .. | .vlWrite .. | .vcfgWrite .. | .rcWrite .. | .tbnWrite .. => false
  | .eventClear .. | .tsaveWrite .. | .lprWrite .. | .lgoffWrite .. | .gatecfgWrite .. | .seedchkWrite .. => false
  | .flcfgWrite .. | .flselWrite .. | .flrailWrite .. | .cqctlClose .. | .cqctlPre .. | .cqctlSleep .. => false
  | .cwakeWrite .. | .mfaqPop .. | .energyloRead .. | .uvpinClear .. | .jbaseWrite .. | .mbxbaseWrite .. => false
  | .mbxreplyWrite .. | .ptrootWrite .. | .asidWrite .. | .sysregWrite .. | .encodingNotInstruction .. => false
  | .instructionFetchFault .. | .storageBitError .. | .fabricRequestArrival .. | .pathAnswersAgain .. => false
  | .fabricPortTrained .. | .cxlLinkTrained .. => false

/-- Bytes an encoded instruction takes (R59); 0 for a step of the module. -/
def Instr.size (i : Instr) : Nat :=
  match i with
  | .nInc .. | .nCopy .. | .nLdf .. | .nStf .. | .nBrz .. | .nBrnz .. | .nGo .. | .nAcc .. => 2
  | .mop .. | .mops .. | .mopl .. | .mopd .. => 8
  | i => if i.encoded then 4 else 0

end Sys2Proof
end

