-- ==== Sys2Proof/Decode.lean ====
section
/-! DEFINITION. The decoder (R59 to R69), total on any bytes and rejecting by name, and after it the encoder written
from the same encoding tables. The section is noncomputable because Lean's compiler builds no constructor beyond the
245th of a type; the kernel evaluates every definition here. -/

namespace Sys2Proof

noncomputable section

/-- Why bytes are no instruction (R69). -/
inductive DecodeError where
  /-- The bytes end before the instruction does. -/
  | short
  /-- Parcel 0x0000 (R59). -/
  | zeroParcel
  /-- MAJ 0x00 or 0x33 to 0x3F, or TMAJ 4 to 63. -/
  | reservedMajor
  /-- A function, W, F3 or kind number that R67 does not list. -/
  | reservedFunction
  /-- A must-be-zero or unused register field is nonzero. -/
  | mustBeZero
  /-- A field value that R69 refuses: scope, engine, dimension, cfg, format or mask code. -/
  | reservedField
deriving DecidableEq, Repr

/-- Bits `lo` to `lo + len - 1` of a word. -/
abbrev bf (lo len : Nat) (w : BitVec n) : BitVec len := w.extractLsb' lo len

/-- An instruction whose must-be-zero bits are checked. -/
def mbz (ok : Bool) (i : Instr) : Except DecodeError Instr := if ok then .ok i else .error .mustBeZero

/-- Major 0x01: the function in bits 31:27 (R67). -/
def decAlu (w : BitVec 32) : Except DecodeError Instr :=
  match (bf 27 5 w).toNat with
  | 0 => mbz (bf 23 4 w == 0) (.add (bf 8 5 w) (bf 13 5 w) (bf 18 5 w))
  | 1 => mbz (bf 23 4 w == 0) (.sub (bf 8 5 w) (bf 13 5 w) (bf 18 5 w))
  | 2 => mbz (bf 23 4 w == 0) (.and (bf 8 5 w) (bf 13 5 w) (bf 18 5 w))
  | 3 => mbz (bf 23 4 w == 0) (.or (bf 8 5 w) (bf 13 5 w) (bf 18 5 w))
  | 4 => mbz (bf 23 4 w == 0) (.xor (bf 8 5 w) (bf 13 5 w) (bf 18 5 w))
  | 5 => mbz (bf 23 4 w == 0) (.andn (bf 8 5 w) (bf 13 5 w) (bf 18 5 w))
  | 6 => mbz (bf 23 4 w == 0) (.sll (bf 8 5 w) (bf 13 5 w) (bf 18 5 w))
  | 7 => mbz (bf 23 4 w == 0) (.srl (bf 8 5 w) (bf 13 5 w) (bf 18 5 w))
  | 8 => mbz (bf 23 4 w == 0) (.sra (bf 8 5 w) (bf 13 5 w) (bf 18 5 w))
  | 9 => mbz (bf 23 4 w == 0) (.slt (bf 8 5 w) (bf 13 5 w) (bf 18 5 w))
  | 10 => mbz (bf 23 4 w == 0) (.sltu (bf 8 5 w) (bf 13 5 w) (bf 18 5 w))
  | 11 => mbz (bf 23 4 w == 0) (.min (bf 8 5 w) (bf 13 5 w) (bf 18 5 w))
  | 12 => mbz (bf 23 4 w == 0) (.max (bf 8 5 w) (bf 13 5 w) (bf 18 5 w))
  | 13 => mbz (bf 23 4 w == 0) (.minu (bf 8 5 w) (bf 13 5 w) (bf 18 5 w))
  | 14 => mbz (bf 23 4 w == 0) (.maxu (bf 8 5 w) (bf 13 5 w) (bf 18 5 w))
  | 15 => mbz (bf 23 4 w == 0) (.mul (bf 8 5 w) (bf 13 5 w) (bf 18 5 w))
  | 16 => mbz (bf 23 4 w == 0) (.mulh (bf 8 5 w) (bf 13 5 w) (bf 18 5 w))
  | 17 => mbz (bf 23 4 w == 0) (.mulhu (bf 8 5 w) (bf 13 5 w) (bf 18 5 w))
  | 18 => mbz (bf 23 4 w == 0) (.div (bf 8 5 w) (bf 13 5 w) (bf 18 5 w))
  | 19 => mbz (bf 23 4 w == 0) (.divu (bf 8 5 w) (bf 13 5 w) (bf 18 5 w))
  | 20 => mbz (bf 23 4 w == 0) (.rem (bf 8 5 w) (bf 13 5 w) (bf 18 5 w))
  | 21 => mbz (bf 23 4 w == 0) (.remu (bf 8 5 w) (bf 13 5 w) (bf 18 5 w))
  | 22 => mbz (bf 18 9 w == 0) (.clz (bf 8 5 w) (bf 13 5 w))
  | 23 => mbz (bf 18 9 w == 0) (.ctz (bf 8 5 w) (bf 13 5 w))
  | 24 => mbz (bf 18 9 w == 0) (.popc (bf 8 5 w) (bf 13 5 w))
  | 25 => mbz (bf 23 4 w == 0) (.addw (bf 8 5 w) (bf 13 5 w) (bf 18 5 w))
  | 26 => mbz (bf 23 4 w == 0) (.subw (bf 8 5 w) (bf 13 5 w) (bf 18 5 w))
  | _ => .error .reservedFunction

/-- Major 0x06: the function in bits 31:30 (R67). -/
def decShi (w : BitVec 32) : Except DecodeError Instr :=
  match (bf 30 2 w).toNat with
  | 0 => mbz (bf 24 6 w == 0) (.slli (bf 8 5 w) (bf 13 5 w) (bf 18 6 w))
  | 1 => mbz (bf 24 6 w == 0) (.srli (bf 8 5 w) (bf 13 5 w) (bf 18 6 w))
  | 2 => mbz (bf 24 6 w == 0) (.srai (bf 8 5 w) (bf 13 5 w) (bf 18 6 w))
  | _ => .error .reservedFunction

/-- Major 0x12: the function in bits 20:18 (R67). -/
def decLoad (w : BitVec 32) : Except DecodeError Instr :=
  match (bf 18 3 w).toNat with
  | 0 => .ok (.lb (bf 8 5 w) (bf 13 5 w) (bf 21 11 w))
  | 1 => .ok (.lh (bf 8 5 w) (bf 13 5 w) (bf 21 11 w))
  | 2 => .ok (.lw (bf 8 5 w) (bf 13 5 w) (bf 21 11 w))
  | 3 => .ok (.ld (bf 8 5 w) (bf 13 5 w) (bf 21 11 w))
  | 4 => .ok (.lbz (bf 8 5 w) (bf 13 5 w) (bf 21 11 w))
  | 5 => .ok (.lhz (bf 8 5 w) (bf 13 5 w) (bf 21 11 w))
  | 6 => .ok (.lwz (bf 8 5 w) (bf 13 5 w) (bf 21 11 w))
  | _ => .error .reservedFunction

/-- Major 0x13: the function in bits 20:18 (R67). -/
def decStore (w : BitVec 32) : Except DecodeError Instr :=
  match (bf 18 3 w).toNat with
  | 0 => .ok (.sb (bf 8 5 w) (bf 13 5 w) (bf 21 11 w))
  | 1 => .ok (.sh (bf 8 5 w) (bf 13 5 w) (bf 21 11 w))
  | 2 => .ok (.sw (bf 8 5 w) (bf 13 5 w) (bf 21 11 w))
  | 3 => .ok (.sd (bf 8 5 w) (bf 13 5 w) (bf 21 11 w))
  | _ => .error .reservedFunction

/-- Major 0x14: the function in bits 29:27 (R67). -/
def decAmo (w : BitVec 32) : Except DecodeError Instr :=
  match (bf 27 3 w).toNat with
  | 0 => .ok (.amoswap (bf 8 5 w) (bf 13 5 w) (bf 18 5 w) (bf 23 4 w) (bf 30 2 w))
  | 1 => .ok (.amoadd (bf 8 5 w) (bf 13 5 w) (bf 18 5 w) (bf 23 4 w) (bf 30 2 w))
  | 2 => .ok (.amoand (bf 8 5 w) (bf 13 5 w) (bf 18 5 w) (bf 23 4 w) (bf 30 2 w))
  | 3 => .ok (.amoor (bf 8 5 w) (bf 13 5 w) (bf 18 5 w) (bf 23 4 w) (bf 30 2 w))
  | 4 => .ok (.amoxor (bf 8 5 w) (bf 13 5 w) (bf 18 5 w) (bf 23 4 w) (bf 30 2 w))
  | 5 => .ok (.amomin (bf 8 5 w) (bf 13 5 w) (bf 18 5 w) (bf 23 4 w) (bf 30 2 w))
  | 6 => .ok (.amomax (bf 8 5 w) (bf 13 5 w) (bf 18 5 w) (bf 23 4 w) (bf 30 2 w))
  | _ => .ok (.amocas (bf 8 5 w) (bf 13 5 w) (bf 18 5 w) (bf 23 4 w) (bf 30 2 w))

/-- Major 0x15: the function in bits 29:27 (R67). -/
def decAmow (w : BitVec 32) : Except DecodeError Instr :=
  match (bf 27 3 w).toNat with
  | 0 => .ok (.amowswap (bf 8 5 w) (bf 13 5 w) (bf 18 5 w) (bf 23 4 w) (bf 30 2 w))
  | 1 => .ok (.amowadd (bf 8 5 w) (bf 13 5 w) (bf 18 5 w) (bf 23 4 w) (bf 30 2 w))
  | 2 => .ok (.amowand (bf 8 5 w) (bf 13 5 w) (bf 18 5 w) (bf 23 4 w) (bf 30 2 w))
  | 3 => .ok (.amowor (bf 8 5 w) (bf 13 5 w) (bf 18 5 w) (bf 23 4 w) (bf 30 2 w))
  | 4 => .ok (.amowxor (bf 8 5 w) (bf 13 5 w) (bf 18 5 w) (bf 23 4 w) (bf 30 2 w))
  | 5 => .ok (.amowmin (bf 8 5 w) (bf 13 5 w) (bf 18 5 w) (bf 23 4 w) (bf 30 2 w))
  | 6 => .ok (.amowmax (bf 8 5 w) (bf 13 5 w) (bf 18 5 w) (bf 23 4 w) (bf 30 2 w))
  | _ => .ok (.amowcas (bf 8 5 w) (bf 13 5 w) (bf 18 5 w) (bf 23 4 w) (bf 30 2 w))

/-- Major 0x16: the function in bits 31:27 (R67). -/
def decLso (w : BitVec 32) : Except DecodeError Instr :=
  match (bf 27 5 w).toNat with
  | 0 => mbz (bf 18 5 w == 0) (.lda (bf 8 5 w) (bf 13 5 w) (bf 23 4 w))
  | 1 => mbz (bf 18 5 w == 0) (.lwa (bf 8 5 w) (bf 13 5 w) (bf 23 4 w))
  | 2 => mbz (bf 8 5 w == 0) (.stl (bf 13 5 w) (bf 18 5 w) (bf 23 4 w))
  | 3 => mbz (bf 8 5 w == 0) (.swl (bf 13 5 w) (bf 18 5 w) (bf 23 4 w))
  | _ => .error .reservedFunction

/-- Major 0x17: the function in bits 31:27 (R67). -/
def decFence (w : BitVec 32) : Except DecodeError Instr :=
  match (bf 27 5 w).toNat with
  | 0 => mbz (bf 8 15 w == 0) (.fence (bf 23 4 w))
  | 1 => mbz (bf 8 15 w == 0) (.fenceSV (bf 23 4 w))
  | 2 => mbz (bf 8 15 w == 0) (.fenceVS (bf 23 4 w))
  | 3 => mbz (bf 8 15 w == 0) (.fenceVV (bf 23 4 w))
  | 4 => mbz (bf 8 15 w == 0) (.fenceSS (bf 23 4 w))
  | 5 => mbz (bf 8 19 w == 0) (.fenceI)
  | _ => .error .reservedFunction

/-- Major 0x18: the function in bits 22:18 (R67). -/
def decSys (w : BitVec 32) : Except DecodeError Instr :=
  match (bf 18 5 w).toNat with
  | 0 => mbz (bf 13 5 w == 0) (.getsr (bf 8 5 w) (bf 23 9 w))
  | 1 => mbz (bf 8 5 w == 0) (.putsr (bf 13 5 w) (bf 23 9 w))
  | 2 => .ok (.swapsr (bf 8 5 w) (bf 13 5 w) (bf 23 9 w))
  | 3 => .ok (.setsrb (bf 8 5 w) (bf 13 5 w) (bf 23 9 w))
  | 4 => .ok (.clrsrb (bf 8 5 w) (bf 13 5 w) (bf 23 9 w))
  | 5 => mbz (bf 8 5 w == 0) (.trap (bf 13 5 w) (bf 23 9 w))
  | 6 => mbz (bf 8 10 w == 0 && bf 23 9 w == 0) (.tret)
  | 7 => mbz (bf 13 5 w == 0 && bf 23 9 w == 0) (.wfe (bf 8 5 w))
  | 8 => mbz (bf 8 10 w == 0 && bf 23 9 w == 0) (.endHart)
  | 9 => mbz (bf 8 5 w == 0 && bf 24 8 w == 0) (.yieldpt (bf 13 5 w) (bf 23 1 w))
  | 10 => mbz (bf 8 10 w == 0 && bf 23 9 w == 0) (.halt)
  | 11 => mbz (bf 8 10 w == 0) (.brkpt (bf 23 9 w))
  | _ => .error .reservedFunction

/-- Major 0x19: the function in bits 31:27 (R67). -/
def decSfp (w : BitVec 32) : Except DecodeError Instr :=
  match (bf 27 5 w).toNat with
  | 0 => mbz (bf 23 4 w == 0) (.fadd (bf 8 5 w) (bf 13 5 w) (bf 18 5 w))
  | 1 => mbz (bf 23 4 w == 0) (.fsub (bf 8 5 w) (bf 13 5 w) (bf 18 5 w))
  | 2 => mbz (bf 23 4 w == 0) (.fmul (bf 8 5 w) (bf 13 5 w) (bf 18 5 w))
  | 3 => mbz (bf 23 4 w == 0) (.fdiv (bf 8 5 w) (bf 13 5 w) (bf 18 5 w))
  | 4 => mbz (bf 23 4 w == 0) (.fmin (bf 8 5 w) (bf 13 5 w) (bf 18 5 w))
  | 5 => mbz (bf 23 4 w == 0) (.fmax (bf 8 5 w) (bf 13 5 w) (bf 18 5 w))
  | 6 => mbz (bf 18 9 w == 0) (.fsqrt (bf 8 5 w) (bf 13 5 w))
  | 7 => mbz (bf 18 9 w == 0) (.fcvtFI (bf 8 5 w) (bf 13 5 w))
  | 8 => mbz (bf 18 9 w == 0) (.fcvtIF (bf 8 5 w) (bf 13 5 w))
  | 9 => mbz (bf 23 4 w == 0) (.feq (bf 8 5 w) (bf 13 5 w) (bf 18 5 w))
  | 10 => mbz (bf 23 4 w == 0) (.flt (bf 8 5 w) (bf 13 5 w) (bf 18 5 w))
  | 11 => mbz (bf 23 4 w == 0) (.fle (bf 8 5 w) (bf 13 5 w) (bf 18 5 w))
  | _ => .error .reservedFunction

/-- Major 0x1B: the function in bits 31:27 (R67). -/
def decVcfgx (w : BitVec 32) : Except DecodeError Instr :=
  match (bf 27 5 w).toNat with
  | 0 => mbz (bf 23 4 w == 0) (.setvlr (bf 8 5 w) (bf 13 5 w) (bf 18 5 w))
  | 1 => mbz (bf 18 9 w == 0) (.setrc (bf 8 5 w) (bf 13 5 w))
  | 2 => mbz (bf 8 5 w == 0 && bf 25 2 w == 0) (.setdim (bf 13 5 w) (bf 18 5 w) (bf 23 2 w))
  | _ => .error .reservedFunction

/-- Major 0x1C: the function in bits 31:27 (R67). -/
def decViVV (w : BitVec 32) : Except DecodeError Instr :=
  match (bf 27 5 w).toNat with
  | 0 => .ok (.vaddVV (bf 8 5 w) (bf 13 5 w) (bf 18 5 w) (bf 23 3 w) (bf 26 1 w))
  | 1 => .ok (.vsubVV (bf 8 5 w) (bf 13 5 w) (bf 18 5 w) (bf 23 3 w) (bf 26 1 w))
  | 2 => .ok (.vrsubVV (bf 8 5 w) (bf 13 5 w) (bf 18 5 w) (bf 23 3 w) (bf 26 1 w))
  | 3 => .ok (.vmulVV (bf 8 5 w) (bf 13 5 w) (bf 18 5 w) (bf 23 3 w) (bf 26 1 w))
  | 4 => .ok (.vmulhVV (bf 8 5 w) (bf 13 5 w) (bf 18 5 w) (bf 23 3 w) (bf 26 1 w))
  | 5 => .ok (.vmulhuVV (bf 8 5 w) (bf 13 5 w) (bf 18 5 w) (bf 23 3 w) (bf 26 1 w))
  | 6 => .ok (.vdivVV (bf 8 5 w) (bf 13 5 w) (bf 18 5 w) (bf 23 3 w) (bf 26 1 w))
  | 7 => .ok (.vdivuVV (bf 8 5 w) (bf 13 5 w) (bf 18 5 w) (bf 23 3 w) (bf 26 1 w))
  | 8 => .ok (.vremVV (bf 8 5 w) (bf 13 5 w) (bf 18 5 w) (bf 23 3 w) (bf 26 1 w))
  | 9 => .ok (.vremuVV (bf 8 5 w) (bf 13 5 w) (bf 18 5 w) (bf 23 3 w) (bf 26 1 w))
  | 10 => .ok (.vminVV (bf 8 5 w) (bf 13 5 w) (bf 18 5 w) (bf 23 3 w) (bf 26 1 w))
  | 11 => .ok (.vmaxVV (bf 8 5 w) (bf 13 5 w) (bf 18 5 w) (bf 23 3 w) (bf 26 1 w))
  | 12 => .ok (.vminuVV (bf 8 5 w) (bf 13 5 w) (bf 18 5 w) (bf 23 3 w) (bf 26 1 w))
  | 13 => .ok (.vmaxuVV (bf 8 5 w) (bf 13 5 w) (bf 18 5 w) (bf 23 3 w) (bf 26 1 w))
  | 14 => .ok (.vandVV (bf 8 5 w) (bf 13 5 w) (bf 18 5 w) (bf 23 3 w) (bf 26 1 w))
  | 15 => .ok (.vorVV (bf 8 5 w) (bf 13 5 w) (bf 18 5 w) (bf 23 3 w) (bf 26 1 w))
  | 16 => .ok (.vxorVV (bf 8 5 w) (bf 13 5 w) (bf 18 5 w) (bf 23 3 w) (bf 26 1 w))
  | 17 => .ok (.vsllVV (bf 8 5 w) (bf 13 5 w) (bf 18 5 w) (bf 23 3 w) (bf 26 1 w))
  | 18 => .ok (.vsrlVV (bf 8 5 w) (bf 13 5 w) (bf 18 5 w) (bf 23 3 w) (bf 26 1 w))
  | 19 => .ok (.vsraVV (bf 8 5 w) (bf 13 5 w) (bf 18 5 w) (bf 23 3 w) (bf 26 1 w))
  | 20 => .ok (.vsaddVV (bf 8 5 w) (bf 13 5 w) (bf 18 5 w) (bf 23 3 w) (bf 26 1 w))
  | 21 => .ok (.vssubVV (bf 8 5 w) (bf 13 5 w) (bf 18 5 w) (bf 23 3 w) (bf 26 1 w))
  | 22 => .ok (.vsadduVV (bf 8 5 w) (bf 13 5 w) (bf 18 5 w) (bf 23 3 w) (bf 26 1 w))
  | 23 => .ok (.vssubuVV (bf 8 5 w) (bf 13 5 w) (bf 18 5 w) (bf 23 3 w) (bf 26 1 w))
  | 24 => .ok (.vmaccVV (bf 8 5 w) (bf 13 5 w) (bf 18 5 w) (bf 23 3 w) (bf 26 1 w))
  | 25 => mbz (bf 18 5 w == 0) (.vabs (bf 8 5 w) (bf 13 5 w) (bf 23 3 w) (bf 26 1 w))
  | 26 => mbz (bf 18 5 w == 0) (.vneg (bf 8 5 w) (bf 13 5 w) (bf 23 3 w) (bf 26 1 w))
  | _ => .error .reservedFunction

/-- Major 0x1D: the function in bits 31:27 (R67). -/
def decViVS (w : BitVec 32) : Except DecodeError Instr :=
  match (bf 27 5 w).toNat with
  | 0 => .ok (.vaddVS (bf 8 5 w) (bf 13 5 w) (bf 18 5 w) (bf 23 3 w) (bf 26 1 w))
  | 1 => .ok (.vsubVS (bf 8 5 w) (bf 13 5 w) (bf 18 5 w) (bf 23 3 w) (bf 26 1 w))
  | 2 => .ok (.vrsubVS (bf 8 5 w) (bf 13 5 w) (bf 18 5 w) (bf 23 3 w) (bf 26 1 w))
  | 3 => .ok (.vmulVS (bf 8 5 w) (bf 13 5 w) (bf 18 5 w) (bf 23 3 w) (bf 26 1 w))
  | 4 => .ok (.vmulhVS (bf 8 5 w) (bf 13 5 w) (bf 18 5 w) (bf 23 3 w) (bf 26 1 w))
  | 5 => .ok (.vmulhuVS (bf 8 5 w) (bf 13 5 w) (bf 18 5 w) (bf 23 3 w) (bf 26 1 w))
  | 6 => .ok (.vdivVS (bf 8 5 w) (bf 13 5 w) (bf 18 5 w) (bf 23 3 w) (bf 26 1 w))
  | 7 => .ok (.vdivuVS (bf 8 5 w) (bf 13 5 w) (bf 18 5 w) (bf 23 3 w) (bf 26 1 w))
  | 8 => .ok (.vremVS (bf 8 5 w) (bf 13 5 w) (bf 18 5 w) (bf 23 3 w) (bf 26 1 w))
  | 9 => .ok (.vremuVS (bf 8 5 w) (bf 13 5 w) (bf 18 5 w) (bf 23 3 w) (bf 26 1 w))
  | 10 => .ok (.vminVS (bf 8 5 w) (bf 13 5 w) (bf 18 5 w) (bf 23 3 w) (bf 26 1 w))
  | 11 => .ok (.vmaxVS (bf 8 5 w) (bf 13 5 w) (bf 18 5 w) (bf 23 3 w) (bf 26 1 w))
  | 12 => .ok (.vminuVS (bf 8 5 w) (bf 13 5 w) (bf 18 5 w) (bf 23 3 w) (bf 26 1 w))
  | 13 => .ok (.vmaxuVS (bf 8 5 w) (bf 13 5 w) (bf 18 5 w) (bf 23 3 w) (bf 26 1 w))
  | 14 => .ok (.vandVS (bf 8 5 w) (bf 13 5 w) (bf 18 5 w) (bf 23 3 w) (bf 26 1 w))
  | 15 => .ok (.vorVS (bf 8 5 w) (bf 13 5 w) (bf 18 5 w) (bf 23 3 w) (bf 26 1 w))
  | 16 => .ok (.vxorVS (bf 8 5 w) (bf 13 5 w) (bf 18 5 w) (bf 23 3 w) (bf 26 1 w))
  | 17 => .ok (.vsllVS (bf 8 5 w) (bf 13 5 w) (bf 18 5 w) (bf 23 3 w) (bf 26 1 w))
  | 18 => .ok (.vsrlVS (bf 8 5 w) (bf 13 5 w) (bf 18 5 w) (bf 23 3 w) (bf 26 1 w))
  | 19 => .ok (.vsraVS (bf 8 5 w) (bf 13 5 w) (bf 18 5 w) (bf 23 3 w) (bf 26 1 w))
  | 20 => .ok (.vsaddVS (bf 8 5 w) (bf 13 5 w) (bf 18 5 w) (bf 23 3 w) (bf 26 1 w))
  | 21 => .ok (.vssubVS (bf 8 5 w) (bf 13 5 w) (bf 18 5 w) (bf 23 3 w) (bf 26 1 w))
  | 22 => .ok (.vsadduVS (bf 8 5 w) (bf 13 5 w) (bf 18 5 w) (bf 23 3 w) (bf 26 1 w))
  | 23 => .ok (.vssubuVS (bf 8 5 w) (bf 13 5 w) (bf 18 5 w) (bf 23 3 w) (bf 26 1 w))
  | 24 => .ok (.vmaccVS (bf 8 5 w) (bf 13 5 w) (bf 18 5 w) (bf 23 3 w) (bf 26 1 w))
  | _ => .error .reservedFunction

/-- Major 0x1E: the function in bits 31:27 (R67). -/
def decViVI (w : BitVec 32) : Except DecodeError Instr :=
  match (bf 27 5 w).toNat with
  | 0 => .ok (.vaddVI (bf 8 5 w) (bf 13 5 w) (bf 18 5 w) (bf 23 3 w) (bf 26 1 w))
  | 1 => .ok (.vsubVI (bf 8 5 w) (bf 13 5 w) (bf 18 5 w) (bf 23 3 w) (bf 26 1 w))
  | 2 => .ok (.vrsubVI (bf 8 5 w) (bf 13 5 w) (bf 18 5 w) (bf 23 3 w) (bf 26 1 w))
  | 3 => .ok (.vmulVI (bf 8 5 w) (bf 13 5 w) (bf 18 5 w) (bf 23 3 w) (bf 26 1 w))
  | 4 => .ok (.vmulhVI (bf 8 5 w) (bf 13 5 w) (bf 18 5 w) (bf 23 3 w) (bf 26 1 w))
  | 5 => .ok (.vmulhuVI (bf 8 5 w) (bf 13 5 w) (bf 18 5 w) (bf 23 3 w) (bf 26 1 w))
  | 6 => .ok (.vdivVI (bf 8 5 w) (bf 13 5 w) (bf 18 5 w) (bf 23 3 w) (bf 26 1 w))
  | 7 => .ok (.vdivuVI (bf 8 5 w) (bf 13 5 w) (bf 18 5 w) (bf 23 3 w) (bf 26 1 w))
  | 8 => .ok (.vremVI (bf 8 5 w) (bf 13 5 w) (bf 18 5 w) (bf 23 3 w) (bf 26 1 w))
  | 9 => .ok (.vremuVI (bf 8 5 w) (bf 13 5 w) (bf 18 5 w) (bf 23 3 w) (bf 26 1 w))
  | 10 => .ok (.vminVI (bf 8 5 w) (bf 13 5 w) (bf 18 5 w) (bf 23 3 w) (bf 26 1 w))
  | 11 => .ok (.vmaxVI (bf 8 5 w) (bf 13 5 w) (bf 18 5 w) (bf 23 3 w) (bf 26 1 w))
  | 12 => .ok (.vminuVI (bf 8 5 w) (bf 13 5 w) (bf 18 5 w) (bf 23 3 w) (bf 26 1 w))
  | 13 => .ok (.vmaxuVI (bf 8 5 w) (bf 13 5 w) (bf 18 5 w) (bf 23 3 w) (bf 26 1 w))
  | 14 => .ok (.vandVI (bf 8 5 w) (bf 13 5 w) (bf 18 5 w) (bf 23 3 w) (bf 26 1 w))
  | 15 => .ok (.vorVI (bf 8 5 w) (bf 13 5 w) (bf 18 5 w) (bf 23 3 w) (bf 26 1 w))
  | 16 => .ok (.vxorVI (bf 8 5 w) (bf 13 5 w) (bf 18 5 w) (bf 23 3 w) (bf 26 1 w))
  | 17 => .ok (.vsllVI (bf 8 5 w) (bf 13 5 w) (bf 18 5 w) (bf 23 3 w) (bf 26 1 w))
  | 18 => .ok (.vsrlVI (bf 8 5 w) (bf 13 5 w) (bf 18 5 w) (bf 23 3 w) (bf 26 1 w))
  | 19 => .ok (.vsraVI (bf 8 5 w) (bf 13 5 w) (bf 18 5 w) (bf 23 3 w) (bf 26 1 w))
  | 20 => .ok (.vsaddVI (bf 8 5 w) (bf 13 5 w) (bf 18 5 w) (bf 23 3 w) (bf 26 1 w))
  | 21 => .ok (.vssubVI (bf 8 5 w) (bf 13 5 w) (bf 18 5 w) (bf 23 3 w) (bf 26 1 w))
  | 22 => .ok (.vsadduVI (bf 8 5 w) (bf 13 5 w) (bf 18 5 w) (bf 23 3 w) (bf 26 1 w))
  | 23 => .ok (.vssubuVI (bf 8 5 w) (bf 13 5 w) (bf 18 5 w) (bf 23 3 w) (bf 26 1 w))
  | 24 => .ok (.vmaccVI (bf 8 5 w) (bf 13 5 w) (bf 18 5 w) (bf 23 3 w) (bf 26 1 w))
  | _ => .error .reservedFunction

/-- Major 0x1F: the function in bits 31:27 (R67). -/
def decVfVV (w : BitVec 32) : Except DecodeError Instr :=
  match (bf 27 5 w).toNat with
  | 0 => .ok (.vfaddVV (bf 8 5 w) (bf 13 5 w) (bf 18 5 w) (bf 23 3 w) (bf 26 1 w))
  | 1 => .ok (.vfsubVV (bf 8 5 w) (bf 13 5 w) (bf 18 5 w) (bf 23 3 w) (bf 26 1 w))
  | 2 => .ok (.vfmulVV (bf 8 5 w) (bf 13 5 w) (bf 18 5 w) (bf 23 3 w) (bf 26 1 w))
  | 3 => .ok (.vfdivVV (bf 8 5 w) (bf 13 5 w) (bf 18 5 w) (bf 23 3 w) (bf 26 1 w))
  | 4 => .ok (.vfminVV (bf 8 5 w) (bf 13 5 w) (bf 18 5 w) (bf 23 3 w) (bf 26 1 w))
  | 5 => .ok (.vfmaxVV (bf 8 5 w) (bf 13 5 w) (bf 18 5 w) (bf 23 3 w) (bf 26 1 w))
  | 6 => .ok (.vfmaVV (bf 8 5 w) (bf 13 5 w) (bf 18 5 w) (bf 23 3 w) (bf 26 1 w))
  | 7 => .ok (.vfnmsVV (bf 8 5 w) (bf 13 5 w) (bf 18 5 w) (bf 23 3 w) (bf 26 1 w))
  | 8 => mbz (bf 18 5 w == 0) (.vfsqrt (bf 8 5 w) (bf 13 5 w) (bf 23 3 w) (bf 26 1 w))
  | 9 => mbz (bf 18 5 w == 0) (.vfabs (bf 8 5 w) (bf 13 5 w) (bf 23 3 w) (bf 26 1 w))
  | 10 => mbz (bf 18 5 w == 0) (.vfneg (bf 8 5 w) (bf 13 5 w) (bf 23 3 w) (bf 26 1 w))
  | 11 => mbz (bf 18 5 w == 0) (.vfrnd (bf 8 5 w) (bf 13 5 w) (bf 23 3 w) (bf 26 1 w))
  | 12 => .ok (.vfscaleVV (bf 8 5 w) (bf 13 5 w) (bf 18 5 w) (bf 23 3 w) (bf 26 1 w))
  | 13 => mbz (bf 18 5 w == 0) (.vfclass (bf 8 5 w) (bf 13 5 w) (bf 23 3 w) (bf 26 1 w))
  | _ => .error .reservedFunction

/-- Major 0x20: the function in bits 31:27 (R67). -/
def decVfVS (w : BitVec 32) : Except DecodeError Instr :=
  match (bf 27 5 w).toNat with
  | 0 => .ok (.vfaddVS (bf 8 5 w) (bf 13 5 w) (bf 18 5 w) (bf 23 3 w) (bf 26 1 w))
  | 1 => .ok (.vfsubVS (bf 8 5 w) (bf 13 5 w) (bf 18 5 w) (bf 23 3 w) (bf 26 1 w))
  | 2 => .ok (.vfmulVS (bf 8 5 w) (bf 13 5 w) (bf 18 5 w) (bf 23 3 w) (bf 26 1 w))
  | 3 => .ok (.vfdivVS (bf 8 5 w) (bf 13 5 w) (bf 18 5 w) (bf 23 3 w) (bf 26 1 w))
  | 4 => .ok (.vfminVS (bf 8 5 w) (bf 13 5 w) (bf 18 5 w) (bf 23 3 w) (bf 26 1 w))
  | 5 => .ok (.vfmaxVS (bf 8 5 w) (bf 13 5 w) (bf 18 5 w) (bf 23 3 w) (bf 26 1 w))
  | 6 => .ok (.vfmaVS (bf 8 5 w) (bf 13 5 w) (bf 18 5 w) (bf 23 3 w) (bf 26 1 w))
  | 7 => .ok (.vfnmsVS (bf 8 5 w) (bf 13 5 w) (bf 18 5 w) (bf 23 3 w) (bf 26 1 w))
  | 12 => .ok (.vfscaleVS (bf 8 5 w) (bf 13 5 w) (bf 18 5 w) (bf 23 3 w) (bf 26 1 w))
  | _ => .error .reservedFunction

/-- Major 0x21: the function in bits 31:27 (R67). -/
def decVcmp (w : BitVec 32) : Except DecodeError Instr :=
  match (bf 27 5 w).toNat with
  | 0 => .ok (if bf 26 1 w = 0#1 then .vceqVV (bf 8 5 w) (bf 13 5 w) (bf 18 5 w) (bf 23 3 w) else .vceqVS (bf 8 5 w) (bf 13 5 w) (bf 18 5 w) (bf 23 3 w))
  | 1 => .ok (if bf 26 1 w = 0#1 then .vcneVV (bf 8 5 w) (bf 13 5 w) (bf 18 5 w) (bf 23 3 w) else .vcneVS (bf 8 5 w) (bf 13 5 w) (bf 18 5 w) (bf 23 3 w))
  | 2 => .ok (if bf 26 1 w = 0#1 then .vcltVV (bf 8 5 w) (bf 13 5 w) (bf 18 5 w) (bf 23 3 w) else .vcltVS (bf 8 5 w) (bf 13 5 w) (bf 18 5 w) (bf 23 3 w))
  | 3 => .ok (if bf 26 1 w = 0#1 then .vcleVV (bf 8 5 w) (bf 13 5 w) (bf 18 5 w) (bf 23 3 w) else .vcleVS (bf 8 5 w) (bf 13 5 w) (bf 18 5 w) (bf 23 3 w))
  | 4 => .ok (if bf 26 1 w = 0#1 then .vcltuVV (bf 8 5 w) (bf 13 5 w) (bf 18 5 w) (bf 23 3 w) else .vcltuVS (bf 8 5 w) (bf 13 5 w) (bf 18 5 w) (bf 23 3 w))
  | 5 => .ok (if bf 26 1 w = 0#1 then .vcleuVV (bf 8 5 w) (bf 13 5 w) (bf 18 5 w) (bf 23 3 w) else .vcleuVS (bf 8 5 w) (bf 13 5 w) (bf 18 5 w) (bf 23 3 w))
  | 6 => .ok (if bf 26 1 w = 0#1 then .vfceqVV (bf 8 5 w) (bf 13 5 w) (bf 18 5 w) (bf 23 3 w) else .vfceqVS (bf 8 5 w) (bf 13 5 w) (bf 18 5 w) (bf 23 3 w))
  | 7 => .ok (if bf 26 1 w = 0#1 then .vfcltVV (bf 8 5 w) (bf 13 5 w) (bf 18 5 w) (bf 23 3 w) else .vfcltVS (bf 8 5 w) (bf 13 5 w) (bf 18 5 w) (bf 23 3 w))
  | 8 => .ok (if bf 26 1 w = 0#1 then .vfcleVV (bf 8 5 w) (bf 13 5 w) (bf 18 5 w) (bf 23 3 w) else .vfcleVS (bf 8 5 w) (bf 13 5 w) (bf 18 5 w) (bf 23 3 w))
  | 9 => .ok (if bf 26 1 w = 0#1 then .vfcunVV (bf 8 5 w) (bf 13 5 w) (bf 18 5 w) (bf 23 3 w) else .vfcunVS (bf 8 5 w) (bf 13 5 w) (bf 18 5 w) (bf 23 3 w))
  | _ => .error .reservedFunction

/-- Major 0x22: the function in bits 31:27 (R67). -/
def decKop (w : BitVec 32) : Except DecodeError Instr :=
  match (bf 27 5 w).toNat with
  | 0 => mbz (bf 23 4 w == 0) (.kand (bf 8 5 w) (bf 13 5 w) (bf 18 5 w))
  | 1 => mbz (bf 23 4 w == 0) (.kor (bf 8 5 w) (bf 13 5 w) (bf 18 5 w))
  | 2 => mbz (bf 23 4 w == 0) (.kxor (bf 8 5 w) (bf 13 5 w) (bf 18 5 w))
  | 3 => mbz (bf 23 4 w == 0) (.kandn (bf 8 5 w) (bf 13 5 w) (bf 18 5 w))
  | 4 => mbz (bf 18 9 w == 0) (.knot (bf 8 5 w) (bf 13 5 w))
  | 5 => mbz (bf 13 14 w == 0) (.kset (bf 8 5 w))
  | 6 => mbz (bf 13 14 w == 0) (.kclr (bf 8 5 w))
  | 7 => mbz (bf 18 9 w == 0) (.kmov (bf 8 5 w) (bf 13 5 w))
  | 8 => mbz (bf 18 9 w == 0) (.kpop (bf 8 5 w) (bf 13 5 w))
  | 9 => mbz (bf 18 9 w == 0) (.kfirst (bf 8 5 w) (bf 13 5 w))
  | 10 => mbz (bf 18 9 w == 0) (.kfromv (bf 8 5 w) (bf 13 5 w))
  | 11 => mbz (bf 18 9 w == 0) (.ktov (bf 8 5 w) (bf 13 5 w))
  | 12 => mbz (bf 23 4 w == 0) (.klt (bf 8 5 w) (bf 13 5 w) (bf 18 5 w))
  | 13 => mbz (bf 23 4 w == 0) (.kblk (bf 8 5 w) (bf 13 5 w) (bf 18 5 w))
  | 14 => mbz (bf 23 4 w == 0) (.kenc (bf 8 5 w) (bf 13 5 w) (bf 18 5 w))
  | _ => .error .reservedFunction

/-- Major 0x23: the function in bits 31:27 (R67). -/
def decVred (w : BitVec 32) : Except DecodeError Instr :=
  match (bf 27 5 w).toNat with
  | 0 => mbz (bf 18 5 w == 0) (.vredsum (bf 8 5 w) (bf 13 5 w) (bf 23 3 w) (bf 26 1 w))
  | 1 => mbz (bf 18 5 w == 0) (.vredmin (bf 8 5 w) (bf 13 5 w) (bf 23 3 w) (bf 26 1 w))
  | 2 => mbz (bf 18 5 w == 0) (.vredmax (bf 8 5 w) (bf 13 5 w) (bf 23 3 w) (bf 26 1 w))
  | 3 => mbz (bf 18 5 w == 0) (.vredminu (bf 8 5 w) (bf 13 5 w) (bf 23 3 w) (bf 26 1 w))
  | 4 => mbz (bf 18 5 w == 0) (.vredmaxu (bf 8 5 w) (bf 13 5 w) (bf 23 3 w) (bf 26 1 w))
  | 5 => mbz (bf 18 5 w == 0) (.vredand (bf 8 5 w) (bf 13 5 w) (bf 23 3 w) (bf 26 1 w))
  | 6 => mbz (bf 18 5 w == 0) (.vredor (bf 8 5 w) (bf 13 5 w) (bf 23 3 w) (bf 26 1 w))
  | 7 => mbz (bf 18 5 w == 0) (.vfredsum (bf 8 5 w) (bf 13 5 w) (bf 23 3 w) (bf 26 1 w))
  | 8 => mbz (bf 18 5 w == 0) (.vfredmin (bf 8 5 w) (bf 13 5 w) (bf 23 3 w) (bf 26 1 w))
  | 9 => mbz (bf 18 5 w == 0) (.vfredmax (bf 8 5 w) (bf 13 5 w) (bf 23 3 w) (bf 26 1 w))
  | 10 => mbz (bf 18 5 w == 0) (.vscan (bf 8 5 w) (bf 13 5 w) (bf 23 3 w) (bf 26 1 w))
  | 11 => mbz (bf 18 5 w == 0) (.vfscan (bf 8 5 w) (bf 13 5 w) (bf 23 3 w) (bf 26 1 w))
  | 12 => mbz (bf 18 5 w == 0) (.vfredsumo (bf 8 5 w) (bf 13 5 w) (bf 23 3 w) (bf 26 1 w))
  | _ => .error .reservedFunction

/-- Major 0x24: the function in bits 31:27 (R67). -/
def decVperm (w : BitVec 32) : Except DecodeError Instr :=
  match (bf 27 5 w).toNat with
  | 0 => mbz (bf 18 5 w == 0) (.vmov (bf 8 5 w) (bf 13 5 w) (bf 23 3 w) (bf 26 1 w))
  | 1 => mbz (bf 18 5 w == 0) (.vsplat (bf 8 5 w) (bf 13 5 w) (bf 23 3 w) (bf 26 1 w))
  | 2 => mbz (bf 18 5 w == 0) (.viota (bf 8 5 w) (bf 13 5 w) (bf 23 3 w) (bf 26 1 w))
  | 3 => .ok (.vslup (bf 8 5 w) (bf 13 5 w) (bf 18 5 w) (bf 23 3 w) (bf 26 1 w))
  | 4 => .ok (.vsldn (bf 8 5 w) (bf 13 5 w) (bf 18 5 w) (bf 23 3 w) (bf 26 1 w))
  | 5 => .ok (.vrgath (bf 8 5 w) (bf 13 5 w) (bf 18 5 w) (bf 23 3 w) (bf 26 1 w))
  | 6 => mbz (bf 18 5 w == 0) (.vcmprs (bf 8 5 w) (bf 13 5 w) (bf 23 3 w) (bf 26 1 w))
  | 7 => mbz (bf 23 4 w == 0) (.venc (bf 8 5 w) (bf 13 5 w) (bf 18 5 w))
  | 8 => mbz (bf 18 8 w == 0) (.veinfo (bf 8 5 w) (bf 13 5 w) (bf 26 1 w))
  | 9 => mbz (bf 23 3 w == 0) (.vextr (bf 8 5 w) (bf 13 5 w) (bf 18 5 w) (bf 26 1 w))
  | 10 => mbz (bf 23 3 w == 0) (.vins (bf 8 5 w) (bf 13 5 w) (bf 18 5 w) (bf 26 1 w))
  | _ => .error .reservedFunction

/-- Major 0x26: the function in bits 31:27 (R67). -/
def decVtab (w : BitVec 32) : Except DecodeError Instr :=
  match (bf 27 5 w).toNat with
  | 0 => mbz (bf 8 5 w == 0 && bf 18 9 w == 0) (.vtabld (bf 13 5 w))
  | 1 => .ok (.vlatd (bf 8 5 w) (bf 13 5 w) (bf 18 5 w) (bf 23 3 w) (bf 26 1 w))
  | 2 => mbz (bf 18 5 w == 0) (.vdictg (bf 8 5 w) (bf 13 5 w) (bf 23 3 w) (bf 26 1 w))
  | 3 => mbz (bf 13 14 w == 0) (.vtabst (bf 8 5 w))
  | _ => .error .reservedFunction

/-- Major 0x27: the function in bits 31:29 (R67). -/
def decVld (w : BitVec 32) : Except DecodeError Instr :=
  match (bf 29 3 w).toNat with
  | 0 => mbz (bf 18 5 w == 0) (.vld (bf 8 5 w) (bf 13 5 w) (bf 27 2 w) (bf 23 3 w) (bf 26 1 w))
  | 1 => .ok (.vlds (bf 8 5 w) (bf 13 5 w) (bf 18 5 w) (bf 27 2 w) (bf 23 3 w) (bf 26 1 w))
  | 2 => .ok (.vldx (bf 8 5 w) (bf 13 5 w) (bf 18 5 w) (bf 27 2 w) (bf 23 3 w) (bf 26 1 w))
  | 3 => mbz (bf 18 5 w == 0) (.vldff (bf 8 5 w) (bf 13 5 w) (bf 27 2 w) (bf 23 3 w) (bf 26 1 w))
  | 4 => mbz (bf 18 5 w == 0) (.vld3 (bf 8 5 w) (bf 13 5 w) (bf 27 2 w) (bf 23 3 w) (bf 26 1 w))
  | 5 => mbz (bf 23 4 w == 0) (.vldc (bf 8 5 w) (bf 13 5 w) (bf 18 5 w) (bf 27 2 w))
  | _ => .error .reservedFunction

/-- Major 0x28: the function in bits 31:29 (R67). -/
def decVst (w : BitVec 32) : Except DecodeError Instr :=
  match (bf 29 3 w).toNat with
  | 0 => mbz (bf 18 5 w == 0) (.vst (bf 8 5 w) (bf 13 5 w) (bf 27 2 w) (bf 23 3 w) (bf 26 1 w))
  | 1 => .ok (.vsts (bf 8 5 w) (bf 13 5 w) (bf 18 5 w) (bf 27 2 w) (bf 23 3 w) (bf 26 1 w))
  | 2 => .ok (.vstx (bf 8 5 w) (bf 13 5 w) (bf 18 5 w) (bf 27 2 w) (bf 23 3 w) (bf 26 1 w))
  | 3 => mbz (bf 18 5 w == 0) (.vst3 (bf 8 5 w) (bf 13 5 w) (bf 27 2 w) (bf 23 3 w) (bf 26 1 w))
  | 4 => mbz (bf 23 4 w == 0) (.vstc (bf 8 5 w) (bf 13 5 w) (bf 18 5 w) (bf 27 2 w))
  | 5 => mbz (bf 26 1 w == 0) (.vscadd (bf 8 5 w) (bf 13 5 w) (bf 18 5 w) (bf 27 2 w) (bf 23 3 w))
  | 6 => mbz (bf 26 1 w == 0) (.vscfadd (bf 8 5 w) (bf 13 5 w) (bf 18 5 w) (bf 27 2 w) (bf 23 3 w))
  | _ => .error .reservedFunction

/-- Major 0x29: the function in bits 31:27 (R67). -/
def decVsync (w : BitVec 32) : Except DecodeError Instr :=
  match (bf 27 5 w).toNat with
  | 0 => .ok (.vgacq (bf 8 5 w) (bf 13 5 w) (bf 18 5 w) (bf 23 4 w))
  | 1 => .ok (.vsrel (bf 8 5 w) (bf 13 5 w) (bf 18 5 w) (bf 23 4 w))
  | _ => .error .reservedFunction

/-- Major 0x2A: the function in bits 31:27 (R67). -/
def decCore (w : BitVec 32) : Except DecodeError Instr :=
  match (bf 27 5 w).toNat with
  | 0 => mbz (bf 8 5 w == 0 && bf 18 9 w == 0) (.tkpost (bf 13 5 w))
  | 1 => mbz (bf 8 5 w == 0 && bf 18 9 w == 0) (.tkwait (bf 13 5 w))
  | 2 => mbz (bf 13 14 w == 0) (.lpinfo (bf 8 5 w))
  | 3 => mbz (bf 18 9 w == 0) (.gangid (bf 8 5 w) (bf 13 5 w))
  | 4 => mbz (bf 13 14 w == 0) (.fluest (bf 8 5 w))
  | 5 => mbz (bf 18 9 w == 0) (.curcls (bf 8 5 w) (bf 13 5 w))
  | _ => .error .reservedFunction

/-- Major 0x2B: the function in bits 31:27 (R67). -/
def decEng (w : BitVec 32) : Except DecodeError Instr :=
  match (bf 27 5 w).toNat with
  | 0 => mbz (bf 18 5 w == 0) (.epush (bf 8 5 w) (bf 13 5 w) (bf 23 4 w))
  | 1 => mbz (bf 13 10 w == 0) (.epop (bf 8 5 w) (bf 23 4 w))
  | 2 => mbz (bf 13 10 w == 0) (.estat (bf 8 5 w) (bf 23 4 w))
  | 3 => .ok (.epush2 (bf 8 5 w) (bf 13 5 w) (bf 18 5 w) (bf 23 4 w))
  | _ => .error .reservedFunction

/-- Major 0x2C: the function in bits 31:27 (R67). -/
def decMmode (w : BitVec 32) : Except DecodeError Instr :=
  match (bf 27 5 w).toNat with
  | 0 => mbz (bf 8 19 w == 0) (.menter)
  | 1 => mbz (bf 8 19 w == 0) (.mexit)
  | 2 => mbz (bf 23 4 w == 0) (.settile (bf 8 5 w) (bf 13 5 w) (bf 18 5 w))
  | 3 => mbz (bf 13 14 w == 0) (.mzero (bf 8 5 w))
  | 4 => mbz (bf 23 4 w == 0) (.mrdf (bf 8 5 w) (bf 13 5 w) (bf 18 5 w))
  | 5 => mbz (bf 23 4 w == 0) (.mcmprs (bf 8 5 w) (bf 13 5 w) (bf 18 5 w))
  | 6 => mbz (bf 18 9 w == 0) (.maccadd (bf 8 5 w) (bf 13 5 w))
  | _ => .error .reservedFunction

/-- Major 0x2D: the function in bits 31:27 (R67). -/
def decStrm (w : BitVec 32) : Except DecodeError Instr :=
  match (bf 27 5 w).toNat with
  | 0 => mbz (bf 18 9 w == 0) (.vbind (bf 8 5 w) (bf 13 5 w))
  | 1 => mbz (bf 13 14 w == 0) (.vunbind (bf 8 5 w))
  | _ => .error .reservedFunction

/-- Major 0x2E: the function in bits 31:27 (R67). -/
def decSpad (w : BitVec 32) : Except DecodeError Instr :=
  match (bf 27 5 w).toNat with
  | 0 => mbz (bf 18 9 w == 0) (.splook (bf 8 5 w) (bf 13 5 w))
  | 1 => mbz (bf 23 4 w == 0) (.spinst (bf 8 5 w) (bf 13 5 w) (bf 18 5 w))
  | 2 => mbz (bf 18 9 w == 0) (.spdrop (bf 8 5 w) (bf 13 5 w))
  | 3 => mbz (bf 8 5 w == 0 && bf 23 4 w == 0) (.spzero (bf 13 5 w) (bf 18 5 w))
  | _ => .error .reservedFunction

/-- Major 0x2F: the function in bits 31:27 (R67). -/
def decBar (w : BitVec 32) : Except DecodeError Instr :=
  match (bf 27 5 w).toNat with
  | 0 => mbz (bf 8 19 w == 0) (.gbar)
  | 1 => mbz (bf 18 9 w == 0) (.gbarv (bf 8 5 w) (bf 13 5 w))
  | 2 => mbz (bf 13 14 w == 0) (.gbarw (bf 8 5 w))
  | 3 => mbz (bf 18 9 w == 0) (.barrive (bf 8 5 w) (bf 13 5 w))
  | 4 => mbz (bf 23 4 w == 0) (.bwait (bf 8 5 w) (bf 13 5 w) (bf 18 5 w))
  | _ => .error .reservedFunction

/-- Major 0x30: the function in bits 31:27 (R67). -/
def decSched (w : BitVec 32) : Except DecodeError Instr :=
  match (bf 27 5 w).toNat with
  | 0 => mbz (bf 23 4 w == 0) (.launch (bf 8 5 w) (bf 13 5 w) (bf 18 5 w))
  | 1 => mbz (bf 18 9 w == 0) (.evsig (bf 8 5 w) (bf 13 5 w))
  | 2 => mbz (bf 18 9 w == 0) (.evwait (bf 8 5 w) (bf 13 5 w))
  | 3 => mbz (bf 18 9 w == 0) (.qinfo (bf 8 5 w) (bf 13 5 w))
  | _ => .error .reservedFunction

/-- Major 0x31: the function in bits 31:27 (R67). -/
def decBallot (w : BitVec 32) : Except DecodeError Instr :=
  match (bf 27 5 w).toNat with
  | 0 => mbz (bf 23 4 w == 0) (.bjoin (bf 8 5 w) (bf 13 5 w) (bf 18 5 w))
  | 1 => mbz (bf 18 9 w == 0) (.bpost (bf 8 5 w) (bf 13 5 w))
  | 2 => mbz (bf 13 14 w == 0) (.bpoll (bf 8 5 w))
  | 3 => mbz (bf 13 14 w == 0) (.bchk (bf 8 5 w))
  | 4 => mbz (bf 13 14 w == 0) (.bleave (bf 8 5 w))
  | _ => .error .reservedFunction

/-- Major 0x32: the function in bits 31:27 (R67). -/
def decMemx (w : BitVec 32) : Except DecodeError Instr :=
  match (bf 27 5 w).toNat with
  | 0 => mbz (bf 23 4 w == 0) (.probe (bf 8 5 w) (bf 13 5 w) (bf 18 5 w))
  | 1 => mbz (bf 8 5 w == 0 && bf 23 4 w == 0) (.tlbinv (bf 13 5 w) (bf 18 5 w))
  | 2 => mbz (bf 8 5 w == 0 && bf 18 9 w == 0) (.tlbinva (bf 13 5 w))
  | _ => .error .reservedFunction

/-- A 32-bit form (R61): the major opcode in bits 7:2. -/
def decode32 (w : BitVec 32) : Except DecodeError Instr :=
  match (bf 2 6 w).toNat with
  | 1 => decAlu w
  | 2 => .ok (.addi (bf 8 5 w) (bf 13 5 w) (bf 18 14 w))
  | 3 => .ok (.andi (bf 8 5 w) (bf 13 5 w) (bf 18 14 w))
  | 4 => .ok (.ori (bf 8 5 w) (bf 13 5 w) (bf 18 14 w))
  | 5 => .ok (.xori (bf 8 5 w) (bf 13 5 w) (bf 18 14 w))
  | 6 => decShi w
  | 7 => .ok (.slti (bf 8 5 w) (bf 13 5 w) (bf 18 14 w))
  | 8 => .ok (.lui (bf 8 5 w) (bf 13 19 w))
  | 9 => .ok (.addpc (bf 8 5 w) (bf 13 19 w))
  | 10 => .ok (.beq (bf 8 5 w) (bf 13 5 w) (bf 18 14 w))
  | 11 => .ok (.bne (bf 8 5 w) (bf 13 5 w) (bf 18 14 w))
  | 12 => .ok (.blt (bf 8 5 w) (bf 13 5 w) (bf 18 14 w))
  | 13 => .ok (.bge (bf 8 5 w) (bf 13 5 w) (bf 18 14 w))
  | 14 => .ok (.bltu (bf 8 5 w) (bf 13 5 w) (bf 18 14 w))
  | 15 => .ok (.bgeu (bf 8 5 w) (bf 13 5 w) (bf 18 14 w))
  | 16 => .ok (.jal (bf 8 5 w) (bf 13 19 w))
  | 17 => .ok (.jalr (bf 8 5 w) (bf 13 5 w) (bf 18 14 w))
  | 18 => decLoad w
  | 19 => decStore w
  | 20 => decAmo w
  | 21 => decAmow w
  | 22 => decLso w
  | 23 => decFence w
  | 24 => decSys w
  | 25 => decSfp w
  | 26 => mbz (bf 30 2 w == 0) (.setvl (bf 8 5 w) (bf 13 5 w) (bf 18 12 w))
  | 27 => decVcfgx w
  | 28 => decViVV w
  | 29 => decViVS w
  | 30 => decViVI w
  | 31 => decVfVV w
  | 32 => decVfVS w
  | 33 => decVcmp w
  | 34 => decKop w
  | 35 => decVred w
  | 36 => decVperm w
  | 37 => .ok (.vcvt (bf 8 5 w) (bf 13 5 w) (bf 27 5 w) (bf 18 5 w) (bf 23 3 w) (bf 26 1 w))
  | 38 => decVtab w
  | 39 => decVld w
  | 40 => decVst w
  | 41 => decVsync w
  | 42 => decCore w
  | 43 => decEng w
  | 44 => decMmode w
  | 45 => decStrm w
  | 46 => decSpad w
  | 47 => decBar w
  | 48 => decSched w
  | 49 => decBallot w
  | 50 => decMemx w
  | _ => .error .reservedMajor

/-- A compressed form (R65): op in bits 3:1. -/
def decode16 (w : BitVec 16) : Except DecodeError Instr :=
  if w = 0#16 then .error .zeroParcel else
  match (bf 1 3 w).toNat with
  | 0 => .ok (.nInc (bf 4 5 w) (bf 9 7 w))
  | 1 => mbz (bf 14 2 w == 0) (.nCopy (bf 4 5 w) (bf 9 5 w))
  | 2 => .ok (.nLdf (bf 4 5 w) (bf 9 7 w))
  | 3 => .ok (.nStf (bf 4 5 w) (bf 9 7 w))
  | 4 => .ok (.nBrz (bf 4 5 w) (bf 9 7 w))
  | 5 => .ok (.nBrnz (bf 4 5 w) (bf 9 7 w))
  | 6 => .ok (.nGo (bf 4 12 w))
  | _ => mbz (bf 14 2 w == 0) (.nAcc (bf 4 5 w) (bf 9 5 w))

/-- A tile form (R66): the first word in bits 31:0 and the second in bits 63:32; TMAJ in bits 7:2. -/
def decode64 (w : BitVec 64) : Except DecodeError Instr :=
  let t : Tile :=
    ⟨bf 8 5 w, bf 13 5 w, bf 18 5 w, bf 23 3 w, bf 26 1 w, bf 27 1 w, bf 28 4 w, bf 32 4 w, bf 36 5 w, bf 41 5 w,
     bf 46 1 w, bf 47 1 w, bf 48 1 w, bf 49 1 w⟩
  let z := bf 50 14 w == 0
  match (bf 2 6 w).toNat with
  | 0 => mbz z (.mop t)
  | 1 => mbz z (.mops t)
  | 2 => mbz z (.mopl t)
  | 3 => mbz z (.mopd t)
  | _ => .error .reservedMajor

/-- Bytes of an instruction by its first parcel (R59). -/
def lengthOf (p : BitVec 16) : Nat :=
  if bf 0 1 p = 0#1 then 2 else if bf 1 1 p = 0#1 then 4 else 8

/-- The number that bytes give, the first lowest (R6). -/
def leNat : List Byte → Nat
  | [] => 0
  | b :: bs => b.toNat + 256 * leNat bs

/-- `n` bytes of a number, the lowest first (R6). -/
def leBytes : Nat → Nat → List Byte
  | 0, _ => []
  | n + 1, v => BitVec.ofNat 8 v :: leBytes n (v / 256)

/-- The bits of a word as an instruction of `len` bytes, before the field checks of R69. -/
def decodeBits (len : Nat) (v : Nat) : Except DecodeError Instr :=
  match len with
  | 2 => decode16 (BitVec.ofNat 16 v)
  | 4 => decode32 (BitVec.ofNat 32 v)
  | _ => decode64 (BitVec.ofNat 64 v)

/-- Refuses the field values that R69 refuses. -/
def checked (r : Except DecodeError Instr) : Except DecodeError Instr :=
  match r with
  | .ok i => if i.wf then .ok i else .error .reservedField
  | .error e => .error e

/-- The instruction that bytes start with, and its bytes: total, rejecting by name. -/
def decode (bytes : List Byte) : Except DecodeError (Instr × Nat) :=
  match bytes with
  | b0 :: b1 :: _ =>
    let len := lengthOf (BitVec.ofNat 16 (leNat [b0, b1]))
    if bytes.length < len then .error .short else
    match checked (decodeBits len (leNat (bytes.take len))) with
    | .ok i => .ok (i, len)
    | .error e => .error e
  | _ => .error .short

/-- The instruction of a table row's word: bit 0 is the lowest bit of the first parcel; bits above `nbits` are zero. -/
def decodeTableWord (nbits w : Nat) : Option Instr :=
  match decode (leBytes 8 (w % 2 ^ nbits)) with
  | .ok (i, _) => some i
  | .error _ => none

/-! ### The encoder -/

/-- SR format (R61). -/
def encSR (maj : BitVec 6) (f : BitVec 5) (d a b : Reg) (x : BitVec 4) : BitVec 32 := f ++ x ++ b ++ a ++ d ++ maj ++ 1#2

/-- SI and SHI format: a 14-bit field over A and D (R61). -/
def encSI (maj : BitVec 6) (d a : Reg) (i : BitVec 14) : BitVec 32 := i ++ a ++ d ++ maj ++ 1#2

/-- SU and J format: a 19-bit field over D (R61). -/
def encSU (maj : BitVec 6) (d : Reg) (i : BitVec 19) : BitVec 32 := i ++ d ++ maj ++ 1#2

/-- SM format (R61). -/
def encSM (maj : BitVec 6) (wd : BitVec 3) (d a : Reg) (i : BitVec 11) : BitVec 32 := i ++ wd ++ a ++ d ++ maj ++ 1#2

/-- SYS format (R61). -/
def encSYS (f : BitVec 5) (d a : Reg) (n : BitVec 9) : BitVec 32 := n ++ f ++ a ++ d ++ 24#6 ++ 1#2

/-- VM format (R61). -/
def encVM (maj : BitVec 6) (f : BitVec 3) (v a b : Reg) (k : BitVec 3) (o : BitVec 1) (t : BitVec 2) : BitVec 32 :=
  f ++ t ++ o ++ k ++ b ++ a ++ v ++ maj ++ 1#2

/-- Compressed form: op, the register field and the payload (R65). -/
def encN (op : BitVec 3) (d : Reg) (p : BitVec 7) : BitVec 16 := p ++ d ++ op ++ 0#1

/-- Tile form (R66). -/
def encTile (tmaj : BitVec 6) (t : Tile) : BitVec 64 :=
  0#14 ++ t.sbe ++ t.sae ++ t.trb ++ t.tra ++ t.sb ++ t.ma ++ t.bfmt ++ t.afmt ++ t.bsp ++ t.asp ++ t.rmask ++ t.b ++ t.a
    ++ t.acc ++ tmaj ++ 3#2

/-- The word of an instruction, zero-extended to 64 bits as `TVAL` holds it (R70); 0 for a step of the module. -/
def encode : Instr → Word
  | .add d a b => (encSR 1#6 0#5 d a b 0#4).setWidth 64
  | .sub d a b => (encSR 1#6 1#5 d a b 0#4).setWidth 64
  | .and d a b => (encSR 1#6 2#5 d a b 0#4).setWidth 64
  | .or d a b => (encSR 1#6 3#5 d a b 0#4).setWidth 64
  | .xor d a b => (encSR 1#6 4#5 d a b 0#4).setWidth 64
  | .andn d a b => (encSR 1#6 5#5 d a b 0#4).setWidth 64
  | .sll d a b => (encSR 1#6 6#5 d a b 0#4).setWidth 64
  | .srl d a b => (encSR 1#6 7#5 d a b 0#4).setWidth 64
  | .sra d a b => (encSR 1#6 8#5 d a b 0#4).setWidth 64
  | .slt d a b => (encSR 1#6 9#5 d a b 0#4).setWidth 64
  | .sltu d a b => (encSR 1#6 10#5 d a b 0#4).setWidth 64
  | .min d a b => (encSR 1#6 11#5 d a b 0#4).setWidth 64
  | .max d a b => (encSR 1#6 12#5 d a b 0#4).setWidth 64
  | .minu d a b => (encSR 1#6 13#5 d a b 0#4).setWidth 64
  | .maxu d a b => (encSR 1#6 14#5 d a b 0#4).setWidth 64
  | .mul d a b => (encSR 1#6 15#5 d a b 0#4).setWidth 64
  | .mulh d a b => (encSR 1#6 16#5 d a b 0#4).setWidth 64
  | .mulhu d a b => (encSR 1#6 17#5 d a b 0#4).setWidth 64
  | .div d a b => (encSR 1#6 18#5 d a b 0#4).setWidth 64
  | .divu d a b => (encSR 1#6 19#5 d a b 0#4).setWidth 64
  | .rem d a b => (encSR 1#6 20#5 d a b 0#4).setWidth 64
  | .remu d a b => (encSR 1#6 21#5 d a b 0#4).setWidth 64
  | .clz d a => (encSR 1#6 22#5 d a 0#5 0#4).setWidth 64
  | .ctz d a => (encSR 1#6 23#5 d a 0#5 0#4).setWidth 64
  | .popc d a => (encSR 1#6 24#5 d a 0#5 0#4).setWidth 64
  | .addw d a b => (encSR 1#6 25#5 d a b 0#4).setWidth 64
  | .subw d a b => (encSR 1#6 26#5 d a b 0#4).setWidth 64
  | .addi d a i => (encSI 2#6 d a i).setWidth 64
  | .andi d a i => (encSI 3#6 d a i).setWidth 64
  | .ori d a i => (encSI 4#6 d a i).setWidth 64
  | .xori d a i => (encSI 5#6 d a i).setWidth 64
  | .slli d a s => (encSI 6#6 d a (0#2 ++ 0#6 ++ s)).setWidth 64
  | .srli d a s => (encSI 6#6 d a (1#2 ++ 0#6 ++ s)).setWidth 64
  | .srai d a s => (encSI 6#6 d a (2#2 ++ 0#6 ++ s)).setWidth 64
  | .slti d a i => (encSI 7#6 d a i).setWidth 64
  | .lui d i => (encSU 8#6 d i).setWidth 64
  | .addpc d i => (encSU 9#6 d i).setWidth 64
  | .beq a b o => (encSI 10#6 a b o).setWidth 64
  | .bne a b o => (encSI 11#6 a b o).setWidth 64
  | .blt a b o => (encSI 12#6 a b o).setWidth 64
  | .bge a b o => (encSI 13#6 a b o).setWidth 64
  | .bltu a b o => (encSI 14#6 a b o).setWidth 64
  | .bgeu a b o => (encSI 15#6 a b o).setWidth 64
  | .jal d o => (encSU 16#6 d o).setWidth 64
  | .jalr d a i => (encSI 17#6 d a i).setWidth 64
  | .lb d a i => (encSM 18#6 0#3 d a i).setWidth 64
  | .lh d a i => (encSM 18#6 1#3 d a i).setWidth 64
  | .lw d a i => (encSM 18#6 2#3 d a i).setWidth 64
  | .ld d a i => (encSM 18#6 3#3 d a i).setWidth 64
  | .lbz d a i => (encSM 18#6 4#3 d a i).setWidth 64
  | .lhz d a i => (encSM 18#6 5#3 d a i).setWidth 64
  | .lwz d a i => (encSM 18#6 6#3 d a i).setWidth 64
  | .sb d a i => (encSM 19#6 0#3 d a i).setWidth 64
  | .sh d a i => (encSM 19#6 1#3 d a i).setWidth 64
  | .sw d a i => (encSM 19#6 2#3 d a i).setWidth 64
  | .sd d a i => (encSM 19#6 3#3 d a i).setWidth 64
  | .amoswap d a b x o => (encSR 20#6 (o ++ 0#3) d a b x).setWidth 64
  | .amoadd d a b x o => (encSR 20#6 (o ++ 1#3) d a b x).setWidth 64
  | .amoand d a b x o => (encSR 20#6 (o ++ 2#3) d a b x).setWidth 64
  | .amoor d a b x o => (encSR 20#6 (o ++ 3#3) d a b x).setWidth 64
  | .amoxor d a b x o => (encSR 20#6 (o ++ 4#3) d a b x).setWidth 64
  | .amomin d a b x o => (encSR 20#6 (o ++ 5#3) d a b x).setWidth 64
  | .amomax d a b x o => (encSR 20#6 (o ++ 6#3) d a b x).setWidth 64
  | .amocas d a b x o => (encSR 20#6 (o ++ 7#3) d a b x).setWidth 64
  | .amowswap d a b x o => (encSR 21#6 (o ++ 0#3) d a b x).setWidth 64
  | .amowadd d a b x o => (encSR 21#6 (o ++ 1#3) d a b x).setWidth 64
  | .amowand d a b x o => (encSR 21#6 (o ++ 2#3) d a b x).setWidth 64
  | .amowor d a b x o => (encSR 21#6 (o ++ 3#3) d a b x).setWidth 64
  | .amowxor d a b x o => (encSR 21#6 (o ++ 4#3) d a b x).setWidth 64
  | .amowmin d a b x o => (encSR 21#6 (o ++ 5#3) d a b x).setWidth 64
  | .amowmax d a b x o => (encSR 21#6 (o ++ 6#3) d a b x).setWidth 64
  | .amowcas d a b x o => (encSR 21#6 (o ++ 7#3) d a b x).setWidth 64
  | .lda d a x => (encSR 22#6 0#5 d a 0#5 x).setWidth 64
  | .lwa d a x => (encSR 22#6 1#5 d a 0#5 x).setWidth 64
  | .stl a b x => (encSR 22#6 2#5 0#5 a b x).setWidth 64
  | .swl a b x => (encSR 22#6 3#5 0#5 a b x).setWidth 64
  | .fence x => (encSR 23#6 0#5 0#5 0#5 0#5 x).setWidth 64
  | .fenceSV x => (encSR 23#6 1#5 0#5 0#5 0#5 x).setWidth 64
  | .fenceVS x => (encSR 23#6 2#5 0#5 0#5 0#5 x).setWidth 64
  | .fenceVV x => (encSR 23#6 3#5 0#5 0#5 0#5 x).setWidth 64
  | .fenceSS x => (encSR 23#6 4#5 0#5 0#5 0#5 x).setWidth 64
  | .fenceI => (encSR 23#6 5#5 0#5 0#5 0#5 0#4).setWidth 64
  | .getsr d n => (encSYS 0#5 d 0#5 (n)).setWidth 64
  | .putsr a n => (encSYS 1#5 0#5 a (n)).setWidth 64
  | .swapsr d a n => (encSYS 2#5 d a (n)).setWidth 64
  | .setsrb d a n => (encSYS 3#5 d a (n)).setWidth 64
  | .clrsrb d a n => (encSYS 4#5 d a (n)).setWidth 64
  | .trap a n => (encSYS 5#5 0#5 a (n)).setWidth 64
  | .tret => (encSYS 6#5 0#5 0#5 (0#9)).setWidth 64
  | .wfe d => (encSYS 7#5 d 0#5 (0#9)).setWidth 64
  | .endHart => (encSYS 8#5 0#5 0#5 (0#9)).setWidth 64
  | .yieldpt a s => (encSYS 9#5 0#5 a (0#8 ++ s)).setWidth 64
  | .halt => (encSYS 10#5 0#5 0#5 (0#9)).setWidth 64
  | .brkpt n => (encSYS 11#5 0#5 0#5 (n)).setWidth 64
  | .fadd d a b => (encSR 25#6 0#5 d a b 0#4).setWidth 64
  | .fsub d a b => (encSR 25#6 1#5 d a b 0#4).setWidth 64
  | .fmul d a b => (encSR 25#6 2#5 d a b 0#4).setWidth 64
  | .fdiv d a b => (encSR 25#6 3#5 d a b 0#4).setWidth 64
  | .fmin d a b => (encSR 25#6 4#5 d a b 0#4).setWidth 64
  | .fmax d a b => (encSR 25#6 5#5 d a b 0#4).setWidth 64
  | .fsqrt d a => (encSR 25#6 6#5 d a 0#5 0#4).setWidth 64
  | .fcvtFI d a => (encSR 25#6 7#5 d a 0#5 0#4).setWidth 64
  | .fcvtIF d a => (encSR 25#6 8#5 d a 0#5 0#4).setWidth 64
  | .feq d a b => (encSR 25#6 9#5 d a b 0#4).setWidth 64
  | .flt d a b => (encSR 25#6 10#5 d a b 0#4).setWidth 64
  | .fle d a b => (encSR 25#6 11#5 d a b 0#4).setWidth 64
  | .setvl d a c => (encSI 26#6 d a (0#2 ++ c)).setWidth 64
  | .setvlr d a b => (encSR 27#6 0#5 d a b 0#4).setWidth 64
  | .setrc d a => (encSR 27#6 1#5 d a 0#5 0#4).setWidth 64
  | .setdim a b n => (encSR 27#6 2#5 0#5 a b (0#2 ++ n)).setWidth 64
  | .vaddVV d a b k e => (encSR 28#6 0#5 d a b (e ++ k)).setWidth 64
  | .vsubVV d a b k e => (encSR 28#6 1#5 d a b (e ++ k)).setWidth 64
  | .vrsubVV d a b k e => (encSR 28#6 2#5 d a b (e ++ k)).setWidth 64
  | .vmulVV d a b k e => (encSR 28#6 3#5 d a b (e ++ k)).setWidth 64
  | .vmulhVV d a b k e => (encSR 28#6 4#5 d a b (e ++ k)).setWidth 64
  | .vmulhuVV d a b k e => (encSR 28#6 5#5 d a b (e ++ k)).setWidth 64
  | .vdivVV d a b k e => (encSR 28#6 6#5 d a b (e ++ k)).setWidth 64
  | .vdivuVV d a b k e => (encSR 28#6 7#5 d a b (e ++ k)).setWidth 64
  | .vremVV d a b k e => (encSR 28#6 8#5 d a b (e ++ k)).setWidth 64
  | .vremuVV d a b k e => (encSR 28#6 9#5 d a b (e ++ k)).setWidth 64
  | .vminVV d a b k e => (encSR 28#6 10#5 d a b (e ++ k)).setWidth 64
  | .vmaxVV d a b k e => (encSR 28#6 11#5 d a b (e ++ k)).setWidth 64
  | .vminuVV d a b k e => (encSR 28#6 12#5 d a b (e ++ k)).setWidth 64
  | .vmaxuVV d a b k e => (encSR 28#6 13#5 d a b (e ++ k)).setWidth 64
  | .vandVV d a b k e => (encSR 28#6 14#5 d a b (e ++ k)).setWidth 64
  | .vorVV d a b k e => (encSR 28#6 15#5 d a b (e ++ k)).setWidth 64
  | .vxorVV d a b k e => (encSR 28#6 16#5 d a b (e ++ k)).setWidth 64
  | .vsllVV d a b k e => (encSR 28#6 17#5 d a b (e ++ k)).setWidth 64
  | .vsrlVV d a b k e => (encSR 28#6 18#5 d a b (e ++ k)).setWidth 64
  | .vsraVV d a b k e => (encSR 28#6 19#5 d a b (e ++ k)).setWidth 64
  | .vsaddVV d a b k e => (encSR 28#6 20#5 d a b (e ++ k)).setWidth 64
  | .vssubVV d a b k e => (encSR 28#6 21#5 d a b (e ++ k)).setWidth 64
  | .vsadduVV d a b k e => (encSR 28#6 22#5 d a b (e ++ k)).setWidth 64
  | .vssubuVV d a b k e => (encSR 28#6 23#5 d a b (e ++ k)).setWidth 64
  | .vmaccVV d a b k e => (encSR 28#6 24#5 d a b (e ++ k)).setWidth 64
  | .vabs d a k e => (encSR 28#6 25#5 d a 0#5 (e ++ k)).setWidth 64
  | .vneg d a k e => (encSR 28#6 26#5 d a 0#5 (e ++ k)).setWidth 64
  | .vaddVS d a b k e => (encSR 29#6 0#5 d a b (e ++ k)).setWidth 64
  | .vsubVS d a b k e => (encSR 29#6 1#5 d a b (e ++ k)).setWidth 64
  | .vrsubVS d a b k e => (encSR 29#6 2#5 d a b (e ++ k)).setWidth 64
  | .vmulVS d a b k e => (encSR 29#6 3#5 d a b (e ++ k)).setWidth 64
  | .vmulhVS d a b k e => (encSR 29#6 4#5 d a b (e ++ k)).setWidth 64
  | .vmulhuVS d a b k e => (encSR 29#6 5#5 d a b (e ++ k)).setWidth 64
  | .vdivVS d a b k e => (encSR 29#6 6#5 d a b (e ++ k)).setWidth 64
  | .vdivuVS d a b k e => (encSR 29#6 7#5 d a b (e ++ k)).setWidth 64
  | .vremVS d a b k e => (encSR 29#6 8#5 d a b (e ++ k)).setWidth 64
  | .vremuVS d a b k e => (encSR 29#6 9#5 d a b (e ++ k)).setWidth 64
  | .vminVS d a b k e => (encSR 29#6 10#5 d a b (e ++ k)).setWidth 64
  | .vmaxVS d a b k e => (encSR 29#6 11#5 d a b (e ++ k)).setWidth 64
  | .vminuVS d a b k e => (encSR 29#6 12#5 d a b (e ++ k)).setWidth 64
  | .vmaxuVS d a b k e => (encSR 29#6 13#5 d a b (e ++ k)).setWidth 64
  | .vandVS d a b k e => (encSR 29#6 14#5 d a b (e ++ k)).setWidth 64
  | .vorVS d a b k e => (encSR 29#6 15#5 d a b (e ++ k)).setWidth 64
  | .vxorVS d a b k e => (encSR 29#6 16#5 d a b (e ++ k)).setWidth 64
  | .vsllVS d a b k e => (encSR 29#6 17#5 d a b (e ++ k)).setWidth 64
  | .vsrlVS d a b k e => (encSR 29#6 18#5 d a b (e ++ k)).setWidth 64
  | .vsraVS d a b k e => (encSR 29#6 19#5 d a b (e ++ k)).setWidth 64
  | .vsaddVS d a b k e => (encSR 29#6 20#5 d a b (e ++ k)).setWidth 64
  | .vssubVS d a b k e => (encSR 29#6 21#5 d a b (e ++ k)).setWidth 64
  | .vsadduVS d a b k e => (encSR 29#6 22#5 d a b (e ++ k)).setWidth 64
  | .vssubuVS d a b k e => (encSR 29#6 23#5 d a b (e ++ k)).setWidth 64
  | .vmaccVS d a b k e => (encSR 29#6 24#5 d a b (e ++ k)).setWidth 64
  | .vaddVI d a i k e => (encSR 30#6 0#5 d a i (e ++ k)).setWidth 64
  | .vsubVI d a i k e => (encSR 30#6 1#5 d a i (e ++ k)).setWidth 64
  | .vrsubVI d a i k e => (encSR 30#6 2#5 d a i (e ++ k)).setWidth 64
  | .vmulVI d a i k e => (encSR 30#6 3#5 d a i (e ++ k)).setWidth 64
  | .vmulhVI d a i k e => (encSR 30#6 4#5 d a i (e ++ k)).setWidth 64
  | .vmulhuVI d a i k e => (encSR 30#6 5#5 d a i (e ++ k)).setWidth 64
  | .vdivVI d a i k e => (encSR 30#6 6#5 d a i (e ++ k)).setWidth 64
  | .vdivuVI d a i k e => (encSR 30#6 7#5 d a i (e ++ k)).setWidth 64
  | .vremVI d a i k e => (encSR 30#6 8#5 d a i (e ++ k)).setWidth 64
  | .vremuVI d a i k e => (encSR 30#6 9#5 d a i (e ++ k)).setWidth 64
  | .vminVI d a i k e => (encSR 30#6 10#5 d a i (e ++ k)).setWidth 64
  | .vmaxVI d a i k e => (encSR 30#6 11#5 d a i (e ++ k)).setWidth 64
  | .vminuVI d a i k e => (encSR 30#6 12#5 d a i (e ++ k)).setWidth 64
  | .vmaxuVI d a i k e => (encSR 30#6 13#5 d a i (e ++ k)).setWidth 64
  | .vandVI d a i k e => (encSR 30#6 14#5 d a i (e ++ k)).setWidth 64
  | .vorVI d a i k e => (encSR 30#6 15#5 d a i (e ++ k)).setWidth 64
  | .vxorVI d a i k e => (encSR 30#6 16#5 d a i (e ++ k)).setWidth 64
  | .vsllVI d a i k e => (encSR 30#6 17#5 d a i (e ++ k)).setWidth 64
  | .vsrlVI d a i k e => (encSR 30#6 18#5 d a i (e ++ k)).setWidth 64
  | .vsraVI d a i k e => (encSR 30#6 19#5 d a i (e ++ k)).setWidth 64
  | .vsaddVI d a i k e => (encSR 30#6 20#5 d a i (e ++ k)).setWidth 64
  | .vssubVI d a i k e => (encSR 30#6 21#5 d a i (e ++ k)).setWidth 64
  | .vsadduVI d a i k e => (encSR 30#6 22#5 d a i (e ++ k)).setWidth 64
  | .vssubuVI d a i k e => (encSR 30#6 23#5 d a i (e ++ k)).setWidth 64
  | .vmaccVI d a i k e => (encSR 30#6 24#5 d a i (e ++ k)).setWidth 64
  | .vfaddVV d a b k e => (encSR 31#6 0#5 d a b (e ++ k)).setWidth 64
  | .vfsubVV d a b k e => (encSR 31#6 1#5 d a b (e ++ k)).setWidth 64
  | .vfmulVV d a b k e => (encSR 31#6 2#5 d a b (e ++ k)).setWidth 64
  | .vfdivVV d a b k e => (encSR 31#6 3#5 d a b (e ++ k)).setWidth 64
  | .vfminVV d a b k e => (encSR 31#6 4#5 d a b (e ++ k)).setWidth 64
  | .vfmaxVV d a b k e => (encSR 31#6 5#5 d a b (e ++ k)).setWidth 64
  | .vfmaVV d a b k e => (encSR 31#6 6#5 d a b (e ++ k)).setWidth 64
  | .vfnmsVV d a b k e => (encSR 31#6 7#5 d a b (e ++ k)).setWidth 64
  | .vfsqrt d a k e => (encSR 31#6 8#5 d a 0#5 (e ++ k)).setWidth 64
  | .vfabs d a k e => (encSR 31#6 9#5 d a 0#5 (e ++ k)).setWidth 64
  | .vfneg d a k e => (encSR 31#6 10#5 d a 0#5 (e ++ k)).setWidth 64
  | .vfrnd d a k e => (encSR 31#6 11#5 d a 0#5 (e ++ k)).setWidth 64
  | .vfscaleVV d a b k e => (encSR 31#6 12#5 d a b (e ++ k)).setWidth 64
  | .vfclass d a k e => (encSR 31#6 13#5 d a 0#5 (e ++ k)).setWidth 64
  | .vfaddVS d a b k e => (encSR 32#6 0#5 d a b (e ++ k)).setWidth 64
  | .vfsubVS d a b k e => (encSR 32#6 1#5 d a b (e ++ k)).setWidth 64
  | .vfmulVS d a b k e => (encSR 32#6 2#5 d a b (e ++ k)).setWidth 64
  | .vfdivVS d a b k e => (encSR 32#6 3#5 d a b (e ++ k)).setWidth 64
  | .vfminVS d a b k e => (encSR 32#6 4#5 d a b (e ++ k)).setWidth 64
  | .vfmaxVS d a b k e => (encSR 32#6 5#5 d a b (e ++ k)).setWidth 64
  | .vfmaVS d a b k e => (encSR 32#6 6#5 d a b (e ++ k)).setWidth 64
  | .vfnmsVS d a b k e => (encSR 32#6 7#5 d a b (e ++ k)).setWidth 64
  | .vfscaleVS d a b k e => (encSR 32#6 12#5 d a b (e ++ k)).setWidth 64
  | .vceqVV d a b k => (encSR 33#6 0#5 d a b (0#1 ++ k)).setWidth 64
  | .vcneVV d a b k => (encSR 33#6 1#5 d a b (0#1 ++ k)).setWidth 64
  | .vcltVV d a b k => (encSR 33#6 2#5 d a b (0#1 ++ k)).setWidth 64
  | .vcleVV d a b k => (encSR 33#6 3#5 d a b (0#1 ++ k)).setWidth 64
  | .vcltuVV d a b k => (encSR 33#6 4#5 d a b (0#1 ++ k)).setWidth 64
  | .vcleuVV d a b k => (encSR 33#6 5#5 d a b (0#1 ++ k)).setWidth 64
  | .vfceqVV d a b k => (encSR 33#6 6#5 d a b (0#1 ++ k)).setWidth 64
  | .vfcltVV d a b k => (encSR 33#6 7#5 d a b (0#1 ++ k)).setWidth 64
  | .vfcleVV d a b k => (encSR 33#6 8#5 d a b (0#1 ++ k)).setWidth 64
  | .vfcunVV d a b k => (encSR 33#6 9#5 d a b (0#1 ++ k)).setWidth 64
  | .vceqVS d a b k => (encSR 33#6 0#5 d a b (1#1 ++ k)).setWidth 64
  | .vcneVS d a b k => (encSR 33#6 1#5 d a b (1#1 ++ k)).setWidth 64
  | .vcltVS d a b k => (encSR 33#6 2#5 d a b (1#1 ++ k)).setWidth 64
  | .vcleVS d a b k => (encSR 33#6 3#5 d a b (1#1 ++ k)).setWidth 64
  | .vcltuVS d a b k => (encSR 33#6 4#5 d a b (1#1 ++ k)).setWidth 64
  | .vcleuVS d a b k => (encSR 33#6 5#5 d a b (1#1 ++ k)).setWidth 64
  | .vfceqVS d a b k => (encSR 33#6 6#5 d a b (1#1 ++ k)).setWidth 64
  | .vfcltVS d a b k => (encSR 33#6 7#5 d a b (1#1 ++ k)).setWidth 64
  | .vfcleVS d a b k => (encSR 33#6 8#5 d a b (1#1 ++ k)).setWidth 64
  | .vfcunVS d a b k => (encSR 33#6 9#5 d a b (1#1 ++ k)).setWidth 64
  | .kand d a b => (encSR 34#6 0#5 d a b 0#4).setWidth 64
  | .kor d a b => (encSR 34#6 1#5 d a b 0#4).setWidth 64
  | .kxor d a b => (encSR 34#6 2#5 d a b 0#4).setWidth 64
  | .kandn d a b => (encSR 34#6 3#5 d a b 0#4).setWidth 64
  | .knot d a => (encSR 34#6 4#5 d a 0#5 0#4).setWidth 64
  | .kset d => (encSR 34#6 5#5 d 0#5 0#5 0#4).setWidth 64
  | .kclr d => (encSR 34#6 6#5 d 0#5 0#5 0#4).setWidth 64
  | .kmov d a => (encSR 34#6 7#5 d a 0#5 0#4).setWidth 64
  | .kpop d a => (encSR 34#6 8#5 d a 0#5 0#4).setWidth 64
  | .kfirst d a => (encSR 34#6 9#5 d a 0#5 0#4).setWidth 64
  | .kfromv d a => (encSR 34#6 10#5 d a 0#5 0#4).setWidth 64
  | .ktov d a => (encSR 34#6 11#5 d a 0#5 0#4).setWidth 64
  | .klt d a b => (encSR 34#6 12#5 d a b 0#4).setWidth 64
  | .kblk d a b => (encSR 34#6 13#5 d a b 0#4).setWidth 64
  | .kenc d a c => (encSR 34#6 14#5 d a c 0#4).setWidth 64
  | .vredsum d a k e => (encSR 35#6 0#5 d a 0#5 (e ++ k)).setWidth 64
  | .vredmin d a k e => (encSR 35#6 1#5 d a 0#5 (e ++ k)).setWidth 64
  | .vredmax d a k e => (encSR 35#6 2#5 d a 0#5 (e ++ k)).setWidth 64
  | .vredminu d a k e => (encSR 35#6 3#5 d a 0#5 (e ++ k)).setWidth 64
  | .vredmaxu d a k e => (encSR 35#6 4#5 d a 0#5 (e ++ k)).setWidth 64
  | .vredand d a k e => (encSR 35#6 5#5 d a 0#5 (e ++ k)).setWidth 64
  | .vredor d a k e => (encSR 35#6 6#5 d a 0#5 (e ++ k)).setWidth 64
  | .vfredsum d a k e => (encSR 35#6 7#5 d a 0#5 (e ++ k)).setWidth 64
  | .vfredmin d a k e => (encSR 35#6 8#5 d a 0#5 (e ++ k)).setWidth 64
  | .vfredmax d a k e => (encSR 35#6 9#5 d a 0#5 (e ++ k)).setWidth 64
  | .vscan d a k e => (encSR 35#6 10#5 d a 0#5 (e ++ k)).setWidth 64
  | .vfscan d a k e => (encSR 35#6 11#5 d a 0#5 (e ++ k)).setWidth 64
  | .vfredsumo d a k e => (encSR 35#6 12#5 d a 0#5 (e ++ k)).setWidth 64
  | .vmov d a k e => (encSR 36#6 0#5 d a 0#5 (e ++ k)).setWidth 64
  | .vsplat d a k e => (encSR 36#6 1#5 d a 0#5 (e ++ k)).setWidth 64
  | .viota d a k e => (encSR 36#6 2#5 d a 0#5 (e ++ k)).setWidth 64
  | .vslup d a b k e => (encSR 36#6 3#5 d a b (e ++ k)).setWidth 64
  | .vsldn d a b k e => (encSR 36#6 4#5 d a b (e ++ k)).setWidth 64
  | .vrgath d a b k e => (encSR 36#6 5#5 d a b (e ++ k)).setWidth 64
  | .vcmprs d a k e => (encSR 36#6 6#5 d a 0#5 (e ++ k)).setWidth 64
  | .venc d a b => (encSR 36#6 7#5 d a b 0#4).setWidth 64
  | .veinfo d a e => (encSR 36#6 8#5 d a 0#5 (e ++ 0#3)).setWidth 64
  | .vextr d a b e => (encSR 36#6 9#5 d a b (e ++ 0#3)).setWidth 64
  | .vins d a b e => (encSR 36#6 10#5 d a b (e ++ 0#3)).setWidth 64
  | .vcvt d a s t k e => (encSR 37#6 s d a t (e ++ k)).setWidth 64
  | .vtabld a => (encSR 38#6 0#5 0#5 a 0#5 0#4).setWidth 64
  | .vlatd d a b k e => (encSR 38#6 1#5 d a b (e ++ k)).setWidth 64
  | .vdictg d a k e => (encSR 38#6 2#5 d a 0#5 (e ++ k)).setWidth 64
  | .vtabst d => (encSR 38#6 3#5 d 0#5 0#5 0#4).setWidth 64
  | .vld d a t k o => (encVM 39#6 0#3 d a 0#5 k o t).setWidth 64
  | .vlds d a b t k o => (encVM 39#6 1#3 d a b k o t).setWidth 64
  | .vldx d a b t k o => (encVM 39#6 2#3 d a b k o t).setWidth 64
  | .vldff d a t k o => (encVM 39#6 3#3 d a 0#5 k o t).setWidth 64
  | .vld3 d a t k o => (encVM 39#6 4#3 d a 0#5 k o t).setWidth 64
  | .vldc d a b t => (encVM 39#6 5#3 d a b 0#3 0#1 t).setWidth 64
  | .vst d a t k o => (encVM 40#6 0#3 d a 0#5 k o t).setWidth 64
  | .vsts d a b t k o => (encVM 40#6 1#3 d a b k o t).setWidth 64
  | .vstx d a b t k o => (encVM 40#6 2#3 d a b k o t).setWidth 64
  | .vst3 d a t k o => (encVM 40#6 3#3 d a 0#5 k o t).setWidth 64
  | .vstc d a b t => (encVM 40#6 4#3 d a b 0#3 0#1 t).setWidth 64
  | .vscadd d a b t k => (encVM 40#6 5#3 d a b k 0#1 t).setWidth 64
  | .vscfadd d a b t k => (encVM 40#6 6#3 d a b k 0#1 t).setWidth 64
  | .vgacq d a b x => (encSR 41#6 0#5 d a b x).setWidth 64
  | .vsrel d a b x => (encSR 41#6 1#5 d a b x).setWidth 64
  | .tkpost a => (encSR 42#6 0#5 0#5 a 0#5 0#4).setWidth 64
  | .tkwait a => (encSR 42#6 1#5 0#5 a 0#5 0#4).setWidth 64
  | .lpinfo d => (encSR 42#6 2#5 d 0#5 0#5 0#4).setWidth 64
  | .gangid d a => (encSR 42#6 3#5 d a 0#5 0#4).setWidth 64
  | .fluest d => (encSR 42#6 4#5 d 0#5 0#5 0#4).setWidth 64
  | .curcls d a => (encSR 42#6 5#5 d a 0#5 0#4).setWidth 64
  | .epush d a x => (encSR 43#6 0#5 d a 0#5 x).setWidth 64
  | .epop d x => (encSR 43#6 1#5 d 0#5 0#5 x).setWidth 64
  | .estat d x => (encSR 43#6 2#5 d 0#5 0#5 x).setWidth 64
  | .epush2 d a b x => (encSR 43#6 3#5 d a b x).setWidth 64
  | .menter => (encSR 44#6 0#5 0#5 0#5 0#5 0#4).setWidth 64
  | .mexit => (encSR 44#6 1#5 0#5 0#5 0#5 0#4).setWidth 64
  | .settile d a b => (encSR 44#6 2#5 d a b 0#4).setWidth 64
  | .mzero d => (encSR 44#6 3#5 d 0#5 0#5 0#4).setWidth 64
  | .mrdf d a b => (encSR 44#6 4#5 d a b 0#4).setWidth 64
  | .mcmprs d a b => (encSR 44#6 5#5 d a b 0#4).setWidth 64
  | .maccadd d a => (encSR 44#6 6#5 d a 0#5 0#4).setWidth 64
  | .vbind d a => (encSR 45#6 0#5 d a 0#5 0#4).setWidth 64
  | .vunbind d => (encSR 45#6 1#5 d 0#5 0#5 0#4).setWidth 64
  | .splook d a => (encSR 46#6 0#5 d a 0#5 0#4).setWidth 64
  | .spinst d a b => (encSR 46#6 1#5 d a b 0#4).setWidth 64
  | .spdrop d a => (encSR 46#6 2#5 d a 0#5 0#4).setWidth 64
  | .spzero a b => (encSR 46#6 3#5 0#5 a b 0#4).setWidth 64
  | .gbar => (encSR 47#6 0#5 0#5 0#5 0#5 0#4).setWidth 64
  | .gbarv d a => (encSR 47#6 1#5 d a 0#5 0#4).setWidth 64
  | .gbarw d => (encSR 47#6 2#5 d 0#5 0#5 0#4).setWidth 64
  | .barrive d a => (encSR 47#6 3#5 d a 0#5 0#4).setWidth 64
  | .bwait d a b => (encSR 47#6 4#5 d a b 0#4).setWidth 64
  | .launch d a b => (encSR 48#6 0#5 d a b 0#4).setWidth 64
  | .evsig d a => (encSR 48#6 1#5 d a 0#5 0#4).setWidth 64
  | .evwait d a => (encSR 48#6 2#5 d a 0#5 0#4).setWidth 64
  | .qinfo d a => (encSR 48#6 3#5 d a 0#5 0#4).setWidth 64
  | .bjoin d a b => (encSR 49#6 0#5 d a b 0#4).setWidth 64
  | .bpost d a => (encSR 49#6 1#5 d a 0#5 0#4).setWidth 64
  | .bpoll d => (encSR 49#6 2#5 d 0#5 0#5 0#4).setWidth 64
  | .bchk d => (encSR 49#6 3#5 d 0#5 0#5 0#4).setWidth 64
  | .bleave d => (encSR 49#6 4#5 d 0#5 0#5 0#4).setWidth 64
  | .probe d a b => (encSR 50#6 0#5 d a b 0#4).setWidth 64
  | .tlbinv a b => (encSR 50#6 1#5 0#5 a b 0#4).setWidth 64
  | .tlbinva a => (encSR 50#6 2#5 0#5 a 0#5 0#4).setWidth 64
  | .nInc d p => (encN 0#3 d p).setWidth 64
  | .nCopy d s => (encN 1#3 d (0#2 ++ s)).setWidth 64
  | .nLdf d p => (encN 2#3 d p).setWidth 64
  | .nStf d p => (encN 3#3 d p).setWidth 64
  | .nBrz a p => (encN 4#3 a p).setWidth 64
  | .nBrnz a p => (encN 5#3 a p).setWidth 64
  | .nGo p => ((p ++ 6#3 ++ 0#1 : BitVec 16)).setWidth 64
  | .nAcc d s => (encN 7#3 d (0#2 ++ s)).setWidth 64
  | .mop t => encTile 0#6 t
  | .mops t => encTile 1#6 t
  | .mopl t => encTile 2#6 t
  | .mopd t => encTile 3#6 t
  | .eventTrap | .timerCompare | .wfeWake .. | .gangBarrierRelease .. | .viqDispatch .. | .vectorRetire .. => 0#64
  | .dispatchGateCycle .. | .flueWindowEnd .. | .flrailStepDone .. | .clusterClockStopDone .. => 0#64
  | .clusterClockRestartDone .. | .schedulerStep .. | .hartStop .. | .launchCompletion .. | .hartFelled .. => 0#64
  | .pageListReturn .. | .groveClose .. | .hostQueueTailWrite .. | .hostCancelRequest .. | .hostMailboxWrite .. => 0#64
  | .hostMemWrite .. | .moduleReset | .scrub .. | .thermalSample .. | .sramMonitorCrossing .. => 0#64
  | .engineRecordArrival .. | .copy .. | .conv .. | .convef .. | .comp .. | .decomp .. | .fill .. | .spfill .. => 0#64
  | .pgather .. | .igather .. | .allred .. | .bcast .. | .allgath .. | .dbar .. | .send .. | .markcfg .. | .ping .. => 0#64
  | .retire .. | .keyload .. | .firmwareMessage .. | .doubleTrapReport .. | .linkKillReport .. | .portLinkFail .. => 0#64
  | .packageUnreachable .. | .dieLinkFail .. | .vlWrite .. | .vcfgWrite .. | .rcWrite .. | .tbnWrite .. => 0#64
  | .eventClear .. | .tsaveWrite .. | .lprWrite .. | .lgoffWrite .. | .gatecfgWrite .. | .seedchkWrite .. => 0#64
  | .flcfgWrite .. | .flselWrite .. | .flrailWrite .. | .cqctlClose .. | .cqctlPre .. | .cqctlSleep .. => 0#64
  | .cwakeWrite .. | .mfaqPop .. | .energyloRead .. | .uvpinClear .. | .jbaseWrite .. | .mbxbaseWrite .. => 0#64
  | .mbxreplyWrite .. | .ptrootWrite .. | .asidWrite .. | .sysregWrite .. | .encodingNotInstruction .. => 0#64
  | .instructionFetchFault .. | .storageBitError .. | .fabricRequestArrival .. | .pathAnswersAgain .. => 0#64
  | .fabricPortTrained .. | .cxlLinkTrained .. => 0#64

/-- The bytes of an encoded instruction, the lowest first. -/
def encodeBytes (i : Instr) : List Byte := leBytes i.size (encode i).toNat

end

end Sys2Proof
end

