-- ==== Sys2Proof/Machine/Flags.lean ====
section
/-! DEFINITION. The flags of R32 and how each kind of result sets them (R39, R52). -/

namespace Sys2Proof.Machine

/-- `FFLAGS` bits 6:0 (R32). -/
abbrev Flags := BitVec 7

namespace Fl

/-- Invalid. -/
def nv : Flags := 1
/-- Divide by zero. -/
def dz : Flags := 2
/-- Overflow. -/
def of : Flags := 4
/-- Underflow. -/
def uf : Flags := 8
/-- Inexact. -/
def nx : Flags := 16
/-- Saturation. -/
def sat : Flags := 32
/-- An S-class parity error delivered bounded. -/
def sev1 : Flags := 64

/-- A flag where a condition holds. -/
def on (c : Bool) (f : Flags) : Flags := if c then f else 0

end Fl

/-- Underflow of R52: tiny, and inexact or flushed. -/
def underflowFlags (tiny inexact flushed : Bool) : Flags :=
  Fl.on (tiny && (inexact || flushed)) Fl.uf ||| Fl.on (inexact || flushed) Fl.nx

end Sys2Proof.Machine
end

