-- ==== Sys2Proof/Machine/Float.lean ====
section
/-! DEFINITION. Number formats and arithmetic (R36 to R57): a value is read exactly, an operation is computed exactly,
and one rounding gives the result. -/

namespace Sys2Proof.Machine

/-- Rounding modes (R50). -/
inductive RMode where
  | rne | rtz | rup | rdn
deriving DecidableEq, Repr

/-- The mode of `VCFG.RM`. -/
def rmodeOf : Nat → RMode
  | 0 => .rne
  | 1 => .rtz
  | 2 => .rup
  | _ => .rdn

/-- A value: NaN with whether it signals, infinity, or (-1)^neg times m times 2^e exactly. -/
inductive FV where
  | nan (sig : Bool)
  | inf (neg : Bool)
  | fin (neg : Bool) (m : Nat) (e : Int)
deriving DecidableEq, Repr

/-- A floating-point format (R40, R43): significand bits `F`, bias, width, and the code of the largest finite value. -/
structure FmtP where
  width : Nat
  ebits : Nat
  frac : Nat
  bias : Nat
  maxCode : Nat
  hasInf : Bool
  /-- Canonical NaN, where the format has one. -/
  canon : Option Nat
  /-- f32, bf16 and f16: `VCFG.FZ` applies (R51). -/
  flushes : Bool
deriving DecidableEq, Repr

/-- binary32. -/
def fmtF32 : FmtP := ⟨32, 8, 23, 127, 0x7F7FFFFF, true, some 0x7FC00000, true⟩
/-- Upper half of a binary32. -/
def fmtBF16 : FmtP := ⟨16, 8, 7, 127, 0x7F7F, true, some 0x7FC0, true⟩
/-- binary16. -/
def fmtF16 : FmtP := ⟨16, 5, 10, 15, 0x7BFF, true, some 0x7E00, true⟩
/-- R43. -/
def fmtE4M3 : FmtP := ⟨8, 4, 3, 7, 0x7E, false, some 0x7F, false⟩
/-- R43. -/
def fmtE5M2 : FmtP := ⟨8, 5, 2, 15, 0x7B, true, some 0x7E, false⟩
/-- R43. -/
def fmtE2M1 : FmtP := ⟨4, 2, 1, 1, 7, false, none, false⟩

/-- A format code of R36 that a value can be read in or converted to. -/
inductive Fmt where
  | int (w : Nat)
  | nat (w : Nat)
  | flt (p : FmtP)
  | sc8
deriving DecidableEq, Repr

/-- The format of a code; none for l8, a96 and the reserved codes (R36, R53). -/
def Fmt.ofCode : Nat → Option Fmt
  | 0 => some (.int 8) | 1 => some (.int 16) | 2 => some (.int 32) | 3 => some (.int 64)
  | 4 => some (.nat 8) | 5 => some (.nat 16) | 6 => some (.nat 32) | 7 => some (.nat 64)
  | 8 => some (.flt fmtF32) | 9 => some (.flt fmtBF16) | 10 => some (.flt fmtF16)
  | 11 => some (.flt fmtE4M3) | 12 => some (.flt fmtE5M2) | 13 => some (.flt fmtE2M1)
  | 14 => some .sc8
  | _ => none

/-- Storage width of one element (R36). -/
def Fmt.width : Fmt → Nat
  | .int w => w
  | .nat w => w
  | .flt p => p.width
  | .sc8 => 8

/-- Exponent of the unit of the smallest subnormal. -/
def FmtP.qmin (p : FmtP) : Int := 1 - (p.bias : Int) - (p.frac : Int)

/-- Reads a pattern (R40, R41, R43). -/
def FmtP.read (p : FmtP) (x : Nat) : FV :=
  let neg := x >>> (p.width - 1) % 2 == 1
  let c := x % 2 ^ (p.width - 1)
  let ex := c >>> p.frac
  let f := c % 2 ^ p.frac
  if p.maxCode < c then
    if p.hasInf && f == 0 then .inf neg
    else .nan (p.hasInf && f < 2 ^ (p.frac - 1))
  else if ex = 0 then .fin neg f p.qmin
  else .fin neg (f + 2 ^ p.frac) (p.qmin + (ex : Int) - 1)

/-- Reads an input of an operation: under FZ = 1 a subnormal of f32, bf16 or f16 reads as zero of its sign (R51). -/
def FmtP.readIn (p : FmtP) (fz x : Nat) : FV :=
  let c := x % 2 ^ (p.width - 1)
  if fz = 1 && p.flushes && c < 2 ^ p.frac then .fin (x >>> (p.width - 1) % 2 == 1) 0 0 else p.read x

/-- The input pattern after flushing (R42, R51). -/
def FmtP.flushIn (p : FmtP) (fz x : Nat) : Nat :=
  let c := x % 2 ^ (p.width - 1)
  if fz = 1 && p.flushes && c < 2 ^ p.frac then x - c else x

/-- The pattern of a sign and a code. -/
def FmtP.signed (p : FmtP) (neg : Bool) (c : Nat) : Nat := b2n neg * 2 ^ (p.width - 1) + c

/-- `m / 2^sh` rounded (R50). -/
def roundShift (rm : RMode) (neg : Bool) (m sh : Nat) : Nat :=
  let q := m >>> sh
  let r := m % 2 ^ sh
  let up := match rm with
    | .rne => 2 ^ sh < 2 * r || (2 * r == 2 ^ sh && r != 0 && q % 2 == 1)
    | .rtz => false
    | .rup => !neg && r != 0
    | .rdn => neg && r != 0
  q + b2n up

/-- `m * 2^e` in units of `2^q`, rounded, and whether it was exact. -/
def toUnits (rm : RMode) (neg : Bool) (m : Nat) (e q : Int) : Nat × Bool :=
  if q ≤ e then (m <<< (e - q).toNat, true)
  else (roundShift rm neg m (q - e).toNat, m % 2 ^ (q - e).toNat == 0)

/-- A result that overflowed (R52). -/
def FmtP.overflow (p : FmtP) (rm : RMode) (neg : Bool) : Nat :=
  let away := match rm with
    | .rne => true
    | .rtz => false
    | .rup => !neg
    | .rdn => neg
  p.signed neg (if p.hasInf && away then p.maxCode + 1 else p.maxCode)

/-- A non-zero exact value rounded to a format, with the flags of R52 and the output flushing of R51. DEDUCED (log 71): a widening
whose result is subnormal in the wider format (e5m2 to f16, bf16 to f32) is flushed too. -/
def FmtP.roundFin (p : FmtP) (rm : RMode) (fz : Nat) (neg : Bool) (m : Nat) (e : Int) : Nat × Flags :=
  let qu : Int := e + bitLen m - ((p.frac : Int) + 1)
  let q := max qu p.qmin
  let (r, exact) := toUnits rm neg m e q
  let code := (q - p.qmin).toNat * 2 ^ p.frac + r
  let (ru, _) := toUnits rm neg m e qu
  let tiny := if ru = 2 ^ (p.frac + 1) then qu + 1 < p.qmin else qu < p.qmin
  if p.maxCode < code then (p.overflow rm neg, Fl.of ||| Fl.nx)
  else
    let flushed := p.flushes && (fz == 1 || fz == 2) && code != 0 && code < 2 ^ p.frac
    (p.signed neg (if flushed then 0 else code), underflowFlags tiny (!exact) flushed)

/-- A value as the result of a rounding operation (R41, R51, R52). A NaN in a format without one becomes +0; the
flags NV and the exception-list entry of R54 are the conversion's. -/
def FmtP.round (p : FmtP) (rm : RMode) (fz : Nat) (v : FV) : Nat × Flags :=
  match v with
  | .nan _ => ((p.canon).getD 0, 0)
  | .inf neg => if p.hasInf then (p.signed neg (p.maxCode + 1), 0) else (p.signed neg p.maxCode, Fl.of ||| Fl.nx)
  | .fin neg m e => if m = 0 then (p.signed neg 0, 0) else p.roundFin rm fz neg m e

/-! ### Exact operations -/

/-- Whether a value is a signalling NaN, which sets NV (R41). -/
def FV.sigFlag : FV → Flags
  | .nan true => Fl.nv
  | _ => 0

/-- Whether a value is a NaN. -/
def FV.isNan : FV → Bool
  | .nan _ => true
  | _ => false

/-- The sign turned. -/
def FV.neg : FV → FV
  | .nan s => .nan s
  | .inf n => .inf (!n)
  | .fin n m e => .fin (!n) m e

/-- A signed integer significand as sign and magnitude; an exact zero sum is +0 but under RDN (IEEE 754). -/
def FV.ofInt (rm : RMode) (m e : Int) : FV := .fin (m < 0 || (m == 0 && rm == .rdn)) m.natAbs e

/-- The signed significand. -/
def signedSig (neg : Bool) (m : Nat) : Int := if neg then -(m : Int) else m

/-- Exact sum (R40, R41). -/
def FV.add (rm : RMode) (a b : FV) : FV × Flags :=
  let sf := a.sigFlag ||| b.sigFlag
  match a, b with
  | .nan _, _ => (.nan false, sf)
  | _, .nan _ => (.nan false, sf)
  | .inf s, .inf t => if s = t then (.inf s, 0) else (.nan false, Fl.nv)
  | .inf s, .fin _ _ _ => (.inf s, 0)
  | .fin _ _ _, .inf t => (.inf t, 0)
  | .fin s m e, .fin t n f =>
    if m = 0 ∧ n = 0 ∧ s = t then (.fin s 0 0, 0)
    else
      let q := min e f
      (FV.ofInt rm (signedSig s (m <<< (e - q).toNat) + signedSig t (n <<< (f - q).toNat)) q, 0)

/-- Exact product (R40, R41). -/
def FV.mul (a b : FV) : FV × Flags :=
  let sf := a.sigFlag ||| b.sigFlag
  match a, b with
  | .nan _, _ => (.nan false, sf)
  | _, .nan _ => (.nan false, sf)
  | .inf s, .inf t => (.inf (s != t), 0)
  | .inf s, .fin t n _ => if n = 0 then (.nan false, Fl.nv) else (.inf (s != t), 0)
  | .fin s m _, .inf t => if m = 0 then (.nan false, Fl.nv) else (.inf (s != t), 0)
  | .fin s m e, .fin t n f => (.fin (s != t) (m * n) (e + f), 0)

/-- Exact `a * b + c`, rounded only at the end (R40); 0 times infinity is invalid whatever `c` is (R41). -/
def FV.fma (rm : RMode) (a b c : FV) : FV × Flags :=
  let (p, f) := a.mul b
  let (r, g) := FV.add rm p c
  (r, f ||| g)

/-- Quotient with bits enough for one rounding: the last bit says whether anything was cut off (R40, R41). -/
def FV.div (a b : FV) : FV × Flags :=
  let sf := a.sigFlag ||| b.sigFlag
  match a, b with
  | .nan _, _ => (.nan false, sf)
  | _, .nan _ => (.nan false, sf)
  | .inf _, .inf _ => (.nan false, Fl.nv)
  | .inf s, .fin t _ _ => (.inf (s != t), 0)
  | .fin s _ _, .inf t => (.fin (s != t) 0 0, 0)
  | .fin s m e, .fin t n f =>
    if n = 0 then (if m = 0 then (.nan false, Fl.nv) else (.inf (s != t), Fl.dz))
    else if m = 0 then (.fin (s != t) 0 0, 0)
    else
      let q := (m <<< 64) / n
      let r := (m <<< 64) % n
      (.fin (s != t) (2 * q + b2n (r != 0)) (e - f - 65), 0)

/-- Integer square root by bits from `b` down. -/
def isqrtFrom : Nat → Nat → Nat → Nat
  | 0, n, r => if (r + 1) * (r + 1) ≤ n then r + 1 else r
  | b + 1, n, r => if (r + 2 ^ (b + 1)) * (r + 2 ^ (b + 1)) ≤ n then isqrtFrom b n (r + 2 ^ (b + 1)) else isqrtFrom b n r

/-- Integer square root. -/
def isqrt (n : Nat) : Nat := isqrtFrom (bitLen n / 2 + 1) n 0

/-- Square root with bits enough for one rounding (R40, R41). -/
def FV.sqrt (a : FV) : FV × Flags :=
  match a with
  | .nan s => (.nan false, Fl.on s Fl.nv)
  | .inf true => (.nan false, Fl.nv)
  | .inf false => (.inf false, 0)
  | .fin s m e =>
    if m = 0 then (.fin s 0 0, 0)
    else if s then (.nan false, Fl.nv)
    else
      let m' := if e % 2 = 0 then m <<< 64 else m <<< 65
      let e' := if e % 2 = 0 then e - 64 else e - 65
      let r := isqrt m'
      (.fin false (2 * r + b2n (r * r != m')) (e' / 2 - 1), 0)

/-- Strict order of two values that are no NaN; -0 equals +0. -/
def FV.lt (a b : FV) : Bool :=
  match a, b with
  | .nan _, _ => false
  | _, .nan _ => false
  | .inf s, .inf t => s && !t
  | .inf s, .fin _ _ _ => s
  | .fin _ _ _, .inf t => !t
  | .fin s m e, .fin t n f =>
    let q := min e f
    signedSig s (m <<< (e - q).toNat) < signedSig t (n <<< (f - q).toNat)

/-- Equality of two values, NaN equal to nothing. -/
def FV.feq (a b : FV) : Bool := !a.isNan && !b.isNan && !a.lt b && !b.lt a

/-- Sign bit of a value. -/
def FV.signBit : FV → Bool
  | .nan _ => false
  | .inf s => s
  | .fin s _ _ => s

/-- `a` below `b` with -0 below +0 (R42). -/
def FV.ltz (a b : FV) : Bool := a.lt b || (a.feq b && a.signBit && !b.signBit)

/-! ### Element operations with one rounding -/

/-- Rounding context: `VCFG.RM` and `VCFG.FZ`. -/
structure RCtx where
  rm : RMode
  fz : Nat
deriving DecidableEq, Repr

/-- Rounds an exact result, collecting flags. -/
def FmtP.finish (p : FmtP) (c : RCtx) (r : FV × Flags) : Nat × Flags :=
  let (x, f) := p.round c.rm c.fz r.1
  (x, r.2 ||| f)

/-- Sum. -/
def FmtP.fadd (p : FmtP) (c : RCtx) (a b : Nat) : Nat × Flags := p.finish c (FV.add c.rm (p.readIn c.fz a) (p.readIn c.fz b))
/-- Difference: the second operand's sign is turned. -/
def FmtP.fsub (p : FmtP) (c : RCtx) (a b : Nat) : Nat × Flags := p.finish c (FV.add c.rm (p.readIn c.fz a) (p.readIn c.fz b).neg)
/-- Product. -/
def FmtP.fmul (p : FmtP) (c : RCtx) (a b : Nat) : Nat × Flags := p.finish c ((p.readIn c.fz a).mul (p.readIn c.fz b))
/-- Quotient. -/
def FmtP.fdiv (p : FmtP) (c : RCtx) (a b : Nat) : Nat × Flags := p.finish c ((p.readIn c.fz a).div (p.readIn c.fz b))
/-- Square root. -/
def FmtP.fsqrt (p : FmtP) (c : RCtx) (a : Nat) : Nat × Flags := p.finish c (p.readIn c.fz a).sqrt
/-- `d + a * b`. -/
def FmtP.ffma (p : FmtP) (c : RCtx) (a b d : Nat) : Nat × Flags :=
  p.finish c (FV.fma c.rm (p.readIn c.fz a) (p.readIn c.fz b) (p.readIn c.fz d))
/-- `d - a * b`. -/
def FmtP.ffnms (p : FmtP) (c : RCtx) (a b d : Nat) : Nat × Flags :=
  p.finish c (FV.fma c.rm (p.readIn c.fz a).neg (p.readIn c.fz b) (p.readIn c.fz d))

/-- Minimum or maximum: the chosen operand bit for bit, never rounded or output-flushed (R42). -/
def FmtP.fminmax (p : FmtP) (isMax : Bool) (fz : Nat) (a b : Nat) : Nat × Flags :=
  let x := p.flushIn fz a
  let y := p.flushIn fz b
  let u := p.read x
  let v := p.read y
  let f := u.sigFlag ||| v.sigFlag
  if u.isNan && v.isNan then ((p.canon).getD 0, f)
  else if u.isNan then (y, f)
  else if v.isNan then (x, f)
  else if isMax then (if u.ltz v then y else x, f) else (if v.ltz u then y else x, f)

/-- Rounded to an integral value in its own format; NX where the value changes (R125). -/
def FmtP.frnd (p : FmtP) (c : RCtx) (a : Nat) : Nat × Flags :=
  match p.readIn c.fz a with
  | .fin s m e =>
    let (r, exact) := toUnits c.rm s m e 0
    if r = 0 then (p.signed s 0, Fl.on (!exact) Fl.nx)
    else
      let (x, f) := p.round c.rm c.fz (.fin s r 0)
      (x, f ||| Fl.on (!exact) Fl.nx)
  | v => p.finish c (v, v.sigFlag)

/-- `a * 2^n` with one rounding (R125). -/
def FmtP.fscale (p : FmtP) (c : RCtx) (a : Nat) (n : Int) : Nat × Flags :=
  match p.readIn c.fz a with
  | .fin s m e =>
    let lim : Int := 4096
    p.finish c (.fin s m (e + max (-lim) (min lim n)), 0)
  | v => p.finish c (v, v.sigFlag)

/-- The sign cleared or turned; a NaN gives the canonical NaN (R125). DEDUCED (log 71): nothing is rounded, so `FZ` 2 flushes nothing. -/
def FmtP.fsign (p : FmtP) (fz : Nat) (neg : Bool) (a : Nat) : Nat × Flags :=
  let x := p.flushIn fz a
  match p.read x with
  | .nan s => ((p.canon).getD 0, Fl.on s Fl.nv)
  | _ =>
    let c := x % 2 ^ (p.width - 1)
    (p.signed (neg && x >>> (p.width - 1) % 2 == 0) c, 0)

/-- The class of a value as one bit of ten (R125). -/
def FmtP.fclass (p : FmtP) (a : Nat) : Nat :=
  let sub := a % 2 ^ (p.width - 1) < 2 ^ p.frac
  match p.read a with
  | .nan s => if s then 2 ^ 8 else 2 ^ 9
  | .inf neg => if neg then 2 ^ 0 else 2 ^ 7
  | .fin neg m _ =>
    if m = 0 then (if neg then 2 ^ 3 else 2 ^ 4)
    else if neg then (if sub then 2 ^ 2 else 2 ^ 1)
    else if sub then 2 ^ 5 else 2 ^ 6

/-- Equal, as floats; NV only for a signalling NaN (R126). -/
def FmtP.ceq (p : FmtP) (fz a b : Nat) : Bool × Flags :=
  let u := p.readIn fz a
  let v := p.readIn fz b
  (u.feq v, u.sigFlag ||| v.sigFlag)

/-- Below, or below or equal; any NaN gives false and sets NV (R126). -/
def FmtP.cless (p : FmtP) (orEq : Bool) (fz a b : Nat) : Bool × Flags :=
  let u := p.readIn fz a
  let v := p.readIn fz b
  if u.isNan || v.isNan then (false, Fl.nv) else (u.lt v || (orEq && u.feq v), 0)

/-- Either is a NaN (R126). -/
def FmtP.cun (p : FmtP) (fz a b : Nat) : Bool × Flags :=
  let u := p.readIn fz a
  let v := p.readIn fz b
  (u.isNan || v.isNan, u.sigFlag ||| v.sigFlag)

/-! ### Conversions (R53, R54) -/

/-- Result of a conversion: pattern, flags, and whether R54 appends an entry. -/
structure Cvt where
  bits : Nat
  flags : Flags
  entry : Bool
deriving DecidableEq, Repr

/-- Value of an sc8 code (R44); none for the reserved codes. -/
def sc8Value (x : Nat) : Option FV :=
  if 0xFC ≤ x then none else some (.fin false (4 + x % 4) ((x / 4 : Nat) - 33))

/-- A pattern read as a conversion source; none for a reserved sc8 code, which raises RESCODE. -/
def Fmt.read (f : Fmt) (fz x : Nat) : Option FV :=
  match f with
  | .int w => let v := sext x w; some (.fin (v < 0) v.natAbs 0)
  | .nat w => some (.fin false (x % 2 ^ w) 0)
  | .flt p => some (p.readIn fz x)
  | .sc8 => sc8Value x

/-- Whether a source is an integer (its clamp sets SAT, R53). -/
def Fmt.isInt : Fmt → Bool
  | .int _ => true
  | .nat _ => true
  | _ => false

/-- To an integer range (R53). -/
def toIntRange (c : RCtx) (fromInt : Bool) (lo hi : Int) (w : Nat) (v : FV) : Cvt :=
  match v with
  | .nan _ => ⟨0, Fl.nv, true⟩
  | .inf neg => ⟨wrap (if neg then lo else hi) w, Fl.nv, false⟩
  | .fin neg m e =>
    let (r, exact) := toUnits c.rm neg m e 0
    let n := signedSig neg r
    if n < lo then ⟨wrap lo w, if fromInt then Fl.sat else Fl.nv, false⟩
    else if hi < n then ⟨wrap hi w, if fromInt then Fl.sat else Fl.nv, false⟩
    else ⟨wrap n w, Fl.on (!exact) Fl.nx, false⟩

/-- To sc8 (R53). -/
def toSc8 (c : RCtx) (v : FV) : Cvt :=
  match v with
  | .nan _ => ⟨0, Fl.nv, true⟩
  | .inf _ => ⟨0xFB, Fl.nv, false⟩
  | .fin neg m e =>
    if neg || m = 0 then ⟨0, Fl.nv, false⟩
    else
      let qu : Int := e + bitLen m - 3
      let (r, exact) := toUnits c.rm false m e qu
      let q := if r = 8 then qu + 1 else qu
      let r := if r = 8 then 4 else r
      if 29 < q then ⟨0xFB, Fl.of ||| Fl.nx, false⟩
      else if q < -33 then ⟨0, Fl.uf ||| Fl.nx, false⟩
      else ⟨(q + 33).toNat * 4 + (r - 4), Fl.on (!exact) Fl.nx, false⟩

/-- A value converted once to a format (R53, R54). -/
def Fmt.convert (dst : Fmt) (c : RCtx) (fromInt : Bool) (v : FV) : Cvt :=
  match dst with
  | .int w => toIntRange c fromInt (-(2 ^ (w - 1) : Int)) (2 ^ (w - 1) - 1) w v
  | .nat w => toIntRange c fromInt 0 (2 ^ w - 1) w v
  | .sc8 => toSc8 c v
  | .flt p =>
    let (x, f) := p.round c.rm c.fz v
    if v.isNan && p.canon.isNone then ⟨0, Fl.nv, true⟩ else ⟨x, f ||| v.sigFlag, false⟩

/-- One element converted (R53); none for a reserved sc8 source code. -/
def convertElem (src dst : Fmt) (c : RCtx) (x : Nat) : Option Cvt :=
  (src.read c.fz x).map (dst.convert c src.isInt)

/-! ### The l8 codeword (R45) -/

/-- The eight components of a codeword under a table entry. -/
def l8Components (w t : Nat) : List FV :=
  (upFrom 0 8).map fun k =>
    let mag := 2 * natBits t (4 * k) 4 + w % 2
    let neg := if k < 7 then natBits w (k + 1) 1 == 1 else popNat 7 (w / 2) % 2 == 1
    .fin (neg && mag != 0) mag (-2)

/-! ### The a96 accumulator (R46 to R49) -/

/-- An a96 pattern: exponent field and signed significand. -/
structure A96 where
  e : Nat
  m : Int
deriving DecidableEq, Repr

/-- Zero (R46). -/
def A96.zero : A96 := ⟨0, 0⟩

/-- From 96 bits. -/
def A96.ofBits (x : Nat) : A96 := ⟨natBits x 88 8, sext (x % 2 ^ 88) 88⟩

/-- To 96 bits. -/
def A96.toBits (a : A96) : Nat := a.e * 2 ^ 88 + wrap a.m 88

/-- The value (R46). -/
def A96.value (a : A96) : FV :=
  if a.e = 255 then (if a.m = 1 then .inf false else if a.m = -1 then .inf true else .nan false)
  else .fin (a.m < 0) a.m.natAbs ((a.e : Int) - 160)

/-- NaN (R46). -/
def A96.nan : A96 := ⟨255, 0⟩

/-- An infinity (R46). -/
def A96.inf (neg : Bool) : A96 := ⟨255, if neg then -1 else 1⟩

/-- Nearest integer to `m / 2^sh`, ties to even, of a signed `m`. -/
def rneShift (m : Int) (sh : Nat) : Int := signedSig (m < 0) (roundShift .rne (m < 0) m.natAbs sh)

/-- The halving loop of R48. -/
def halve : Nat → Int → Nat → Flags → Int × Nat × Flags
  | 0, m, e, f => (m, e, f)
  | fuel + 1, m, e, f =>
    if m.natAbs < 2 ^ 86 then (m, e, f)
    else halve fuel (rneShift m 1) (e + 1) (f ||| Fl.on (m % 2 != 0) Fl.nx)

/-- Adds an exact finite `m * 2^e` to a finite accumulator (R48 from "canonical form of p" on). -/
def A96.addExact (acc : A96) (m e : Int) : A96 × Flags :=
  if m = 0 then (acc, 0)
  else
    let tz := ctzNat (bitLen m.natAbs) m.natAbs
    let mo := m / (2 ^ tz : Nat)
    let ep0 : Int := e + tz + 160
    let (mp, ep, f0) : Int × Nat × Flags :=
      if ep0 < 0 then
        let r := rneShift mo (-ep0).toNat
        (r, 0, Fl.on (r * (2 ^ (-ep0).toNat : Nat) != mo) (Fl.uf ||| Fl.nx))
      else (mo, ep0.toNat, 0)
    if mp = 0 then (acc, f0)
    else
      let e2 := if acc.m = 0 then ep else min acc.e ep
      let m2 := (if acc.m = 0 then 0 else acc.m * (2 ^ (acc.e - e2) : Nat)) + mp * (2 ^ (ep - e2) : Nat)
      let (m3, e3, f1) := halve (bitLen m2.natAbs) m2 e2 f0
      if 254 < e3 then (⟨254, (if m3 < 0 then -1 else 1) * (2 ^ 86 - 1)⟩, f1 ||| Fl.of)
      else if m3 = 0 then (A96.zero, f1)
      else (⟨e3, m3⟩, f1)

/-- A product entering a step: its value, and whether it is 0 times infinity (R48). -/
structure Prod where
  v : FV
  invalid : Bool
deriving DecidableEq, Repr

/-- Exact sum of finite values as signed significand and exponent. -/
def sumExact : List FV → Int × Int
  | [] => (0, 0)
  | .fin s m e :: t =>
    let (n, f) := sumExact t
    if m = 0 then (n, f)
    else if n = 0 then (signedSig s m, e)
    else
      let q := min e f
      (signedSig s (m <<< (e - q).toNat) + n * (2 ^ (f - q).toNat : Nat), q)
  | _ :: t => sumExact t

/-- One step of R48. -/
def A96.step (acc : A96) (ps : List Prod) : A96 × Flags :=
  let isInf (n : Bool) (v : FV) : Bool := v == .inf n
  let pos := ps.any fun p => isInf false p.v
  let neg := ps.any fun p => isInf true p.v
  if ps.any (·.invalid) then (A96.nan, Fl.nv)
  else if acc.value.isNan || ps.any (·.v.isNan) then (A96.nan, 0)
  else if (pos || isInf false acc.value) && (neg || isInf true acc.value) then (A96.nan, Fl.nv)
  else if acc.e = 255 then (acc, 0)
  else if pos then (A96.inf false, 0)
  else if neg then (A96.inf true, 0)
  else
    let (m, e) := sumExact (ps.map (·.v))
    acc.addExact m e

end Sys2Proof.Machine
end

