-- ==== Sys2Proof/Config.lean ====
section
/-! DEFINITION. What the manual leaves to an implementation, and the free values: opaque constants of which no proof can
see a value. -/

namespace Sys2Proof.Config

/-- Microjoules that the module uses while core cycles pass (R342), by use. The manual gives no figure. Log 12. -/
opaque energyUsed : Nat → BitVec 64

/-- Bytes of the scheduler's own save layout at slot offset 256 to 1,023 (R268), by hart and offset. Log 14. -/
opaque schedulerByte : Nat → Nat → BitVec 8

/-- Which element of an unordered store's group of equal addresses lands last (R138), by use and group size. Log 15. -/
opaque sameAddressWinner : Nat → Nat → Nat

/-- The converted pattern of a dictionary entry that holds a reserved sc8 code and that no element reads (R131). Log 17. -/
opaque unreadEntry : Nat → BitVec 64

/-- What a ballot unit of another package answers (R316 to R318, R354), and what `QINFO` gives of a line that cannot be
read (R261), by use. Log 18. -/
opaque remoteReply : Nat → BitVec 64

/-- Whether a package other than a member's own and the grove's home holds a member of that grove (R155, R354). Log 20. -/
opaque groveHolds : Nat → Nat → Nat → Bool

/-- The package on which a member of a linked grove stands that no launch of this package holds (R354, R355). Log 23. -/
opaque memberPackage : Nat → Nat → Nat

/-- The declared class that `CURCLS` writes on a die manager core, which has no gang (R244). Log 13. -/
opaque noGangClass : BitVec 3

/-- `DETAIL` of a completion record to which the manual gives no value (R192, R291, R337, R350, R351), by use. Log 26. -/
opaque openDetail : Nat → BitVec 32

/-- What a byte of a collective's destination becomes when a rank is unreachable: none keeps it (R355), by use. Log 28. -/
opaque tornByte : Nat → Option (BitVec 8)

end Sys2Proof.Config
end

