-- ==== Sys2Proof/Machine/State.lean ====
section
/-! DEFINITION. The state of the module as plain data, why a step can stop, and the state after module reset. -/

namespace Sys2Proof.Machine

/-- Why the machine stops. -/
inductive Fault where
  /-- Raised by `step` once a stack layer reached 105 °C: the module is shut down (R308) until a module reset. Safe. -/
  | shutDown
deriving DecidableEq, Repr

/-- Why an instruction has no meaning. -/
inductive Refusal where
  /-- An instruction whose arm in `exec` is not written. Safe. -/
  | notModelled (mnemonic : String)
deriving DecidableEq, Repr

/-! ### Rows and masks -/

/-- The stored contents of a row (R16 to R20); elements and values are unsigned patterns of the row's SEW. -/
inductive Row where
  | plain (els : List Nat)
  /-- Runs of value and count (R18). -/
  | run (runs : List (Nat × Nat))
  /-- Entries, and one index per element (R19). -/
  | dict (entries idx : List Nat)
  /-- Delta width in bits, base, and the signed deltas from element 1 on (R20). -/
  | delta (w base : Nat) (deltas : List Int)
deriving DecidableEq, Repr

/-- A poisoned part of an element (R140, R186): `size` bytes at byte `off` of element `elem`, loaded from `va`. Bytes that a
block stream decoded (R148) have the poisoned line there, and beside it the block's address and their place among the bytes of
its elements. -/
structure Poison where
  elem : Nat
  off : Nat
  size : Nat
  va : Word
  blk : Option (Word × Nat)
deriving DecidableEq, Repr

/-- A vector register: the row it was last written with, its place in that row and the descriptor's codes (R16). -/
structure VReg where
  sewc : Nat
  grpc : Nat
  pos : Nat
  row : Row
  poison : List Poison
deriving DecidableEq, Repr

/-- A mask row (R24): a bitmap, or counts of alternating truth starting with false. -/
inductive MRow where
  | bits (bs : List Bool)
  | runs (cs : List Nat)
deriving DecidableEq, Repr

/-! ### A hart -/

/-- Integer operations of R124. -/
inductive IntOp where
  | add | sub | rsub | mul | mulh | mulhu | div | divu | rem | remu | min | max | minu | maxu | and | or | xor | sll | srl | sra
  | sadd | ssub | saddu | ssubu | macc | abs | neg
deriving DecidableEq, Repr

/-- Floating-point operations of R125. -/
inductive FloatOp where
  | add | sub | mul | div | min | max | fma | fnms | sqrt | abs | neg | rnd | scale | cls
deriving DecidableEq, Repr

/-- Compares of R126. -/
inductive CmpOp where
  | eq | ne | lt | le | ltu | leu | feq | flt | fle | fun
deriving DecidableEq, Repr

/-- Reductions and scans of R128. -/
inductive RedOp where
  | sum | min | max | minu | maxu | and | or | fsum | fmin | fmax | scan | fscan | fsumo
deriving DecidableEq, Repr

/-- Mask functions of R127. -/
inductive KOp where
  | and | or | xor | andn | not | set | clr | mov | pop | first | fromv | tov | lt | blk | enc
deriving DecidableEq, Repr

/-- Row functions of R129. -/
inductive PermOp where
  | mov | splat | iota | slup | sldn | rgath | cmprs | enc | einfo | extr | ins
deriving DecidableEq, Repr

/-- Table functions of R132. -/
inductive TabOp where
  | tabld | latd | dictg | tabst
deriving DecidableEq, Repr

/-- Vector memory forms of R133. -/
inductive MemOp where
  | ld | lds | ldx | ldff | ld3 | ldc | st | sts | stx | st3 | stc | scadd | scfadd | gacq | srel
deriving DecidableEq, Repr

/-- Where the second operand of a vector operation stands (R75, R112). -/
inductive Second where
  | vec (b : Reg)
  | scalar (b : Reg)
  | imm (i : BitVec 5)
  | none
deriving DecidableEq, Repr

/-- MMODE functions that enter the vector instruction queue (R176, R193). -/
inductive MatOp where
  | settile | mzero | mrdf | mcmprs | maccadd
deriving DecidableEq, Repr

/-- An instruction as the vector instruction queue holds it (R176). -/
inductive VOp where
  | int (op : IntOp) (d a : Reg) (b : Second) (k : BitVec 3) (e : Bool)
  | flt (op : FloatOp) (d a : Reg) (b : Second) (k : BitVec 3) (e : Bool)
  | cmp (op : CmpOp) (d a : Reg) (b : Second) (k : BitVec 3)
  | kop (op : KOp) (d a b : Reg)
  | red (op : RedOp) (d a : Reg) (k : BitVec 3)
  | perm (op : PermOp) (d a b : Reg) (k : BitVec 3) (e : Bool)
  | cvt (d a dst : Reg) (k : BitVec 3) (e : Bool) (src : BitVec 5)
  | tab (op : TabOp) (d a b : Reg) (k : BitVec 3) (e : Bool)
  | mem (op : MemOp) (d a b : Reg) (k : BitVec 3) (o : Bool) (tok : BitVec 2) (x : BitVec 4)
  | mat (op : MatOp) (d a b : Reg)
  | tile (tmaj : BitVec 2) (t : Tile)
  | bind (d a : Reg)
  | unbind (d : Reg)
  | tkpost (f : Reg)
  | tkwait (f : Reg)
deriving DecidableEq, Repr

/-- What the scalar front end resolves for a vector instruction (R14), and where it stands: the registers that its own scalar
instructions write. -/
structure Resolved where
  pc : Word
  x : Vector Word 32
  vl : Nat
  vcfg : Word
  rc : Nat
  dl : Vector (BitVec 16) 3
  dt : Vector Word 3
  mt : Nat
  nt : Nat
  kt : Nat
  mm : Bool
deriving DecidableEq, Repr

/-- What a dispatch counts for the accounts of R326: element units, lane cycles, gate charge. -/
structure Tally where
  units : Nat
  lcyc : Nat
  charge : Nat
deriving DecidableEq, Repr

/-- An entry of the vector instruction queue, with its copy in the replay queue (R176, R183, R185). -/
structure VEntry where
  word : Word
  op : VOp
  /-- The state it was placed with (R14). -/
  st : Resolved
  dispatched : Bool
  /-- One lane mismatch has been seen; the next raises MCHK (R185). -/
  replayed : Bool
  /-- Its token was taken as it dispatched (R156). -/
  took : Bool
  /-- The poisoned lines it consumed have been read once more (R186). -/
  reread : Bool
  /-- What its dispatch counts, once it has dispatched. -/
  tally : Tally
deriving DecidableEq, Repr

/-- A scalar instruction in the commit window (R168): its address, the state it leaves, the flags it sets. -/
structure Ahead where
  pc : Word
  after : Resolved
  flags : BitVec 7
  /-- A store or a system register write: it is carried out as it commits. -/
  held : Bool
deriving DecidableEq, Repr

/-- The front end where it runs ahead of what has committed: its own state, and the scalar instructions in the commit window,
oldest first (R168). -/
structure Front where
  st : Resolved
  window : List Ahead
  /-- It has met a `HALT` and discarded what had not dispatched; the hart stops once the rest has completed (R103). -/
  halted : Bool
deriving DecidableEq, Repr

/-- A translation held (R280, R281): virtual base, log2 of size, frames, attributes as the entry's low 14 bits, home
package, spacing between the eight pages of a stride entry, and the table address of the entry (for `D`). -/
structure TlbEntry where
  asid : BitVec 16
  vbase : Nat
  lg : Nat
  frame : Nat
  attrs : Nat
  pkg : Nat
  stride : Option Int
  entryAddr : Nat
  /-- Pages of a stride entry whose `D` is set (R282); bit 0 for a single translation. -/
  dirty : BitVec 8
deriving DecidableEq, Repr

/-- An access of an instruction that has committed, still to be performed (R139, R168). -/
inductive LateOp where
  /-- A vector memory instruction past its trap horizon. -/
  | vector (e : VEntry)
  /-- A scalar store of 2^lg bytes. -/
  | store (va : Word) (lg v : Nat)
deriving DecidableEq, Repr

/-- A late access with what it is translated under, and the translations it has probed, which it keeps (R143). -/
structure Late where
  op : LateOp
  priv : Bool
  ptroot : Word
  asid : BitVec 16
  held : List TlbEntry
deriving DecidableEq, Repr

/-- Whether an access is one of the vector stream. -/
def Late.isVector (l : Late) : Bool := match l.op with
  | .vector _ => true
  | .store _ _ _ => false

/-- What a hart waits for at its program counter (R100, R102, R187, R191, R226, R228, R261), and the register it is to write
(R98, R215, R276). -/
inductive Wait where
  | none
  | wfe (d : Reg)
  | token (f : Nat)
  | engine (x : Nat)
  | gangBarrier (d : Reg)
  | counter
  | event
  | yieldpt (live : Word) (dead : Bool)
  | launch
  | write (reg : Nat) (v : Word)
deriving DecidableEq, Repr

/-- Whether a hart runs (R101, R103, R267, R271). -/
inductive RunState where
  | running
  | stopped
  | ended
deriving DecidableEq, Repr

/-- A stream binding (R188): register and record address. -/
structure Binding where
  reg : Nat
  record : Word
deriving DecidableEq, Repr

/-- A hart's FIFO to one engine (R191): outstanding commands, next ticket, records arrived with the oldest first. -/
structure EngineFifo where
  out : Nat
  ticket : BitVec 16
  ready : List Word
deriving DecidableEq, Repr

/-- A store that waits for an acknowledgement: whether it is of the vector stream, its address, and the package of its home. -/
structure Unacked where
  vector : Bool
  va : Word
  pkg : Nat
deriving DecidableEq, Repr

/-- Everything a hart owns (R10), with its place and its queues. -/
structure Hart where
  key : HartKey
  /-- The model's own name of the hart, for commands and records that follow it when it moves (R356). -/
  uid : Nat
  /-- The gang it belongs to; none on a die manager core. -/
  gang : Option Nat
  run : RunState
  pc : Word
  priv : Bool
  x : Vector Word 32
  v : Vector VReg 32
  /-- Mask registers by code: 1 to 7, 8 `kff`, 9 `ksm` (R64); entry 0 is never read. -/
  k : Vector (Vector MRow 32) 10
  tb : Vector (BitVec 32) 256
  tbn : Nat
  vl : Nat
  vcfg : Word
  rc : Nat
  vsi : Word
  vsr : Word
  vsp : Word
  dl : Vector (BitVec 16) 3
  dt : Vector Word 3
  fflags : BitVec 7
  xlist : Word
  xcount : BitVec 32
  xlimit : BitVec 32
  mt : Nat
  nt : Nat
  kt : Nat
  mm : Bool
  yld : Bool
  gangSize : Nat
  member : Nat
  gangIdx : Nat
  cycle : Word
  event : BitVec 5
  evmask : BitVec 5
  timecmp : Word
  grove : Word
  sppart : Word
  nbar : Word
  tvec : Word
  tcause : BitVec 8
  tval : Word
  tpc : Word
  tinfo : Word
  ih : Bool
  pprv : Bool
  tscr : Word
  tsave : Word
  ptroot : Word
  asid : BitVec 16
  energyHi : BitVec 32
  tokens : Vector Nat 6
  binds : List Binding
  eng : Vector EngineFifo 6
  pv : Bool
  pg : BitVec 32
  /-- The vector instruction queue, oldest first, at most 32 entries (R176). -/
  viq : List VEntry
  /-- Where the front end stands while it runs ahead (R168). -/
  front : Option Front
  /-- The model's own mark of a front-end step: a vector instruction is queued and not dispatched. Never set between steps. -/
  ahead : Bool
  /-- Accesses that have committed and are not yet performed, oldest first (R139). -/
  late : List Late
  /-- Token FIFOs with a post that waits for room, at most one for each producing stream (R187). -/
  pend : List Nat
  /-- The lane cycle at which the hart's lanes have taken up their last instruction's work (R184). -/
  laneFree : Nat
  /-- What the hart's lane instructions write, with the lane cycle from which a reader may start (R184): vector registers by
  number, mask registers from 32 on, `TB` at 64. -/
  ready : List (Nat × Nat)
  /-- Stores whose acknowledgement is lost (R355). -/
  lost : List Unacked
  /-- Lane errors that meet the hart's next checked instructions, by physical lane (R185, log 21). -/
  upset : List (BitVec 6)
  wait : Wait
  /-- Bytes of rows and masks in its slot since its last stop (R268). -/
  saved : Nat
deriving DecidableEq, Repr

/-! ### Memory -/

/-- What the memory controller knows of a line beside its data (R301 to R304): the layout tag, the stored bits that
flipped since the line was coded (0 to 511 data, 512 to 519 tag symbol, 520 to 543 check symbols, 544 and up parity
bits), the uncorrectable mark of a poisoned store, and corrections since the last scrub. -/
structure LineMeta where
  tag : Nat
  flips : List Nat
  marked : Bool
  corr : Nat
deriving DecidableEq, Repr

/-- Memory by physical address, scratchpads above 2^54. `cells` is canonical: addresses rising, no zero byte listed. -/
structure Mem where
  cells : List Host.Cell
  lines : List (Nat × LineMeta)
deriving DecidableEq, Repr

/-! ### Core, flue, cluster, die -/

/-- A valid tag-table entry (R222): set, way, owning gang, key and slot. -/
structure TagEntry where
  set : Nat
  way : Nat
  gang : Nat
  key : Nat
  slot : Nat
deriving DecidableEq, Repr

/-- A core's shared state (R178 to R185, R222, R233). -/
structure CoreSt where
  lprCur : BitVec 32
  lprNext : BitVec 32
  lgoff : BitVec 8
  gateCap : BitVec 32
  gateLeak : BitVec 16
  level : BitVec 32
  seed : Word
  pois : BitVec 32
  chk : BitVec 32
  tags : List TagEntry
  tlb : List TlbEntry
  /-- Draw of the window so far, ember charge included, and without it (R233). -/
  draw : Rat
  drawReal : Rat
  /-- Ember charge of the window (R235). -/
  drawEmber : Nat
  emberRate : Nat
  /-- Non-ember draws of the last windows, newest first, at most 16; windows before the first charge are not listed (R243). -/
  history : List Rat
  /-- Charges already assigned to the windows that follow, the next one first (R233). -/
  later : List Rat
deriving DecidableEq, Repr

/-- A flue's controller and rail (R234 to R242). -/
structure FlueSt where
  dev : Vector Int 4
  maxdev : Nat
  damped : Bool
  cap : Nat
  good : Nat
  dhold : Nat
  embt : Nat
  dmpt : Nat
  /-- `FLCFG` written and not yet in effect (R234): DHOLD, EMBT, DMPT. -/
  pending : Option (Nat × Nat × Nat)
  emb : Word
  win : BitVec 32
  engaged : BitVec 32
  cls : Nat
  railReq : Nat
  railState : Nat
  /-- The state the step under way leads to (R242). -/
  railTo : Option Nat
  /-- Held in reset since the rail went off, until it reaches ON (R253). -/
  held : Bool
  /-- Windows that had ended when the flue last reached ON (R243). -/
  since : Nat
deriving DecidableEq, Repr

/-- A named barrier counter (R227) and the launch it is granted to. -/
structure Counter where
  cnt : Nat
  tgt : Nat
  gen : BitVec 32
  owner : Option Nat
deriving DecidableEq, Repr

/-- Clock transition of a cluster (R254). -/
inductive ClockState where
  | on | stopping | off | starting
deriving DecidableEq, Repr

/-- A cluster's shared state (R227, R249, R254). -/
structure ClusterSt where
  close : Bool
  pre : Bool
  sleep : Bool
  clock : ClockState
  counters : Vector Counter 64
deriving DecidableEq, Repr

/-- A memory controller (R305, R306, R308). -/
structure MemCtl where
  queue : List Word
  ovf : Bool
  sev1 : BitVec 16
  sev2 : BitVec 16
  corr : BitVec 32
  tState : Nat
  tLayer : Nat
  tTemp : Nat
deriving DecidableEq, Repr

/-- A message or report of the mailbox (R338 to R340). -/
structure Message where
  /-- 0 launched hart, 1 host channel, 2 report. -/
  src : Nat
  hartid : BitVec 32
  uid : Nat
  ticket : BitVec 16
  word0 : Word
  word1 : Word
  /-- Whether the sender ran privileged (R338). -/
  priv : Bool
  /-- Inbox sequence number once written. -/
  seq : Option Nat
  answered : Bool
deriving DecidableEq, Repr

/-- A die's scheduler, mailbox and registers. -/
structure Die where
  qcbase : Word
  qasbase : Word
  jbase : Word
  flsel : Word
  cwake : BitVec 16
  uvpin : BitVec 17
  /-- Supply voltage of each SRAM domain in steps of 10 mV from its first one, and the level it was pinned at (R343). -/
  sram : Vector Int 17
  pinned : Vector Int 17
  mssel : BitVec 2
  mbxbase : Word
  mbxtail : BitVec 32
  mbxhead : BitVec 32
  walkStride : BitVec 32
  walkDisagree : BitVec 32
  events : Vector (BitVec 32) 256
  pointers : Vector Nat 8
  /-- Times a candidate was passed over (R264), by the number of the gang or of the launch. -/
  passed : List (Nat × Nat)
  /-- Journal numbers of the entries each queue has accepted and not yet taken, from `HEAD` on (R329, R332). -/
  accepted : Vector (List Word) 64
  /-- The launch at each queue's head once it was checked (R257, R262). -/
  headLaunch : Vector (Option Nat) 64
  /-- Device queues whose `TAIL` the host has written: bad lines to be served (R260, R332). -/
  hostTails : List Nat
  ctl : Vector MemCtl 4
  messages : List Message
  reports : List Message
deriving DecidableEq, Repr

/-! ### Launches, gangs, groves, engines -/

/-- How a gang left (R271). -/
inductive Leave where
  | ended | felled | failed (reason : Nat) | killed | cancelled
deriving DecidableEq, Repr

/-- A launch record's fields (R256). -/
structure Record where
  addr : Word
  ctl : Word
  entry : Word
  args : Word
  done : Word
  tvec : Word
  evt : Word
  grove : Word
  save : Word
deriving DecidableEq, Repr

/-- A gang from its placement until it leaves (R225, R244, R267, R271). -/
structure Gang where
  id : Nat
  launch : Nat
  idx : Nat
  die : Nat
  clu : Nat
  cls : Nat
  resident : Bool
  gen : BitVec 32
  arr : BitVec 16
  endedMap : BitVec 16
  sum : Word
  last : Word
  preempt : Bool
  /-- The die whose scheduler asked the gang to stop; none where `CQCTL.PRE` asked (R267). -/
  askedBy : Option Nat
  /-- The scratchpad was declared dead at the stop (R102, R269). -/
  deadSpad : Bool
  felled : Bool
  anyFelled : Bool
  /-- A way of leaving already fixed (R274). -/
  leave : Option Leave
  /-- Home package, slot and member index of its grove (R314). -/
  grove : Option (Nat × Nat × Nat)
  /-- Its partition and tag entries have been copied out for a gang of higher priority (R269). -/
  copied : Bool
  /-- A wake of its closed cluster has been requested since it stopped (R255). -/
  woken : Bool
deriving DecidableEq, Repr

/-- A launch in progress (R262, R271, R272). -/
structure Launch where
  id : Nat
  die : Nat
  queue : Nat
  record : Record
  seq : Word
  prio : Nat
  ptroot : Word
  asid : BitVec 16
  /-- The next gang to place. -/
  next : Nat
  placedAny : Bool
  /-- Gangs that left, with how. -/
  left : List (Nat × Leave)
  flags : BitVec 7
  /-- A failed record check (R257). -/
  reason : Nat
  cancelled : Bool
  /-- Home package, slot at the home and member index of gang 0 of its grove (R313, R354). -/
  grove : Option (Nat × Nat × Nat)
  /-- `GLINK` of its queue's line (R354). -/
  glink : Nat
  /-- The grove it is part of has closed (R324). -/
  closed : Bool
deriving DecidableEq, Repr

/-- A member of a grove at its home ballot unit (R316 to R323). -/
structure Member where
  posted : Option Word
  left : Bool
  /-- The gang has left the launch. -/
  gone : Bool
  priv : Option Word
  returned : Bool
  /-- The gang's number once it is placed on this package. -/
  gang : Option Nat
  /-- The gang left by felling. -/
  felled : Bool
  /-- A launch elsewhere has asked for it (R354). -/
  taken : Bool
deriving DecidableEq, Repr

/-- A grove slot in use (R313, R319, R325). -/
structure Grove where
  slot : Nat
  launch : Nat
  n : Nat
  quorum : Nat
  members : List Member
  /-- Hashes with their counts and first member, in the order of their first posts. -/
  posts : List (Word × Nat × Nat)
  tot : Nat
  /-- The winning hash, its count at the decision, the member that first posted it, and 1 quorum or 2 plurality. -/
  winner : Option (Word × Nat × Nat × Nat)
  /-- Rule 3 of R319: everyone posted or left and nothing was counted. -/
  noAnswer : Bool
  felled : List Nat
  /-- The shared list, and the member that registered it. -/
  shared : Option (Nat × Word)
  units : Nat
  lcyc : Nat
  charge : Nat
  discarded : Nat
  returned : Nat
  notReturned : Nat
deriving DecidableEq, Repr

/-- A command pushed to an engine (R191), with what it runs under (R292, R310). -/
structure Cmd where
  uid : Nat
  eng : Nat
  ticket : BitVec 16
  two : Bool
  word0 : Word
  word1 : Word
  ptroot : Word
  asid : BitVec 16
  priv : Bool
  sppart : Word
  gang : Option Nat
  /-- The launch of that gang, which outlives it (R272). -/
  launch : Option Nat
  key : HartKey
  /-- The completion record once the command has run, not yet arrived. -/
  record : Option Word
  /-- A collective that has joined (R351). -/
  joined : Bool
deriving DecidableEq, Repr

/-- One rank's join of a collective (R351). -/
structure Join where
  tag : Word
  rank : Nat
  word0 : Word
  n : Nat
  root : Nat
  list : List Nat
  data : List Byte
  /-- This package's own command: pushing hart, ticket, `SRC` and `DST`. -/
  own : Option (Nat × BitVec 16 × Word × Word)
deriving DecidableEq, Repr

/-- Dispatch accounts of a gang for the grove record (R326). -/
structure Account where
  gang : Nat
  units : Nat
  lcyc : Nat
  charge : Nat
deriving DecidableEq, Repr

/-- A page list registered by a member that stands here of a grove homed elsewhere (R316, R323, R354). -/
structure RemoteList where
  hpkg : Nat
  slot : Nat
  member : Nat
  shared : Bool
  addr : Word
  /-- The member's gang. -/
  gang : Nat
  launch : Nat
  felled : Bool
deriving DecidableEq, Repr

/-- What comes next: the model's own agenda, plain data (log 6). -/
inductive Turn where
  /-- The hart to run from now on. -/
  | run (h : HartKey)
  /-- A step of the module (a row of the table that no word encodes). -/
  | event (i : Instr)
  /-- Core cycles pass (R3, R29). -/
  | elapse (cycles : Nat)
  /-- The host or another module writes memory of its own. -/
  | outside (pa : Nat) (bytes : List Byte)
  /-- A core lets go of the n-th translation it holds. -/
  | evict (c : CoreKey) (n : Nat)
  /-- A hart's front end takes one more instruction while older work waits (R168, R176). -/
  | front (h : HartKey)
  /-- A hart's next instruction commits with its accesses still to be performed (R139). -/
  | defer (h : HartKey)
  /-- A hart's committed accesses are performed (R139). -/
  | settle (h : HartKey)
  /-- A hart asked to stop stops inside its dispatched instruction, after `n` elements (R157, R169). -/
  | cut (h : HartKey) (n : Nat)
  /-- The acknowledgement of a hart's store is lost (R355). -/
  | lostAck (h : HartKey) (store : Unacked)
  /-- Firmware asks for a supply voltage of an SRAM domain (R343). -/
  | sram (die dom : Nat) (level : Int)
  /-- The host's firmware has passed attestation, or no longer has (R338). -/
  | attest (ok : Bool)
  /-- Firmware lays out the capability list from an address on (R334). -/
  | capabilities (addr : Nat)
  /-- Link training assigns the package index and the size of the domain (R345). -/
  | train (pkg size : Nat)
deriving DecidableEq, Repr

/-- The module. `h` is the hart whose turn it is, `others` the remaining harts. -/
structure State where
  h : Hart
  others : List Hart
  mem : Mem
  cores : List (CoreKey × CoreSt)
  flues : List (FlueKey × FlueSt)
  clusters : List ((Nat × Nat) × ClusterSt)
  dies : Vector Die 4
  launches : List Launch
  gangs : List Gang
  groves : List Grove
  accounts : List Account
  cmds : List Cmd
  joins : List Join
  keys : Vector (Option (BitVec 128)) 8
  badPages : List Word
  ticks : Nat
  time0 : Word
  caphead : Word
  /-- The module's energy in microjoules (R342). -/
  energyCount : BitVec 64
  /-- Host firmware has passed attestation (R338). -/
  attested : Bool
  /-- Page lists of members that stand here of groves homed elsewhere. -/
  remoteLists : List RemoteList
  /-- What homes elsewhere have sent of felling, until their groves close: package, slot, felled members (R354). -/
  felledAway : List (Nat × Nat × List Nat)
  fabUp : BitVec 18
  fabSize : Nat
  pkg : Nat
  unreachable : List Nat
  deadLinks : List (Nat × Nat)
  cxl256 : Bool
  shut : Bool
  agenda : List Turn
  nextId : Nat
  freeCount : Nat
deriving DecidableEq, Repr

/-! ### Reset -/

/-- A vector register after hart start (R16, R35). -/
def VReg.reset : VReg := ⟨2, 0, 0, .plain [], []⟩

/-- A hart at its start (R35), before the launch's own values. -/
def Hart.start (key : HartKey) : Hart where
  key := key
  uid := 0
  gang := none
  run := .running
  pc := 0
  priv := false
  x := Vector.replicate 32 0
  v := Vector.replicate 32 VReg.reset
  k := Vector.replicate 10 (Vector.replicate 32 (.bits []))
  tb := Vector.replicate 256 0
  tbn := 0
  vl := 0
  vcfg := 2
  rc := 1
  vsi := 0
  vsr := 0
  vsp := 0
  dl := Vector.replicate 3 0
  dt := Vector.replicate 3 0
  fflags := 0
  xlist := 0
  xcount := 0
  xlimit := 0
  mt := 0
  nt := 0
  kt := 0
  mm := false
  yld := false
  gangSize := 0
  member := 0
  gangIdx := 0
  cycle := 0
  event := 0
  evmask := 0
  timecmp := BitVec.allOnes 64
  grove := 0
  sppart := 0
  nbar := 0
  tvec := 0
  tcause := 0
  tval := 0
  tpc := 0
  tinfo := 0
  ih := false
  pprv := false
  tscr := 0
  tsave := 2
  ptroot := 0
  asid := 0
  energyHi := 0
  tokens := Vector.replicate 6 0
  binds := []
  eng := Vector.replicate 6 ⟨0, 0, []⟩
  pv := false
  pg := 0
  viq := []
  front := none
  ahead := false
  late := []
  pend := []
  laneFree := 0
  ready := []
  lost := []
  upset := []
  wait := .none
  saved := 0

/-- The key of a die manager core: core 63, slot 0 (log 3). -/
def dmKey (die : Nat) : HartKey := ⟨true, die, 0, 63, 0⟩

/-- A die manager core after module reset: privileged, translating through the bypass of R276 (logs 1 to 4). -/
def Hart.dm (die : Nat) : Hart := { Hart.start (dmKey die) with priv := true, uid := die }

/-- A core after reset (R178 to R185). -/
def CoreSt.reset : CoreSt :=
  ⟨0, 0, 0, 16384, 512, 0, 0x100000001, 0, 0, [], [], 0, 0, 0, 0, [], []⟩

/-- A flue after reset (R241). -/
def FlueSt.reset : FlueSt :=
  ⟨Vector.replicate 4 0, 0, false, 0, 0, 4, 8, 15, none, 0, 0, 0, 0, 0, 0, none, false, 0⟩

/-- A cluster after reset (R227, R249). -/
def ClusterSt.reset : ClusterSt :=
  ⟨false, false, false, .on, Vector.replicate 64 ⟨0, 0, 0, none⟩⟩

/-- A memory controller after reset (R305). -/
def MemCtl.reset : MemCtl := ⟨[], false, 0, 0, 0, 0, 0, 0⟩

/-- A die after reset. -/
def Die.reset : Die where
  qcbase := 0
  qasbase := 0
  jbase := 0
  flsel := 0
  cwake := 0
  uvpin := 0
  sram := Vector.replicate 17 0
  pinned := Vector.replicate 17 0
  mssel := 0
  mbxbase := 0
  mbxtail := 0
  mbxhead := 0
  walkStride := 0
  walkDisagree := 0
  events := Vector.replicate 256 0
  pointers := Vector.replicate 8 63
  passed := []
  accepted := Vector.replicate 64 []
  headLaunch := Vector.replicate 64 none
  hostTails := []
  ctl := Vector.replicate 4 MemCtl.reset
  messages := []
  reports := []

/-- The module right after reset: the four die manager cores run, nothing is resident, memory is zero (R303). -/
def State.reset : State where
  h := Hart.dm 0
  others := [Hart.dm 1, Hart.dm 2, Hart.dm 3]
  mem := ⟨[], []⟩
  cores := []
  flues := []
  clusters := []
  dies := Vector.replicate 4 Die.reset
  launches := []
  gangs := []
  groves := []
  accounts := []
  cmds := []
  joins := []
  keys := Vector.replicate 8 none
  badPages := []
  ticks := 0
  time0 := 0
  caphead := 0
  energyCount := 0
  attested := false
  remoteLists := []
  felledAway := []
  fabUp := 0
  fabSize := 0
  pkg := 0
  unreachable := []
  deadLinks := []
  cxl256 := true
  shut := false
  agenda := []
  nextId := 4
  freeCount := 0

end Sys2Proof.Machine
end

