-- ==== Sys2Proof/Machine/Memory.lean ====
section
/-! DEFINITION. Memory: cells in canonical form, the coding of a line (R299 to R306), reading and writing at the home. -/

namespace Sys2Proof.Machine

/-! ### Cells -/

/-- The byte at an address; an address not listed reads zero (R303). -/
def cellGet : List Host.Cell → Nat → Byte
  | [], _ => 0
  | (a, b) :: t, k => if a = k then b else cellGet t k

/-- Writes a byte, keeping addresses rising and listing no zero. -/
def cellSet : List Host.Cell → Nat → Byte → List Host.Cell
  | [], k, v => if v = 0 then [] else [(k, v)]
  | (a, b) :: t, k, v =>
    if k < a then (if v = 0 then (a, b) :: t else (k, v) :: (a, b) :: t)
    else if a = k then (if v = 0 then t else (k, v) :: t)
    else (a, b) :: cellSet t k v

/-- Addresses rise strictly from above a bound, and no byte is zero. -/
def cellsFrom : Option Nat → List Host.Cell → Bool
  | _, [] => true
  | lo, (a, b) :: t => (match lo with | none => true | some l => decide (l < a)) && b != 0 && cellsFrom (some a) t

/-- Writes bytes at rising addresses. -/
def cellsSet : List Host.Cell → Nat → List Byte → List Host.Cell
  | c, _, [] => c
  | c, k, b :: bs => cellsSet (cellSet c k b) (k + 1) bs

/-- Reads bytes at rising addresses. -/
def cellsGet (c : List Host.Cell) (k : Nat) : Nat → List Byte
  | 0 => []
  | n + 1 => cellGet c k :: cellsGet c (k + 1) n

/-- What is known of a line that was never recoded: UNIFORM, intact (R303). -/
def LineMeta.clean : LineMeta := ⟨0, [], false, 0⟩

/-- Sets what is known of a line, keeping lines rising and listing no clean line. -/
def lineSet : List (Nat × LineMeta) → Nat → LineMeta → List (Nat × LineMeta)
  | [], k, v => if v = LineMeta.clean then [] else [(k, v)]
  | (a, b) :: t, k, v =>
    if k < a then (if v = LineMeta.clean then (a, b) :: t else (k, v) :: (a, b) :: t)
    else if a = k then (if v = LineMeta.clean then t else (k, v) :: t)
    else (a, b) :: lineSet t k v

/-- Lines rise strictly from above a bound, and none is clean. -/
def linesFrom : Option Nat → List (Nat × LineMeta) → Bool
  | _, [] => true
  | lo, (a, b) :: t => (match lo with | none => true | some l => decide (l < a)) && b != LineMeta.clean && linesFrom (some a) t

/-- Memory is in canonical form. -/
def Mem.wf (m : Mem) : Bool := cellsFrom none m.cells && linesFrom none m.lines

/-- What is known of a line. -/
def Mem.line (m : Mem) (l : Nat) : LineMeta := assoc m.lines l LineMeta.clean

/-- Replaces what is known of a line. -/
def Mem.setLine (m : Mem) (l : Nat) (v : LineMeta) : Mem := ⟨m.cells, lineSet m.lines l v⟩

/-- Stored bytes as they stand. -/
def Mem.bytes (m : Mem) (k n : Nat) : List Byte := cellsGet m.cells k n

/-- Stores bytes. -/
def Mem.store (m : Mem) (k : Nat) (bs : List Byte) : Mem := ⟨cellsSet m.cells k bs, m.lines⟩

/-! ### The coding of a line -/

/-- Element width, lowest C bit and lowest S bit of a layout (R299, R300). -/
def layoutBits : Nat → Nat × Nat × Nat
  | 1 => (32, 16, 8)
  | 2 => (16, 4, 0)
  | 3 => (16, 6, 2)
  | 4 => (8, 3, 2)
  | 5 => (8, 2, 1)
  | 6 => (4, 1, 0)
  | 7 => (8, 0, 0)
  | 8 => (16, 0, 0)
  | 9 => (8, 4, 1)
  | 10 => (64, 0, 0)
  | _ => (512, 0, 0)

/-- What a stored bit belongs to under a layout (R300, R301). -/
inductive BitClass where
  | symbol (j : Nat)
  | parity (g : Nat)
  | plain
deriving DecidableEq, Repr

/-- Parity bits of a layout (R301). -/
def parityBits (tag : Nat) : Nat := let (w, c, s) := layoutBits tag; (512 / w * (c - s) + 7) / 8

/-- The class of a stored bit: 0 to 511 data, 512 to 519 the tag symbol, 520 to 543 check symbols, then parity bits. -/
def bitClass (tag b : Nat) : BitClass :=
  let (w, c, s) := layoutBits tag
  if b < 512 then
    let i := b / w
    let p := b % w
    if c ≤ p then .symbol ((i * (w - c) + (w - 1 - p)) / 8)
    else if s ≤ p then .parity ((i * (c - s) + (c - 1 - p)) / 8)
    else .plain
  else if b < 544 then .symbol (64 + (b - 512) / 8)
  else if b - 544 < parityBits tag then .parity (b - 544)
  else .plain

/-- Numbers without repeats. -/
def dedup : List Nat → List Nat
  | [] => []
  | x :: t => if x ∈ t then dedup t else x :: dedup t

/-- Symbols in error. -/
def badSymbols (l : LineMeta) : List Nat :=
  dedup (l.flips.filterMap fun b => match bitClass l.tag b with | .symbol j => some j | _ => none)

/-- Parity groups that fail: an odd number of their bits flipped. -/
def badGroups (l : LineMeta) : List Nat :=
  let gs := l.flips.filterMap fun b => match bitClass l.tag b with | .parity g => some g | _ => none
  (dedup gs).filter fun g => gs.count g % 2 == 1

/-- Turns one bit of a line's bytes. -/
def flipBit (bs : List Byte) (b : Nat) : List Byte :=
  setNth bs (b / 8) (nth bs (b / 8) 0 ^^^ BitVec.ofNat 8 (2 ^ (b % 8)))

/-- Clears one bit of a line's bytes. -/
def clearBit (bs : List Byte) (b : Nat) : List Byte :=
  setNth bs (b / 8) (nth bs (b / 8) 0 &&& ~~~BitVec.ofNat 8 (2 ^ (b % 8)))

/-- Stored data bits that belong to symbols, to be turned back by a correction. -/
def symbolFlips (l : LineMeta) : List Nat :=
  l.flips.filter fun b => b < 512 && (match bitClass l.tag b with | .symbol _ => true | _ => false)

/-- Severity of reading a line (R302), and a correction of one symbol. -/
def LineMeta.severity (l : LineMeta) : Nat :=
  if l.marked || 2 ≤ (badSymbols l).length then 2 else if (badGroups l).isEmpty then 0 else 1

/-- The 64 bytes that a read of a line delivers (R302). -/
def LineMeta.delivered (l : LineMeta) (raw : List Byte) : List Byte :=
  if l.flips.isEmpty then raw
  else if l.severity = 2 then raw
  else
    let fixed := (symbolFlips l).foldl flipBit raw
    let bad := badGroups l
    ((upFrom 0 512).filter fun b => match bitClass l.tag b with | .parity g => bad.contains g | _ => false).foldl clearBit fixed

/-! ### Homes -/

/-- Where physical memory ends and scratchpad keys begin. -/
def spadBase : Nat := 2 ^ 54

/-- Key of a scratchpad byte. -/
def spadKey (die clu core off : Nat) : Nat := spadBase + ((die * 16 + clu) * 64 + core) * 2 ^ 18 + off

/-- The package of a physical key. -/
def pkgOf (k : Nat) : Nat := k / 2 ^ 42

/-- The memory controller of a local address: die and unit, 3 for the second tier (R297, R305). -/
def controllerOf (l : Nat) : Option (Nat × Nat) :=
  if l < 0x0F000000000 then some (l / 0x1400000000 / 3, l / 0x1400000000 % 3)
  else if 0x10000000000 ≤ l && l < 0x28000000000 then some ((l - 0x10000000000) / 0x6000000000, 3)
  else none

/-- Whether a local address lies in the host window (R297). -/
def inHostWindow (l : Nat) : Bool := 0x30000000000 ≤ l && l < 0x40000000000

/-- Whether a local address lies in HBM or the second tier. -/
def inMemory (l : Nat) : Bool := (controllerOf l).isSome

/-- Whether a local address lies in a range marked none (R297). -/
def inNone (l : Nat) : Bool := !inMemory l && !inHostWindow l

/-- Replaces one die's record. -/
def State.setDie (s : State) (d : Nat) (f : Die → Die) : State :=
  if h : d < 4 then { s with dies := s.dies.set d (f (s.dies[d]'h)) h } else s

/-- One die's record. -/
def State.die (s : State) (d : Nat) : Die := (s.dies[d]?).getD Die.reset

/-- Replaces one controller's record. -/
def State.setCtl (s : State) (d u : Nat) (f : MemCtl → MemCtl) : State :=
  s.setDie d fun x => if h : u < 4 then { x with ctl := x.ctl.set u (f (x.ctl[u]'h)) h } else x

/-- Queues a failing line (R306): 64 entries, a full queue drops it and marks the next read. -/
def MemCtl.enqueue (c : MemCtl) (line cls src : Nat) : MemCtl :=
  if c.queue.length < 64 then { c with queue := c.queue ++ [BitVec.ofNat 64 (2 ^ 63 + line * 64 + cls * 16 + src)] }
  else { c with ovf := true }

/-- What the home does on reading a line: counts, queueing and writing a corrected line back (R302, R304, R306). -/
def State.readEffect (s : State) (line src : Nat) : State :=
  let l := s.mem.line line
  if l.flips.isEmpty && !l.marked then s
  else
    let own := if pkgOf (line * 64) = s.pkg then controllerOf (line * 64 % 2 ^ 42) else none
    let upd (f : MemCtl → MemCtl) (s : State) : State := match own with
      | some (d, u) => s.setCtl d u f
      | none => s
    match l.severity with
    | 2 => upd (fun c => { c with sev2 := c.sev2 + 1 }.enqueue line 2 src) s
    | 1 => upd (fun c => { c with sev1 := c.sev1 + 1 }.enqueue line 1 src) s
    | _ =>
      let n := (badSymbols l).length
      if n = 0 then s
      else
        let raw := s.mem.bytes (line * 64) 64
        let l' := { l with flips := l.flips.filter (fun b => match bitClass l.tag b with | .symbol _ => false | _ => true), corr := l.corr + 1 }
        let m := (s.mem.store (line * 64) ((symbolFlips l).foldl flipBit raw)).setLine line l'
        upd (fun c =>
          let c := { c with corr := c.corr + 1 }
          if l.corr + 1 = 16 then c.enqueue line 0 src else c) { s with mem := m }

/-- What a read of `n` bytes at a key inside one line delivers: bytes and severity. -/
def State.lineRead (s : State) (k n : Nat) : List Byte × Nat :=
  let l := s.mem.line (k / 64)
  if l.flips.isEmpty then (s.mem.bytes k n, if l.marked then 2 else 0)
  else (((l.delivered (s.mem.bytes (k / 64 * 64) 64)).drop (k % 64)).take n, l.severity)

/-- A read performed at its home: bytes, worst severity, and the state after it. Structural on the number of lines. -/
def State.readLines : Nat → State → Nat → Nat → Nat → List Byte × Nat × State
  | 0, s, _, _, _ => ([], 0, s)
  | f + 1, s, k, n, src =>
    let m := min n (64 - k % 64)
    let (bs, sev) := s.lineRead k m
    let s1 := s.readEffect (k / 64) src
    if n ≤ m then (bs, sev, s1)
    else
      let (cs, sev', s2) := State.readLines f s1 (k + m) (n - m) src
      (bs ++ cs, max sev sev', s2)

/-- A read performed at its home. -/
def State.readAt (s : State) (k n : Nat) (src : Nat := 0) : List Byte × Nat × State :=
  State.readLines (n / 64 + 2) s k n src

/-- Bytes with others over them from an offset. -/
def overlay (old : List Byte) (off : Nat) (new : List Byte) : List Byte :=
  old.take off ++ new ++ old.drop (off + new.length)

/-- A write inside one line, merged and coded at the controller (R303): `nl` none keeps the line's tag. -/
def State.writeLine (s : State) (k : Nat) (bs : List Byte) (nl : Option Nat) (poison : Bool) : State :=
  let line := k / 64
  let l := s.mem.line line
  let tag := nl.getD l.tag
  if bs.length = 64 || (l.flips.isEmpty && !l.marked) then
    { s with mem := (s.mem.store k bs).setLine line ⟨tag, [], poison, l.corr⟩ }
  else
    let old := l.delivered (s.mem.bytes (line * 64) 64)
    let s := s.readEffect line 2
    let l' : LineMeta := ⟨tag, [], poison || l.severity == 2, (s.mem.line line).corr⟩
    { s with mem := (s.mem.store (line * 64) (overlay old (k % 64) bs)).setLine line l' }

/-- A write of several parts of one line in one access (R303): the line is read and merged unless they give all of it. -/
def State.writeParts (s : State) (line : Nat) (parts : List (Nat × List Byte)) (nl : Option Nat) (poison : Bool) : State :=
  let l := s.mem.line line
  let whole := (parts.foldl (fun n p => n + p.2.length) 0) == 64
  let bytes := parts.foldl (fun bs p => overlay bs p.1 p.2) (l.delivered (s.mem.bytes (line * 64) 64))
  (if whole then s else s.readEffect line 2).writeLine (line * 64) bytes nl (poison || (!whole && l.severity == 2))

/-- A write over several lines. Structural on the number of lines. -/
def State.writeLines : Nat → State → Nat → List Byte → Option Nat → Bool → State
  | 0, s, _, _, _, _ => s
  | f + 1, s, k, bs, nl, p =>
    let m := 64 - k % 64
    if bs.length ≤ m then s.writeLine k bs nl p
    else State.writeLines f (s.writeLine k (bs.take m) nl p) (k + m) (bs.drop m) nl p

/-- A write performed at its home. -/
def State.writeAt (s : State) (k : Nat) (bs : List Byte) (nl : Option Nat) (poison : Bool := false) : State :=
  State.writeLines (bs.length / 64 + 2) s k bs nl poison

end Sys2Proof.Machine
end

