-- ==== Sys2Proof/Machine/Translate.lean ====
section
/-! DEFINITION. Address translation (R275 to R284): the scratchpad window, the walk, stride entries, A and D bits, and
the translations a core holds. -/

namespace Sys2Proof.Machine

/-- Why an instruction or an engine access stops before its end. -/
inductive Stop where
  /-- A trap: cause (R106), TVAL and TINFO. -/
  | trap (cause : Nat) (tval tinfo : Word)
  /-- LINK at a virtual address (R144, R172). -/
  | link (va : Word)
  /-- No fault: an instruction has met poisoned elements for the first time, whose lines or blocks are read once more before it is
  issued again (R186). -/
  | reread (sources : List (Word × Bool))
deriving DecidableEq, Repr

/-- A computation over the state that may stop; what it did before stopping stays done. -/
abbrev M := ExceptT Stop (StateM State)

/-- Stops with a trap. -/
def raise {α : Type} (cause : Nat) (tval tinfo : Word) : M α := throw (.trap cause tval tinfo)

/-- Runs a computation: result and state. -/
def M.on {α : Type} (m : M α) (s : State) : Except Stop α × State := (ExceptT.run m).run s

namespace Cause

/-- Codes of R106. -/
def illop := 0x01
/-- R106. -/
def mode := 0x02
/-- R106. -/
def priv := 0x03
/-- R106. -/
def align := 0x04
/-- R106. -/
def page := 0x05
/-- R106. -/
def evt := 0x06
/-- R106. -/
def divz := 0x07
/-- R106. -/
def rescode := 0x08
/-- R106. -/
def block := 0x09
/-- R106. -/
def metaData := 0x0A
/-- R106. -/
def opnd := 0x0B
/-- R106. -/
def sev2 := 0x0C
/-- R106. -/
def mchk := 0x0D
/-- R106. -/
def sealedPage := 0x0F
/-- R106. -/
def trap := 0x10
/-- R106. -/
def brkpt := 0x11
/-- R106. -/
def xlfull := 0x13

end Cause

/-- Access kinds of R105. -/
inductive Kind where
  | load | store | atomic | fetch
deriving DecidableEq, Repr

/-- The access code of R105. -/
def Kind.code : Kind → Nat
  | .load => 0
  | .store => 1
  | .atomic => 2
  | .fetch => 3

/-- TINFO of an access: kind, log2 of size, reason (R105). -/
def accessInfo (k : Kind) (lg reason : Nat) : Word := BitVec.ofNat 64 (k.code + lg * 16 + reason * 256)

/-- The address context of an access: who asks, under which table and at which level. -/
structure Ctx where
  die : Nat
  clu : Nat
  dm : Bool
  ptroot : Word
  asid : BitVec 16
  priv : Bool
  sppart : Word
  /-- Whether the scratchpad window of the cluster is in reach (R217, R229). -/
  window : Bool
  /-- The core whose translations are used; none for an engine, which walks afresh (log 8). -/
  tlb : Option CoreKey
deriving DecidableEq, Repr

/-- A translated access: physical or scratchpad key, layout and attributes. -/
structure Xlat where
  key : Nat
  nl : Nat
  isSealed : Bool
  mir : Bool
  spad : Bool
deriving DecidableEq, Repr

/-- Canonical addresses (R275). -/
def canonical (va : Word) : Bool := va.toNat >>> 56 == 0 || va.toNat >>> 56 == 0xFF

/-- The scratchpad window (R217). -/
def inWindow (va : Word) : Bool := field va 24 40 == 0xFE00000000

/-- The core a window address names. -/
def windowCore (va : Word) : Nat := field va 18 6

/-- The offset a window address names. -/
def windowOff (va : Word) : Nat := field va 0 18

/-- A window address (R217). -/
def windowAddr (core off : Nat) : Word := BitVec.ofNat 64 (0xFE00000000000000 + core * 2 ^ 18 + off)

/-- Whether a partition holds an offset of a core (R219, R220). -/
def inPartition (sppart : Word) (core off : Nat) : Bool :=
  let base := field sppart 56 6
  let size := field sppart 48 7
  field sppart core 1 == 1 && core < 48 && base * 4096 ≤ off && off < (base + size) * 4096

/-- A core's state. -/
def State.core (s : State) (k : CoreKey) : CoreSt := assoc s.cores k CoreSt.reset

/-- Replaces a core's state. -/
def State.setCore (s : State) (k : CoreKey) (f : CoreSt → CoreSt) : State :=
  { s with cores := assocSet s.cores k (f (s.core k)) }

/-- Whether the home of a physical key answers an access from a die (R144, R274, R355). -/
def State.reachable (s : State) (die k : Nat) : Bool :=
  if spadBase ≤ k then true
  else if pkgOf k = s.pkg then
    match controllerOf (k % 2 ^ 42) with
    | some (hd, _) => !(s.deadLinks.contains (min die hd, max die hd)) || hd == die
    | none => s.cxl256 || !inHostWindow (k % 2 ^ 42)
  else !s.unreachable.contains (pkgOf k)

/-- The mirror partner of this package is in the domain (R349). -/
def State.hasPartner (s : State) : Bool := (s.pkg ^^^ 1) ≤ s.fabSize

/-- The package of a `PKG` field as a package index. -/
def State.homePkg (s : State) (p : Nat) : Nat := if p = 0xFFF then s.pkg else p

/-- An uncorrectable line is read once more before its reader stops (R89, R278): bytes and final severity. -/
def readTwice (k n src : Nat) : M (List Byte × Nat) := do
  let (bs, sev, s) := (← get).readAt k n src
  set s
  if sev = 2 then
    let (bs, sev, s) := s.readAt k n src
    set s
    return (bs, sev)
  else return (bs, sev)

/-- Reads a table word at a local address of this package (R277, R283). -/
def readTable (die : Nat) (va : Word) (kind : Kind) (lg l n : Nat) : M Nat := do
  let s ← get
  let k := s.pkg * 2 ^ 42 + l
  if !s.reachable die k then throw (.link va)
  let (bs, sev) ← readTwice k n 0
  if sev = 2 then raise Cause.sev2 va (accessInfo kind lg 6) else return ofBytes bs

/-- Whether a frame lies in a range marked none, or in another package's host window (R297, R346). -/
def State.badFrame (s : State) (pkg l : Nat) : Bool :=
  inNone l || (s.homePkg pkg != s.pkg && inHostWindow l)

/-- A malformed upper entry at level `n` (R278). -/
def State.malformed (s : State) (e n : Nat) : Bool :=
  let pkg := natBits e 52 12
  let own := pkg == 0xFFF || pkg == s.pkg
  let leaf := natBits e 7 1 == 1
  let frame := natBits e 16 30
  let l := frame * 4096
  natBits e 46 6 != 0 || natBits e 14 2 != 0 ||
  (1152 ≤ pkg && pkg < 0xFFF) ||
  (if leaf then
    3 ≤ n || frame % 2 ^ (9 * n) != 0 || s.badFrame pkg l ||
    (natBits e 13 1 == 1 && (!own || !s.hasPartner))
   else natBits e 1 6 != 0 || natBits e 8 6 != 0 || (2 ≤ n && !own) || !inMemory l)

/-- A malformed leaf entry (R279). -/
def State.malformedLeaf (s : State) (e pkg : Nat) : Bool :=
  let frame := natBits e 16 40
  natBits e 14 2 != 0 || natBits frame 30 10 != 0 ||
  (natBits e 7 1 == 1 && frame % 16 != 0) ||
  s.badFrame pkg (frame * 4096) ||
  (natBits e 13 1 == 1 && (s.homePkg pkg != s.pkg || !s.hasPartner))

/-- Entry `i` of a leaf line (R279). -/
def leafEntry (line i : Nat) : Nat := natBits line (56 * i) 56

/-- Whether the summary word agrees with the line, and its spacing (R281). -/
def State.agrees (s : State) (line pkg : Nat) : Option Int :=
  let sum := natBits line 448 64
  let attr := natBits sum 32 14
  let spacing := sext sum 32
  let f0 : Int := (natBits (leafEntry line 0) 16 40 : Nat)
  let good := (upFrom 0 8).all fun i =>
    let e := leafEntry line i
    (e % 2 ^ 16 - (e % 128 / 32) * 32 == attr) && ((natBits e 16 40 : Nat) == f0 + i * spacing) && !s.malformedLeaf e pkg
  if natBits sum 63 1 == 1 && natBits sum 46 17 == 0 && natBits attr 0 1 == 1 && natBits attr 7 1 == 0 && good
  then some spacing else none

/-- The page offset width of a held translation's page for an address. -/
def TlbEntry.page (t : TlbEntry) (va : Word) : Nat := if t.stride.isSome then field va 12 3 else 0

/-- The physical key of an address under a translation (R278, R281). -/
def TlbEntry.phys (t : TlbEntry) (va : Word) : Nat :=
  match t.stride with
  | none => t.pkg * 2 ^ 42 + t.frame * 4096 + va.toNat % 2 ^ t.lg
  | some sp => t.pkg * 2 ^ 42 + ((t.frame : Int) + (t.page va : Nat) * sp).toNat * 4096 + va.toNat % 4096

/-- Whether a held translation covers an address (R284). -/
def TlbEntry.hits (t : TlbEntry) (asid : BitVec 16) (va : Word) : Bool :=
  t.asid == asid && t.vbase == va.toNat / 2 ^ t.lg * 2 ^ t.lg

/-- Table address of the byte that holds A and D of the page an address lies in (R279, R282). -/
def TlbEntry.adByte (t : TlbEntry) (va : Word) : Nat := t.entryAddr + (if t.stride.isSome then 7 * t.page va else 0)

/-- Counts in `WALKCNT` of a die (R276). -/
def State.countDisagree (s : State) (die : Nat) : State := s.setDie die fun d => { d with walkDisagree := d.walkDisagree + 1 }

/-- Counts in `WALKCNT` of a die (R276). -/
def State.countStride (s : State) (die : Nat) : State := s.setDie die fun d => { d with walkStride := d.walkStride + 1 }

/-- The upper levels of the walk (R278), from level `n` down: a block translation, or the leaf table and its package. -/
def walkUpper (c : Ctx) (va : Word) (kind : Kind) (lg : Nat) : Nat → Nat → M (TlbEntry ⊕ (Nat × Nat))
  | 0, t => return .inr (t, 0xFFF)
  | n + 1, t => do
    let lvl := n + 1
    if !inMemory t then raise Cause.page va (accessInfo kind lg 5)
    let e ← readTable c.die va kind lg (t + 8 * field va (12 + 9 * lvl) 9) 8
    if natBits e 0 1 = 0 then raise Cause.page va (accessInfo kind lg 0)
    if (← get).malformed e lvl then raise Cause.page va (accessInfo kind lg 5)
    if natBits e 7 1 = 1 then
      let w := 12 + 9 * lvl
      return .inl ⟨c.asid, va.toNat / 2 ^ w * 2 ^ w, w, natBits e 16 30, e % 2 ^ 14, (← get).homePkg (natBits e 52 12), none,
        t + 8 * field va (12 + 9 * lvl) 9, BitVec.ofNat 8 (natBits e 6 1)⟩
    else if n = 0 then return .inr (natBits e 16 30 * 4096, natBits e 52 12)
    else walkUpper c va kind lg n (natBits e 16 30 * 4096)

/-- The walk (R278, R280, R281): the translation it would install, nothing installed yet. -/
def walk (c : Ctx) (va : Word) (kind : Kind) (lg : Nat) : M TlbEntry := do
  match ← walkUpper c va kind lg 4 (field c.ptroot 12 30 * 4096) with
  | .inl t => return t
  | .inr (leaf, pkg) =>
    let la := leaf + 64 * field va 15 6
    let line ← readTable c.die va kind lg la 64
    let s ← get
    let i := field va 12 3
    let e := leafEntry line i
    let agr := s.agrees line pkg
    if natBits line 511 1 = 1 && agr.isNone then set (s.countDisagree c.die)
    if natBits e 0 1 = 0 then raise Cause.page va (accessInfo kind lg 0)
    if s.malformedLeaf e pkg then raise Cause.page va (accessInfo kind lg 5)
    let home := s.homePkg pkg
    match agr with
    | some sp =>
      let d := (upFrom 0 8).foldl (fun a j => a + natBits (leafEntry line j) 6 1 * 2 ^ j) 0
      return ⟨c.asid, va.toNat / 2 ^ 15 * 2 ^ 15, 15, natBits (leafEntry line 0) 16 40, e % 2 ^ 14, home, some sp, la, BitVec.ofNat 8 d⟩
    | none =>
      let w := if natBits e 7 1 = 1 then 16 else 12
      return ⟨c.asid, va.toNat / 2 ^ w * 2 ^ w, w, natBits e 16 40, e % 2 ^ 14, home, none, la + 7 * i, BitVec.ofNat 8 (natBits e 6 1)⟩

/-- Permissions and layout (`finish` of R278). -/
def checkPerm (c : Ctx) (t : TlbEntry) (va : Word) (kind : Kind) (lg : Nat) : M Unit := do
  let bit (i : Nat) : Bool := natBits t.attrs i 1 == 1
  let ok := match kind with
    | .load => bit 1
    | .store => bit 2
    | .atomic => bit 1 && bit 2
    | .fetch => bit 3
  if !ok || (!c.priv && !bit 4) then raise Cause.page va (accessInfo kind lg 1)
  if 12 ≤ natBits t.attrs 8 4 then raise Cause.page va (accessInfo kind lg 3)

/-- ORs bits into a byte at its home. -/
def State.orAt (s : State) (k : Nat) (b : Byte) : State :=
  let (bs, _, t) := s.readAt k 1
  t.writeAt k [nth bs 0 0 ||| b] none

/-- ORs a bit into a table byte at its home (R282). -/
def State.orByte (s : State) (l : Nat) (b : Byte) : State := s.orAt (s.pkg * 2 ^ 42 + l) b

/-- Installs a translation: `A` is set in its entry, or in all eight of a stride entry (R281, R282). -/
def State.install (s : State) (c : Ctx) (t : TlbEntry) : State :=
  let s := match t.stride with
    | some _ => ((upFrom 0 8).foldl (fun s i => State.orByte s (t.entryAddr + 7 * i) 0x20) s).countStride c.die
    | none => s.orByte t.entryAddr 0x20
  match c.tlb with
  | some k => s.setCore k fun x => { x with tlb := x.tlb ++ [{ t with attrs := t.attrs ||| 32 }] }
  | none => s

/-- Sets `D` before the first store, atomic or `VSREL` element through a translation (R282). -/
def State.markDirty (s : State) (c : Ctx) (t : TlbEntry) (va : Word) : State :=
  if natBits t.dirty.toNat (t.page va) 1 = 1 then s
  else
    let s := s.orByte (t.adByte va) 0x40
    let bit : BitVec 8 := BitVec.ofNat 8 (2 ^ t.page va)
    match c.tlb with
    | some k => s.setCore k fun x =>
      { x with tlb := x.tlb.map fun y => if y.asid = t.asid ∧ y.vbase = t.vbase ∧ y.lg = t.lg then { y with dirty := y.dirty ||| bit } else y }
    | none => s

/-- The translation a core holds for an address. -/
def State.held (s : State) (c : Ctx) (va : Word) : Option TlbEntry :=
  match c.tlb with
  | some k => (s.core k).tlb.find? (·.hits c.asid va)
  | none => none

/-- A window address (R217, R220). -/
def translateWindow (c : Ctx) (va : Word) (kind : Kind) (lg : Nat) : M Xlat :=
  if !c.window || 48 ≤ windowCore va then raise Cause.page va (accessInfo kind lg 2)
  else if !c.priv && !inPartition c.sppart (windowCore va) (windowOff va) then raise Cause.page va (accessInfo kind lg 1)
  else return ⟨spadKey c.die c.clu (windowCore va) (windowOff va), 0, false, false, true⟩

/-- Where an access lands, with the translation that page tables gave it (R88, R217, R276, R278); no `D` is set. -/
def resolve (c : Ctx) (va : Word) (kind : Kind) (lg : Nat) : M (Xlat × Option TlbEntry) := do
  if inWindow va then return (← translateWindow c va kind lg, none)
  else if !canonical va then raise Cause.page va (accessInfo kind lg 2)
  else if c.dm && field c.ptroot 12 30 == 0 then
    if va.toNat < 2 ^ 42 then
      if inNone va.toNat then raise Cause.page va (accessInfo kind lg 5)
      else return (⟨(← get).pkg * 2 ^ 42 + va.toNat, 0, false, false, false⟩, none)
    else raise Cause.page va (accessInfo kind lg 0)
  else
    let s ← get
    let t ← match s.held c va with
      | some t => do checkPerm c t va kind lg; pure t
      | none => do
        let t ← walk c va kind lg
        checkPerm c t va kind lg
        modify (·.install c t)
        pure t
    return (⟨t.phys va, natBits t.attrs 8 4, natBits t.attrs 12 1 == 1, natBits t.attrs 13 1 == 1, false⟩, some t)

/-- Sets `D` for a store through a translation, if a page table gave it (R282). -/
def dirtyM (c : Ctx) (va : Word) : Option TlbEntry → M Unit
  | some t => modify (·.markDirty c t va)
  | none => return ()

/-- Translation of an access (R88, R282). `dirty` says whether the access itself is about to be performed; a probe of the
vector memory unit sets no `D` before its checks have passed. -/
def translate (c : Ctx) (va : Word) (kind : Kind) (lg : Nat) (dirty : Bool := true) : M Xlat := do
  let (x, t) ← resolve c va kind lg
  if dirty && (kind == .store || kind == .atomic) then dirtyM c va t
  return x

/-- Reads bytes of one access at its home: LINK where the home does not answer (R144, R355). -/
def loadAt (c : Ctx) (va : Word) (x : Xlat) (n : Nat) : M (List Byte × Nat) := do
  if !(← get).reachable c.die x.key then throw (.link va)
  let (bs, sev, s) := (← get).readAt x.key n
  set s
  return (bs, sev)

/-- The mirror partner's key of a physical key (R349). -/
def State.partnerKey (s : State) (k : Nat) : Nat := (s.pkg ^^^ 1) * 2 ^ 42 + k % 2 ^ 42

/-- Writes bytes of one access at its home, and at the partner for a mirrored page (R303, R349). -/
def storeAt (c : Ctx) (va : Word) (x : Xlat) (bs : List Byte) (poison : Bool := false) : M Unit := do
  let s ← get
  if !s.reachable c.die x.key || (x.mir && s.unreachable.contains (s.pkg ^^^ 1)) then throw (.link va)
  let s := s.writeAt x.key bs (some x.nl) poison
  set (if x.mir then s.writeAt (s.partnerKey x.key) bs (some x.nl) poison else s)

/-- Writes parts of one line in one access, as `storeAt` writes bytes. -/
def storeLineAt (c : Ctx) (va : Word) (x : Xlat) (line : Nat) (parts : List (Nat × List Byte)) (poison : Bool) : M Unit := do
  let s ← get
  if !s.reachable c.die x.key || (x.mir && s.unreachable.contains (s.pkg ^^^ 1)) then throw (.link va)
  let s := s.writeParts line parts (some x.nl) poison
  set (if x.mir then s.writeParts (s.partnerKey (line * 64) / 64) parts (some x.nl) poison else s)

end Sys2Proof.Machine
end

