-- ==== Sys2Proof/Machine/Gang.lean ====
section
/-! DEFINITION. Harts by place, events, the lane partition, the gang barrier slot, the ballot's decision and felling, and
how a gang leaves (R34, R178, R214, R225, R271, R316 to R322). -/

namespace Sys2Proof.Machine

/-- The core a hart stands on. -/
def coreOf (k : HartKey) : CoreKey := ⟨k.dm, k.die, k.clu, k.core⟩

/-- A hart running at a place; stopped and ended harts aside. -/
def Hart.at (h : Hart) (k : HartKey) : Bool := h.key == k && h.run == .running

/-- The hart at a place. -/
def State.hartAt (s : State) (k : HartKey) : Option Hart := if s.h.at k then some s.h else s.others.find? (·.at k)

/-- Changes every hart that meets a condition. -/
def State.mapHarts (s : State) (p : Hart → Bool) (f : Hart → Hart) : State :=
  { s with h := if p s.h then f s.h else s.h, others := s.others.map fun h => if p h then f h else h }

/-- Changes the hart at a place. -/
def State.setHart (s : State) (k : HartKey) (f : Hart → Hart) : State :=
  s.mapHarts (·.at k) f

/-- Makes the hart at a place the current one; nothing where no hart runs there. -/
def State.focus (s : State) (k : HartKey) : State :=
  if s.h.at k then s
  else match s.others.find? (·.at k) with
    | some x => { s with h := x, others := s.others.map fun y => if y.uid == x.uid then s.h else y }
    | none => s

/-- Makes the hart of a name the current one again. -/
def State.focusUid (s : State) (u : Nat) : State :=
  if s.h.uid == u then s
  else match s.others.find? (·.uid == u) with
    | some x => { s with h := x, others := s.others.map fun y => if y.uid == u then s.h else y }
    | none => s

/-- A change made from the place of a hart, whose turn it is only for this; nothing where no hart runs there. -/
def State.onHart (s : State) (k : HartKey) (f : State → State) : State :=
  if (s.hartAt k).isSome then (f (s.focus k)).focusUid s.h.uid else s

/-- All harts. -/
def State.harts (s : State) : List Hart := s.h :: s.others

/-- The gang of a number. -/
def State.gangOf (s : State) (g : Nat) : Option Gang := s.gangs.find? (·.id == g)

/-- The gang of the current hart. -/
def State.myGang (s : State) : Option Gang := s.h.gang.bind s.gangOf

/-- Changes a gang. -/
def State.setGang (s : State) (g : Nat) (f : Gang → Gang) : State :=
  { s with gangs := s.gangs.map fun x => if x.id == g then f x else x }

/-- The launch of a number. -/
def State.launchOf (s : State) (l : Nat) : Option Launch := s.launches.find? (·.id == l)

/-- Changes a launch. -/
def State.setLaunch (s : State) (l : Nat) (f : Launch → Launch) : State :=
  { s with launches := s.launches.map fun x => if x.id == l then f x else x }

/-- The harts of a gang. -/
def State.members (s : State) (g : Nat) : List Hart := s.harts.filter fun h => h.gang == some g

/-- A cluster's state. -/
def State.cluster (s : State) (die clu : Nat) : ClusterSt := assoc s.clusters (die, clu) ClusterSt.reset

/-- Changes a cluster's state. -/
def State.setCluster (s : State) (die clu : Nat) (f : ClusterSt → ClusterSt) : State :=
  { s with clusters := assocSet s.clusters (die, clu) (f (s.cluster die clu)) }

/-- A flue's state. -/
def State.flue (s : State) (k : FlueKey) : FlueSt := assoc s.flues k FlueSt.reset

/-- Changes a flue's state. -/
def State.setFlue (s : State) (k : FlueKey) (f : FlueSt → FlueSt) : State :=
  { s with flues := assocSet s.flues k (f (s.flue k)) }

/-- The flue a core stands in (R231). -/
def flueOf (k : CoreKey) : FlueKey := ⟨k.die, k.clu, k.core / 4⟩

/-- Events of R34. -/
inductive Event where
  | damper | fell | wake | timer | prenot
deriving DecidableEq, Repr

/-- The bit of an event. -/
def Event.bit : Event → BitVec 5
  | .damper => 1
  | .fell => 2
  | .wake => 4
  | .timer => 8
  | .prenot => 16

/-- Sets an event bit of a hart. -/
def Hart.setEvent (h : Hart) (e : Event) : Hart := { h with event := h.event ||| e.bit }

/-- The hart identifier word (R31). -/
def hartidWord (pkg : Nat) (k : HartKey) : Word :=
  BitVec.ofNat 64 (pkg * 2 ^ 16 + k.die * 2 ^ 12 + k.clu * 2 ^ 8 + k.core * 4 + k.slot)

/-- A hart that runs no more: nothing of its queue, front end or accesses is left. -/
def Hart.off (h : Hart) (r : RunState) : Hart :=
  { h with run := r, wait := .none, viq := [], front := none, late := [], lost := [], ready := [] }

/-! ### The lane partition (R178, R214) -/

/-- Nibble `k` of a half of `LPR`. -/
def nibble (w : BitVec 32) (k : Nat) : Nat := natBits w.toNat (4 * k) 4

/-- Sets nibble `k` of a half of `LPR`. -/
def setNibble (w : BitVec 32) (k v : Nat) : BitVec 32 :=
  (w &&& ~~~BitVec.ofNat 32 (15 <<< (4 * k))) ||| BitVec.ofNat 32 ((v % 16) <<< (4 * k))

/-- Lane groups that a half of `LPR` gives a hart slot. -/
def groupsOf (w : BitVec 32) (slot : Nat) : List Nat :=
  (upFrom 0 8).filter fun k => nibble w k % 4 == slot && 8 ≤ nibble w k

/-- Lane groups a hart owns: none on a die manager core, whose `LPR` is never written by a placement (log 16). -/
def State.groups (s : State) (k : HartKey) : List Nat := groupsOf (s.core (coreOf k)).lprCur k.slot

/-- Every lane group of a hart becomes unassigned in `LPR.CUR`; `NEXT` keeps its nibbles (R214). -/
def State.freeGroups (s : State) (k : HartKey) : State :=
  s.setCore (coreOf k) fun c => { c with lprCur := (groupsOf c.lprCur k.slot).foldl (fun w g => setNibble w g 0) c.lprCur }

/-! ### The gang barrier slot (R225, R226) -/

/-- All members of a gang as a bitmap. -/
def allMembers (n : Nat) : BitVec 16 := BitVec.ofNat 16 (2 ^ n - 1)

/-- Completes the generation once everyone arrived or ended. -/
def Gang.release (g : Gang) (n : Nat) : Gang :=
  if g.arr ≠ 0 ∧ g.arr ||| g.endedMap = allMembers n then { g with last := g.sum, sum := 0, arr := 0, gen := g.gen + 1 } else g

/-! ### The ballot (R316 to R320) -/

/-- The hash that rule 2 of R319 would choose: the most posts, and of equals the earliest first post. -/
def leading : List (Word × Nat × Nat) → Option (Word × Nat × Nat)
  | [] => none
  | p :: t => match leading t with
    | none => some p
    | some q => if q.2.1 ≤ p.2.1 then some p else some q

/-- Members that have posted or left. -/
def Grove.doneCount (g : Grove) : Nat := (g.members.filter fun m => m.posted.isSome || m.left).length

/-- Indices of members that meet a condition. -/
def Grove.indices (g : Grove) (p : Member → Bool) : List Nat :=
  (upFrom 0 g.members.length).filter fun i => match g.members[i]? with | some m => p m | none => false

/-- Decides the winner where a rule of R319 applies, and fixes the felled set (R320). -/
def Grove.decide (g : Grove) : Grove :=
  if g.winner.isSome || g.noAnswer then g
  else
    let win (p : Word × Nat × Nat) (how : Nat) : Grove :=
      { g with winner := some (p.1, p.2.1, p.2.2, how), felled := g.indices fun m => !m.gone && !m.left && m.posted != some p.1 }
    match g.posts.find? (fun p => g.quorum ≤ p.2.1) with
    | some p => win p 1
    | none =>
      if g.doneCount = g.n then
        match leading g.posts with
        | some p => win p 2
        | none => { g with noAnswer := true }
      else g

/-- Changes a member. -/
def Grove.setMember (g : Grove) (i : Nat) (f : Member → Member) : Grove :=
  match g.members[i]? with
  | some m => { g with members := setNth g.members i (f m) }
  | none => g

/-- A member's gang has left the launch: without a post, and not by felling, it has left the grove (R318). -/
def Grove.markGone (g : Grove) (i : Nat) (how : Leave) : Grove :=
  g.setMember i fun m => { m with gone := true, felled := m.felled || how == .felled, left := m.left || (m.posted.isNone && how != .felled) }

/-- Counts a post (R319): the grove after it and whether it was counted. -/
def Grove.post (g : Grove) (i : Nat) (hash : Word) : Grove :=
  let bump : List (Word × Nat × Nat) → List (Word × Nat × Nat)
    := fun ps => if ps.any (·.1 == hash) then ps.map fun p => if p.1 == hash then (p.1, p.2.1 + 1, p.2.2) else p
                 else ps ++ [(hash, 1, i)]
  ({ g with posts := bump g.posts, tot := g.tot + 1 }.setMember i fun m => { m with posted := some hash }).decide

/-- The grove of a slot at this package's ballot unit. -/
def State.groveAt (s : State) (slot : Nat) : Option Grove := s.groves.find? (·.slot == slot)

/-- Changes a grove. -/
def State.setGrove (s : State) (slot : Nat) (f : Grove → Grove) : State :=
  { s with groves := s.groves.map fun g => if g.slot == slot then f g else g }

/-! ### Leaving (R271) -/

/-- Frees the named counters a launch holds on a cluster once no gang of it is left there (R227). -/
def State.freeCounters (s : State) (launch die clu : Nat) : State :=
  if s.gangs.any fun g => g.launch == launch && g.die == die && g.clu == clu then s
  else s.setCluster die clu fun c => { c with counters := c.counters.map fun x => if x.owner == some launch then ⟨0, 0, 0, none⟩ else x }

/-- A gang leaves: its harts end, its lane groups, tag entries, partition, barrier slot and counters are freed, and its
launch counts it. Dispatch accounts of a felled gang go to the grove's record (R326). -/
def State.dropGang (s : State) (gid : Nat) (how : Leave) : State :=
  match s.gangOf gid with
  | none => s
  | some g =>
    let s1 : State := (s.members gid).foldl (fun s h => if h.run = .running then s.freeGroups h.key else s) s
    let s2 : State := s1.mapHarts (fun h => h.gang == some gid) fun h => { h.off .ended with gang := none }
    let s3 : State := { s2 with
      cores := s2.cores.map fun p => (p.1, { p.2 with tags := p.2.tags.filter (·.gang != gid) })
      gangs := s2.gangs.filter (·.id != gid) }
    let s4 : State := (s3.freeCounters g.launch g.die g.clu).setLaunch g.launch fun l => { l with left := l.left ++ [(g.idx, how)] }
    match how, g.grove, s4.accounts.find? (·.gang == gid) with
    | .felled, some (hp, slot, _), some a =>
      if hp = s4.pkg then
        s4.setGrove slot fun r => { r with units := r.units + a.units, lcyc := r.lcyc + a.lcyc, charge := r.charge + a.charge }
      else s4
    | _, _, _ => s4

/-- A member's gang has left its launch: its grove's home learns it (R318, R354). Of a grove homed elsewhere, this package keeps that
the lists the gang registered may return (R323). -/
def State.memberGone (s : State) (gid : Nat) (place : Nat × Nat × Nat) (how : Leave) (f : State → Nat → (Grove → Grove) → State) : State :=
  if place.1 = s.pkg then f s place.2.1 (·.markGone place.2.2 how)
  else { s with remoteLists := s.remoteLists.map fun r => if r.gang == gid then { r with felled := r.felled || how == .felled } else r }

/-- Felling of R320, R321: `EVENT.FELL` on resident harts, stopped gangs dropped at once, unplaced gangs never placed. -/
def State.applyFelling (s : State) (hpkg slot : Nat) (felled : List Nat) : State :=
  let hit (x : Option (Nat × Nat × Nat)) : Bool := match x with
    | some (hp, sl, i) => hp == hpkg && sl == slot && felled.contains i
    | none => false
  let s1 : State := s.mapHarts (fun h => h.run == .running && (match h.gang with
      | some g => (match s.gangOf g with | some g => g.resident && hit g.grove | none => false)
      | none => false)) (·.setEvent .fell)
  let s2 : State := { s1 with gangs := s1.gangs.map fun g => if g.resident && hit g.grove then { g with felled := true } else g }
  let stopped := s2.gangs.filter fun g => !g.resident && hit g.grove
  let s3 : State := stopped.foldl (fun s g => match g.grove with
      | some p => (s.dropGang g.id .felled).memberGone g.id p .felled State.setGrove
      | none => s) s2
  let unplaced (l : Launch) : List Nat := match l.grove with
    | some (hp, sl, first) =>
      if hp = hpkg ∧ sl = slot then
        (upFrom l.next (natBits l.record.ctl.toNat 0 16 - l.next)).filter fun g => felled.contains (first + g)
      else []
    | none => []
  let s4 : State := { s3 with launches := s3.launches.map fun l => { l with left := l.left ++ (unplaced l).map fun g => (g, Leave.felled) } }
  (s3.launches.flatMap fun l => match l.grove with
    | some (_, _, first) => (unplaced l).map (first + ·)
    | none => []).foldl (fun s i => if hpkg = s.pkg then s.setGrove slot (·.markGone i .felled) else s) s4

/-- A change at this package's ballot unit, with the decision it completes and its felling. -/
def State.ballot (s : State) (slot : Nat) (f : Grove → Grove) : State :=
  match s.groveAt slot with
  | none => s
  | some g =>
    let g' := (f g).decide
    let s1 : State := s.setGrove slot fun _ => g'
    if g.winner.isNone && g'.winner.isSome then s1.applyFelling s.pkg slot g'.felled else s1

/-- How a gang leaves that would leave by `how`: killed where it stood across a dead link (R274), else felled where one of its harts
ended by felling (R322); a way already fixed comes before its own (R330). -/
def Gang.outcome (g : Gang) (how : Leave) : Leave :=
  if g.leave == some .killed then .killed else if g.anyFelled then .felled else g.leave.getD how

/-- A gang leaves its launch (R271), and its grove (R318). -/
def State.leaveGang (s : State) (gid : Nat) (how : Leave) : State :=
  match s.gangOf gid with
  | none => s
  | some g =>
    let how := g.outcome how
    let s1 : State := s.dropGang gid how
    match g.grove with
    | some p => s1.memberGone gid p how State.ballot
    | none => s1

/-- A gang is stopped once it was asked to stop and no hart of it runs (R267). One that is felled, or whose leaving is fixed, is
never restored: it leaves (R321, R327, R330). -/
def State.settleStop (s : State) (gid : Nat) : State :=
  if (s.members gid).any (·.run == .running) then s
  else match s.gangOf gid with
    | none => s
    | some g =>
      if g.felled || g.leave.isSome then s.leaveGang gid .felled
      else s.setGang gid fun g => if g.preempt then { g with resident := false, preempt := false, woken := false } else g

/-- A hart ends by `END`, or by felling: its groups are free, it counts as arrived, and the last one takes the gang out. -/
def State.endHart (s : State) (k : HartKey) (felled : Bool) : State :=
  match s.hartAt k with
  | none => s
  | some h =>
    let s1 : State := (s.freeGroups k).setHart k fun h => { h.off .ended with tokens := Vector.replicate 6 0, pend := [] }
    match h.gang with
    | none => s1
    | some gid =>
      let s2 : State := s1.setGang gid fun g =>
        { g with endedMap := g.endedMap ||| BitVec.ofNat 16 (2 ^ h.member), anyFelled := g.anyFelled || felled }.release h.gangSize
      match s2.gangOf gid with
      | some g => if g.endedMap = allMembers h.gangSize then s2.leaveGang gid .ended else s2.settleStop gid
      | none => s2

/-- A report to the die manager mailbox (R108, R172, R339), held until the mailbox writes it. -/
def State.report (s : State) (k : HartKey) (code cause : Nat) (word1 : Word) : State :=
  s.setDie k.die fun d => { d with reports := d.reports ++
    [⟨2, BitVec.ofNat 32 (hartidWord s.pkg k).toNat, 0, 0, BitVec.ofNat 64 (code + cause * 256), word1, true, none, true⟩] }

/-- A gang ends at once: every member stops (R230); a hart of no gang stops until the next module reset. -/
def State.stopGang (s : State) (h : Hart) (how : Leave) : State :=
  match h.gang with
  | some g => s.leaveGang g how
  | none => (s.freeGroups h.key).setHart h.key (·.off .ended)

end Sys2Proof.Machine
end

