-- ==== Sys2Proof/Machine/Ops.lean ====
section
/-! DEFINITION. The named operations of a step: registers, taking a trap and returning from one, scalar accesses and
atomics, and the exception list. -/

namespace Sys2Proof.Machine

/-- The outcome of an instruction of this machine. -/
abbrev Out := Host.Outcome State Fault Refusal

/-! ### Scalar registers (R11) -/

/-- A scalar register; `s0` reads zero. -/
def Hart.rd (h : Hart) (r : Reg) : Word := if r = 0 then 0 else h.x[r.toNat]'(r.isLt)

/-- Writes a scalar register; a write to `s0` is discarded. -/
def Hart.wr (h : Hart) (r : Reg) (v : Word) : Hart := if r = 0 then h else { h with x := h.x.set r.toNat v r.isLt }

/-- A scalar register of the current hart. -/
def State.rd (s : State) (r : Reg) : Word := s.h.rd r

/-- Writes a scalar register of the current hart. -/
def State.wr (s : State) (r : Reg) (v : Word) : State := { s with h := s.h.wr r v }

/-- Goes on at the instruction `n` bytes further. -/
def State.adv (s : State) (n : Word) : State := { s with h := { s.h with pc := s.h.pc + n } }

/-- Goes on at an address. -/
def State.goto (s : State) (a : Word) : State := { s with h := { s.h with pc := a } }

/-- Sets sticky flags (R32). -/
def State.flag (s : State) (f : Flags) : State := { s with h := { s.h with fflags := s.h.fflags ||| f } }

/-- The current hart's address context. -/
def Hart.ctx (h : Hart) : Ctx := ⟨h.key.die, h.key.clu, h.key.dm, h.ptroot, h.asid, h.priv, h.sppart, !h.key.dm, some (coreOf h.key)⟩

/-- `VCFG` fields (R30). -/
def Hart.sew (h : Hart) : Nat := 8 * 2 ^ field h.vcfg 0 2

/-- Grouping (R30). -/
def Hart.grp (h : Hart) : Nat := 2 ^ field h.vcfg 3 2

/-- Integer divide by zero traps (R30). -/
def Hart.dzt (h : Hart) : Bool := field h.vcfg 9 1 == 1

/-- Rounding and flushing (R50, R51). -/
def Hart.rctx (h : Hart) : RCtx := ⟨rmodeOf (field h.vcfg 7 2), field h.vcfg 5 2⟩

/-- The token FIFO that an instruction of the queue takes from as it dispatches (R156, R187). -/
def VOp.fifo : VOp → Option Nat
  | .mem _ _ _ _ _ _ tok _ => if tok.getLsbD 0 then some 1 else none
  | .tkwait f => some f.toNat
  | _ => none

/-- The token counts once the queue is discarded: those its entries took are back (R156, R165). -/
def Hart.returned (h : Hart) : Vector Nat 6 :=
  (h.viq.filter (·.took)).foldl (fun ts e => match e.op.fifo with
    | some f => ts.setIfInBounds f ((ts[f]?).getD 0 + 1)
    | none => ts) h.tokens

/-- The queue and what the front end ran ahead are discarded (R169). -/
def Hart.flushed (h : Hart) : Hart := { h with tokens := h.returned, viq := [], front := none }

/-! ### Traps (R107 to R109) -/

/-- Trap entry, in the order of R107. `ret` is the return address. -/
def State.enterTrap (s : State) (cause : Nat) (tval tinfo ret : Word) : State :=
  { s with h := { s.h.flushed with
      tpc := ret &&& ~~~1
      tcause := BitVec.ofNat 8 cause
      tval := tval
      tinfo := tinfo
      tsave := s.h.vcfg
      pprv := s.h.priv
      ih := true
      priv := true
      pc := s.h.tvec &&& ~~~3
      wait := .none } }

/-- A double trap: the hart stops, its gang ends as failed, and the mailbox receives a report (R108). -/
def State.doubleTrap (s : State) (cause : Nat) : State :=
  (s.report s.h.key 1 cause s.h.tpc).stopGang s.h (.failed 4)

/-- Takes a synchronous trap: entry, or the double trap where the trap state is unsaved (R107, R108). -/
def State.takeTrap (s : State) (cause : Nat) (tval tinfo ret : Word) : State :=
  if s.h.ih then s.doubleTrap cause else s.enterTrap cause tval tinfo ret

/-- LINK kills the gang; no handler runs (R172). -/
def State.linkKill (s : State) (va : Word) : State := (s.report s.h.key 2 0x0E va).stopGang s.h .killed

/-- Whether a hart's grove is a linked one; the members of any other stand on this package (R313, R354). -/
def State.linked (s : State) (h : Hart) : Bool := match (h.gang.bind s.gangOf).bind fun g => s.launchOf g.launch with
  | some l => natBits l.glink 63 1 == 1
  | none => false

/-- Whether a package holds a member of a hart's grove; its own package where it has none (R155). -/
def State.groveOn (s : State) (h : Hart) (pkg : Nat) : Bool :=
  pkg == s.pkg || (field h.grove 7 1 == 1 && s.linked h &&
    (pkg == field h.grove 48 11 || Config.groveHolds pkg (field h.grove 48 11) (field h.grove 32 8)))

/-- Whether a release or fence at a scope waits for an acknowledgement from another package (R348). -/
def State.waitsFor (s : State) (scope pkg : Nat) : Bool :=
  match scope with
  | 6 => pkg / 64 == s.pkg / 64
  | 7 => true
  | 8 => true
  | 9 => true
  | 10 => s.groveOn s.h pkg
  | _ => false

/-- A store among those that an instruction waits for at a scope, of the hart's scalar stream, its vector stream or both, whose
acknowledgement is lost (R355). -/
def State.lostFor (s : State) (scope : Nat) (scalar vector : Bool) : Option Unacked :=
  s.h.lost.find? fun u => (if u.vector then vector else scalar) && s.waitsFor scope u.pkg

/-- An instruction that waits for acknowledgements: LINK where one that it waits for is lost (R355). -/
def State.acked (s : State) (scope : Nat) (scalar vector : Bool) (o : Out) : Out :=
  match s.lostFor scope scalar vector with
  | some u => .next (s.linkKill u.va)
  | none => o

/-- A trap of the instruction at the program counter. -/
def State.trapHere (s : State) (cause : Nat) (tval tinfo : Word) : State := s.takeTrap cause tval tinfo s.h.pc

/-- Return from a trap (R109). All code on the die manager core runs privileged (R5). -/
def State.trapReturn (s : State) : State :=
  { s with h := { s.h with pc := s.h.tpc, vcfg := s.h.tsave, priv := s.h.pprv || s.h.key.dm, ih := false } }

/-- The event trap of R34: `TCAUSE` 0x06 with the pending bits, at the boundary before the next instruction. DEDUCED (log 71):
the pending bits are those set in both `EVENT` and `EVMASK`. -/
def State.eventTrap (s : State) : State :=
  s.enterTrap Cause.evt 0 ((s.h.event &&& s.h.evmask).setWidth 64) s.h.pc

/-- What a stop of an instruction does. -/
def State.stopWith (s : State) : Stop → State
  | .trap c v i => s.trapHere c v i
  | .link va => s.linkKill va
  | .reread _ => s

/-- Runs an instruction that may stop. -/
def State.run (s : State) (m : M Unit) : Out :=
  match m.on s with
  | (.ok _, t) => .next t
  | (.error e, t) => .next (t.stopWith e)

/-- ILLOP with the encoding in `TVAL` (R70). -/
def State.illop (s : State) (enc : Word) : Out := .next (s.trapHere Cause.illop enc 0)

/-- MODE with the encoding in `TVAL` (R70). -/
def State.modeTrap (s : State) (enc : Word) : Out := .next (s.trapHere Cause.mode enc 0)

/-- PRIV with the encoding in `TVAL` (R70). -/
def State.privTrap (s : State) (enc : Word) : Out := .next (s.trapHere Cause.priv enc 0)

/-- OPND with the operand and the field that holds it (R105). -/
def State.opnd (s : State) (v : Word) (fieldNo : Word) : Out := .next (s.trapHere Cause.opnd v fieldNo)

/-- A waiting instruction: the hart stays at it (R100). -/
def State.waitAt (s : State) (w : Wait) : Out := .next { s with h := { s.h with wait := w } }

/-- A waiting instruction that went through: nothing is waited for, execution goes on after it. -/
def State.passWait (s : State) : State := { s with h := { s.h with wait := .none, pc := s.h.pc + 4 } }

/-! ### Scalar accesses (R88, R89, R162) -/

/-- Sets SEV1 of `FFLAGS` where a read was delivered bounded (R89). -/
def sevFlag (sev : Nat) : M Unit := modify fun s => if sev = 1 then s.flag Fl.sev1 else s

/-- A read of one aligned access: the line is read again once if poisoned, then SEV2 (R89). -/
def readScalar (kind : Kind) (va : Word) (lg : Nat) (x : Xlat) : M Nat := do
  let c := (← get).h.ctx
  let (bs, sev) ← loadAt c va x (2 ^ lg)
  let (bs, sev) ← if sev = 2 then loadAt c va x (2 ^ lg) else pure (bs, sev)
  if sev = 2 then raise Cause.sev2 va (accessInfo kind lg 0)
  sevFlag sev
  return ofBytes bs

/-- Alignment, form, translation and permission of one scalar access, in the order of R88. -/
def scalarXlat (kind : Kind) (va : Word) (lg : Nat) : M Xlat := do
  if va.toNat % 2 ^ lg ≠ 0 then raise Cause.align va (accessInfo kind lg 0)
  translate (← get).h.ctx va kind lg

/-- A scalar load of 2^lg bytes. -/
def loadScalar (va : Word) (lg : Nat) : M Nat := do
  let x ← scalarXlat .load va lg
  readScalar .load va lg x

/-- A scalar store of 2^lg bytes. -/
def storeScalar (va : Word) (lg : Nat) (v : Nat) : M Unit := do
  let x ← scalarXlat .store va lg
  storeAt (← get).h.ctx va x (toBytes (2 ^ lg) v)

/-- An atomic at the home of its address (R90, R91): the old value; `f` gives the new one, or none where nothing is written.
DEDUCED (log 71): a line that reads SEV1 sets `FFLAGS.SEV1` and gives its bounded bits as the old value, as it does for a load. -/
def atomicScalar (va : Word) (lg : Nat) (f : Nat → Option Nat) : M Nat := do
  let x ← scalarXlat .atomic va lg
  let old ← readScalar .atomic va lg x
  match f old with
  | some y => storeAt (← get).h.ctx va x (toBytes (2 ^ lg) y)
  | none => pure ()
  return old

/-- Writes a scalar register within a computation. -/
def wrM (d : Reg) (v : Word) : M Unit := modify (·.wr d v)

/-- Goes on after an instruction of `n` bytes within a computation. -/
def advM (n : Word) : M Unit := modify (·.adv n)

/-! ### The exception list (R33, R54, R55) -/

/-- Address of the next entry. -/
def Hart.xlAddr (h : Hart) : Word := (h.xlist &&& ~~~15) + 16 * h.xcount.setWidth 64

/-- The 16 bytes of an entry. -/
def xlEntry (pc : Word) (elem row src dst : Nat) : List Byte :=
  toBytes 8 pc.toNat ++ toBytes 4 elem ++ toBytes 1 row ++ toBytes 1 0 ++ toBytes 1 src ++ toBytes 1 dst

/-- Appends one entry, or stops with XLFULL or PAGE and writes nothing. -/
def appendEntry (elem row src dst : Nat) : M Unit := do
  let h := (← get).h
  let a := h.xlAddr
  if h.xlimit.toNat ≤ h.xcount.toNat then raise Cause.xlfull a 0
  let x ← translate h.ctx a .store 4
  storeAt h.ctx a x (xlEntry h.pc elem row src dst)
  modify fun s => { s with h := { s.h with xcount := s.h.xcount + 1 } }

/-! ### Free values -/

/-- Takes the next free value's index (log 7). -/
def State.nextFree (s : State) : Nat × State := (s.freeCount, { s with freeCount := s.freeCount + 1 })

/-! ### Time -/

/-- `TIME` (R29): units of 10 ns, 17 core cycles each. -/
def State.time (s : State) : Word := s.time0 + BitVec.ofNat 64 (s.ticks / 17)

/-- TIMER is set while `TIME` is at or above `TIMECMP` (R34). -/
def State.timerCheck (s : State) : State :=
  s.mapHarts (fun h => h.run == .running && h.timecmp.toNat ≤ s.time.toNat) (·.setEvent .timer)

end Sys2Proof.Machine
end

