-- ==== Sys2Proof/Machine/Clock.lean ====
section
/-! DEFINITION. What the passing of core cycles does: time, the dispatch gate's lane cycle with its embers, the windows of the
flue controllers, the energy counter (R3, R29, R34, R183, R233 to R237, R242, R342). -/

namespace Sys2Proof.Machine

/-! ### A lane cycle (R183, R235) -/

/-- Lane cycles since module reset: two core cycles each (R3). -/
def State.laneNow (s : State) : Nat := s.ticks / 2

/-- Lane groups of a core that are not withdrawn: one whose `LGOFF` bit is set stays until its owner releases it (R180). -/
def CoreSt.present (c : CoreSt) : Nat :=
  ((upFrom 0 8).filter fun k => !c.lgoff.getLsbD k || 8 ≤ nibble c.lprCur k).length

/-- Ember ceiling of a core per lane cycle (R235). -/
def CoreSt.ceiling (c : CoreSt) : Nat := 6 * c.present

/-- Lanes of a core that dispatched work occupies in a lane cycle (R184, R235). -/
def State.busyLanes (s : State) (k : CoreKey) (cycle : Nat) : Nat :=
  (s.harts.map fun h => if h.run == .running && coreOf h.key == k && decide (cycle < h.laneFree) then 8 * (s.groups h.key).length else 0).sum

/-- Whether the lane clocks of a core run (R242, R254). -/
def State.lanesClocked (s : State) (k : CoreKey) : Bool :=
  let f := s.flue (flueOf k)
  !k.dm && f.railState == 0 && f.railTo.isNone && (s.cluster k.die k.clu).clock == .on

/-- Embers of a lane cycle, on the level that its dispatches left: at most three charge units for each idle lane (R183, R235). -/
def CoreSt.embers (c : CoreSt) (busy : Nat) (clocked : Bool) : CoreSt :=
  let e := min c.emberRate (3 * (8 * c.present - busy))
  if clocked && e != 0 && decide (c.level.toNat + 192 < c.gateCap.toNat) then
    { c with
      level := BitVec.ofNat 32 (min (c.level.toNat + e) (2 ^ 32 - 1))
      draw := c.draw + (e : Rat)
      drawEmber := c.drawEmber + e }
  else c

/-- The leak, with which a lane cycle begins (R183). -/
def CoreSt.leak (c : CoreSt) : CoreSt := { c with level := BitVec.ofNat 32 (c.level.toNat - c.gateLeak.toNat) }

/-- Changes every core that anything has touched. -/
def State.mapCores (s : State) (f : CoreKey → CoreSt → CoreSt) : State := { s with cores := s.cores.map fun p => (p.1, f p.1 p.2) }

/-! ### A window (R233 to R237) -/

/-- The cores of a flue by position (R231). -/
def flueCore (f : FlueKey) (c : Nat) : CoreKey := ⟨false, f.die, f.clu, 4 * f.flue + c⟩

/-- The deviation of a draw from the mean of four that sum to `sum` (R234). -/
def deviation (d sum : Rat) : Int :=
  if sum = 0 then 0
  else
    let q := (4 * d - sum) * 128 / sum
    max (-128 : Int) (min 127 (Int.tdiv q.num q.den))

/-- Whether a non-ember draw lies below the ember threshold (R235). -/
def isLow (n sum : Rat) (embt : Nat) : Bool := decide (n * 512 < sum * (128 - (embt : Rat)))

/-- The ember rate of a core for the next window (R235). -/
def emberPlan (n sum : Rat) (embt ceiling : Nat) : Nat :=
  if isLow n sum embt then min ceiling ((sum - 4 * n) / 256).ceil.toNat else 0

/-- The position of the smallest draw, the lowest of equals (R236). -/
def smallest : List Rat → Nat
  | [] => 0
  | [_] => 0
  | d :: t => let j := smallest t; if d ≤ nth t j 0 then 0 else j + 1

/-- `cap(w)` of R236. -/
def capOf (ds : List Rat) (es : List Nat) (dmpt : Nat) : Nat :=
  let j := smallest ds
  (max (nth ds j 0) (64 * ((nth es j 0 : Nat) : Rat)) * (128 + (dmpt : Rat)) / 128).floor.toNat

/-- The controller's registers after a window (R234 to R237): draws, non-ember draws, ember charges and ceilings of the four
positions. -/
def FlueSt.window (f : FlueSt) (ds ns : List Rat) (ms es : List Nat) : FlueSt :=
  let (dh, em, dm) := f.pending.getD (f.dhold, f.embt, f.dmpt)
  let sum := ds.sum
  let dev : Vector Int 4 := Vector.ofFn fun (i : Fin 4) => deviation (nth ds i.val 0) sum
  let worst := dev.toList.foldl (fun a d => max a d.natAbs) 0
  let low := ns.any fun n => isLow n sum em
  let good := if low || decide (dm < worst) then 0 else f.good + 1
  let base : FlueSt := { f with
    dev := dev, maxdev := max f.maxdev worst, dhold := dh, embt := em, dmpt := dm, pending := none
    emb := f.emb + BitVec.ofNat 64 ms.sum
    win := if f.damped then f.win + 1 else f.win }
  if f.damped then
    if good = dh then { base with damped := false, good := 0 } else { base with good := good, cap := capOf ds es dm }
  else if dm < worst then { base with damped := true, good := 0, engaged := base.engaged + 1, cap := capOf ds es dm }
  else base

/-- A core enters its next window (R233, R243). -/
def CoreSt.nextWindow (c : CoreSt) (ember : Nat) : CoreSt :=
  { c with
    history := (c.drawReal :: c.history).take 16
    draw := c.later.headD 0, drawReal := c.later.headD 0, drawEmber := 0, later := c.later.drop 1, emberRate := ember }

/-- Whether a hart runs on a flue. -/
def Hart.onFlue (h : Hart) (f : FlueKey) : Bool := h.run == .running && !h.key.dm && flueOf (coreOf h.key) == f

/-- The end of a window of a flue (R234); a controller held in reset takes no step (R253). -/
def State.windowEnd (s : State) (f : FlueKey) : State :=
  let fl := s.flue f
  let cs := (upFrom 0 4).map fun c => s.core (flueCore f c)
  if fl.held then (upFrom 0 4).foldl (fun s c => s.setCore (flueCore f c) (·.nextWindow 0)) s
  else
    let ds := cs.map (·.draw)
    let ns := cs.map (·.drawReal)
    let es := cs.map (·.ceiling)
    let fl' := fl.window ds ns (cs.map (·.drawEmber)) es
    let s1 : State := (upFrom 0 4).foldl (fun s c => s.setCore (flueCore f c) fun x =>
      x.nextWindow (emberPlan (nth ns c 0) ds.sum fl'.embt (nth es c 0))) (s.setFlue f fun _ => fl')
    if fl'.damped && !fl.damped then s1.mapHarts (·.onFlue f) (·.setEvent .damper) else s1

/-- The flues that anything has touched; the windows of the others change nothing. -/
def State.activeFlues (s : State) : List FlueKey :=
  (s.flues.map (·.1) ++ (s.cores.filter fun p => !p.1.dm).map fun p => flueOf p.1).eraseDups

/-! ### Time passes -/

/-- Lane cycle `c` ends: its embers come last; a window of 64 lane cycles may end with it, in every flue (R233); the next one
begins with the leak (R183). -/
def State.cycleEnd (s : State) (c : Nat) : State :=
  let s1 : State := s.mapCores fun k x => x.embers (s.busyLanes k c) (s.lanesClocked k)
  let s2 : State := if (c + 1) % 64 = 0 then s1.activeFlues.foldl State.windowEnd s1 else s1
  s2.mapCores fun _ x => x.leak

/-- Ends `n` lane cycles from cycle `c` on. -/
def State.cyclesEnd : Nat → Nat → State → State
  | 0, _, s => s
  | n + 1, c, s => State.cyclesEnd n (c + 1) (s.cycleEnd c)

/-- Core cycles pass: the lane cycles that end, `TIME`, `CYCLE` of every hart that runs (R29, R34), and the energy used (R342). -/
def State.elapse (s : State) (n : Nat) : State :=
  let s1 : State := if s.cores.isEmpty && s.flues.isEmpty then s else State.cyclesEnd ((s.ticks + n) / 2 - s.laneNow) s.laneNow s
  (({ s1 with
      ticks := s1.ticks + n
      energyCount := s1.energyCount + Config.energyUsed s1.freeCount
      freeCount := s1.freeCount + 1 } : State).mapHarts (·.run == .running) fun h =>
    { h with cycle := h.cycle + BitVec.ofNat 64 n }).timerCheck

/-- Core cycles until the next lane cycle. -/
def State.toCycle (s : State) : Nat := 2 - s.ticks % 2

/-- Core cycles until the window ends: 64 lane cycles, counted from module reset (R233). -/
def State.toWindow (s : State) : Nat := 128 - s.ticks % 128

end Sys2Proof.Machine
end

