-- ==== Sys2Proof/Machine/BlockFormat.lean ====
section
/-! DEFINITION. The CB256 block format (R147, R150, R288, R289): headers, what a body decodes to, why it fails, and reading a block
of a stream. -/

namespace Sys2Proof.Machine

/-- A block header (R288). -/
structure BlockHead where
  kind : Nat
  wc : Nat
  count : Nat
  body : Nat
  units : Nat
  /-- A must-be-zero bit or a reserved `WC`. -/
  bad : Bool
deriving DecidableEq, Repr

/-- A header word read. -/
def BlockHead.ofWord (x : Nat) : BlockHead :=
  ⟨natBits x 0 2, natBits x 2 3, natBits x 8 8 + 1, natBits x 16 16, natBits x 32 8,
    natBits x 40 24 != 0 || natBits x 5 3 != 0 || 4 ≤ natBits x 2 3⟩

/-- A header's word. -/
def BlockHead.toWord (b : BlockHead) : Nat := b.kind + b.wc * 4 + (b.count - 1) * 2 ^ 8 + b.body * 2 ^ 16 + b.units * 2 ^ 32

/-- Element width in bytes. -/
def BlockHead.s (b : BlockHead) : Nat := 2 ^ b.wc

/-- Bytes from a block's start to the next block's (R147). -/
def BlockHead.stride (b : BlockHead) : Nat := (8 + b.body + 15) / 16 * 16

/-- Limits of a kind that the header alone breaks: reason 2 of R150. -/
def BlockHead.broken (b : BlockHead) : Bool :=
  let s := b.s
  b.bad || b.count * s < b.body ||
  (match b.kind with
    | 0 => b.units != 0 || b.body % s != 0
    | 1 => b.units < 1 || 64 < b.units || b.body != b.units * (s + 1)
    | 2 => b.units < 1 || 16 < b.units
    | _ => !(b.units == 4 || b.units == 8 || b.units == 16) || 8 * s ≤ b.units)

/-- Fields of `w` bits packed upward from bit 0. -/
def unpack (w n : Nat) (bs : List Byte) : List Nat := let x := ofBytes bs; (upFrom 0 n).map fun i => natBits x (i * w) w

/-- Counts of a RUN body. -/
def BlockHead.runCounts (b : BlockHead) (bs : List Byte) : List Nat := ((bs.drop (b.units * b.s)).take b.units).map fun x => x.toNat + 1

/-- Decoded count (R289), exact: a body too short for its kind gives a number below 1. DEDUCED (log 71): of a RUN body of another
length than its kind has, the counts that lie in it. -/
def BlockHead.decoded (b : BlockHead) (bs : List Byte) : Int :=
  let s : Int := b.s
  match b.kind with
  | 0 => b.body / s
  | 1 => ((b.runCounts bs).foldl (· + ·) 0 : Nat)
  | 2 => if b.body = b.units * s + ((b.count + 1) / 2 : Nat) then b.count else 2 * (b.body - b.units * s)
  | _ => if b.body = s + (ceilDiv ((b.count - 1) * b.units) 8 : Nat) then b.count else 1 + 8 * (b.body - s) / b.units

/-- Values of `n` elements of the body's start. -/
def BlockHead.values (b : BlockHead) (n : Nat) (bs : List Byte) : List Nat := unpack (8 * b.s) n bs

/-- The body as a row of its kind. -/
def BlockHead.row (b : BlockHead) (bs : List Byte) : Row :=
  let s := b.s
  match b.kind with
  | 0 => .plain (b.values b.count bs)
  | 1 => .run ((b.values b.units bs).zip (b.runCounts bs))
  | 2 => .dict (b.values b.units bs) (unpack 4 b.count (bs.drop (b.units * s)))
  | _ => .delta b.units (ofBytes (bs.take s)) ((unpack b.units (b.count - 1) (bs.drop s)).map fun x => sext x b.units)

/-- Whether an index of a DICT block, as far as its body holds them, names no entry (R289). -/
def BlockHead.indexBad (b : BlockHead) (bs : List Byte) : Bool := match b.row bs with
  | .dict es idx => idx.any fun i => decide (es.length ≤ i)
  | _ => false

/-- Why a block cannot be decoded: reason and decoded count (R150, R289). `wc` is the width asked for, where one is. DEDUCED (log 44):
the reasons rank as R289 lists them, an index out of range before a count that differs. -/
def BlockHead.failure (b : BlockHead) (wc : Option Nat) (bs : List Byte) : Option (Nat × Int) :=
  let n : Int := b.decoded bs
  if b.broken then some (2, n)
  else if wc.isSome && wc != some b.wc then some (1, n)
  else if b.indexBad bs then some (2, n)
  else if n ≠ b.count then some (0, n)
  else none

/-- A count of `TINFO` or `DETAIL`, saturated (R150). DESIGN CHOICE (log 71): a number below 0 reads 0. -/
def sat16 (n : Int) : Nat := min n.toNat 0xFFFF

/-! ### Reading lines and blocks -/

/-- Reads the line of an access once. -/
def readLineOnce (c : Ctx) (va : Word) (x : Xlat) : M (List Byte × Nat) := do
  let (bs, sev) ← loadAt c va { x with key := x.key / 64 * 64 } 64
  sevFlag sev
  return (bs, sev)

/-- Reads the line of an access, once more where it is uncorrectable (R140). -/
def readLine (c : Ctx) (va : Word) (x : Xlat) : M (List Byte × Nat) := do
  let (bs, sev) ← loadAt c va { x with key := x.key / 64 * 64 } 64
  if sev = 2 then readLineOnce c va x
  else
    sevFlag sev
    return (bs, sev)

/-- The compressed-page checks of R141; a scratchpad address has no page. -/
def blockPage (kind : Kind) (va : Word) (lg : Nat) (x : Xlat) : M Unit := do
  if x.isSealed then raise Cause.sealedPage va (accessInfo kind lg 0)
  if x.nl ≠ 11 && !x.spad then raise Cause.page va (accessInfo kind lg 4)

/-- Reads `n` bytes of a stream, line by line as `rd` reads one: bytes and the addresses of poisoned lines. Structural on the
lines left. -/
def readStream (rd : Ctx → Word → Xlat → M (List Byte × Nat)) (lg : Nat) : Nat → Word → Nat → M (List Byte × List Word)
  | 0, _, _ => return ([], [])
  | f + 1, va, n => do
    if n = 0 then return ([], [])
    let c := (← get).h.ctx
    let x ← translate c va .load lg false
    blockPage .load va lg x
    let m := min n (64 - va.toNat % 64)
    let (bs, sev) ← rd c va x
    let (cs, ps) ← readStream rd lg f (va + BitVec.ofNat 64 m) (n - m)
    return ((bs.drop (x.key % 64)).take m ++ cs, if sev = 2 then (va &&& ~~~63) :: ps else ps)

/-- A block of a stream as it stands in memory: its header, the body's bytes and its poisoned lines. The body is read where its
kind's limits hold, and for the counts of a RUN block in any case (R289). -/
def readBlockAt (rd : Ctx → Word → Xlat → M (List Byte × Nat)) (lg : Nat) (va : Word) : M (BlockHead × List Byte × List Word) := do
  let (hb, p1) ← readStream rd lg 2 va 8
  let b := BlockHead.ofWord (ofBytes hb)
  if b.broken && b.kind != 1 then return (b, [], p1)
  let (bs, p2) ← readStream rd lg (b.body / 64 + 2) (va + 8) b.body
  return (b, bs, p1 ++ p2)

/-- BLOCK (R150). -/
def blockTrap {α : Type} (va : Word) (b : BlockHead) (reason : Nat) (n : Int) : M α :=
  raise Cause.block va (BitVec.ofNat 64 (sat16 b.count + sat16 n * 2 ^ 16 + reason * 2 ^ 32))

/-- One block of a stream whose elements have width code `wc`: its header, row and poisoned lines. -/
def readBlock (wc : Nat) (va : Word) : M (BlockHead × Row × List Word) := do
  let (b, bs, ps) ← readBlockAt readLine wc va
  match b.failure (some wc) bs with
  | some (r, n) => blockTrap va b r n
  | none => return (b, b.row bs, ps)

end Sys2Proof.Machine
end

