-- ==== Sys2Proof/Machine/Operands.lean ====
section
/-! DEFINITION. Rows as instructions read and write them (R12 to R21), masks (R23, R24), the encoding of results and its
time (R116 to R119), element-exact stops (R121, R122), poison (R140, R186), and the frame of an elementwise instruction. -/

namespace Sys2Proof.Machine

/-! ### Rows -/

/-- Elements of a DELTA row after an accumulated value (R20). -/
def deltaElems (w : Nat) : Nat → List Int → List Nat
  | acc, [] => [acc]
  | acc, d :: t => acc :: deltaElems w (wrap ((acc : Int) + d) w) t

/-- The elements of a row at its own width (R18 to R20). -/
def Row.elems (r : Row) (w : Nat) : List Nat :=
  match r with
  | .plain els => els
  | .run rs => rs.flatMap fun p => List.replicate p.2 p.1
  | .dict es idx => idx.map fun i => nth es i 0
  | .delta _ base ds => deltaElems w base ds

/-- `LEN` (R16). -/
def Row.len : Row → Nat
  | .plain els => els.length
  | .run rs => rs.foldl (fun a p => a + p.2) 0
  | .dict _ idx => idx.length
  | .delta _ _ ds => ds.length + 1

/-- `KIND` (R16). -/
def Row.kind : Row → Nat
  | .plain _ => 0
  | .run _ => 1
  | .dict _ _ => 2
  | .delta _ _ _ => 3

/-- `UNITS` (R16). -/
def Row.units : Row → Nat
  | .plain els => els.length
  | .run rs => rs.length
  | .dict es _ => es.length
  | .delta w _ _ => w

/-- Whether a row is RUN. -/
def Row.isRun : Row → Bool
  | .run _ => true
  | _ => false

/-- Running sums. -/
def sums : Nat → List Nat → List Nat
  | _, [] => []
  | a, c :: t => (a + c) :: sums (a + c) t

/-- Run ends of a RUN row; none in another row. -/
def Row.ends : Row → List Nat
  | .run rs => sums 0 (rs.map (·.2))
  | _ => []

/-- A row of length 0 is PLAIN (R17). -/
def Row.norm (r : Row) : Row := if r.len = 0 then .plain [] else r

/-- A descriptor at a place in its group (R16). -/
def VReg.descAt (r : VReg) (pos : Nat) : Word :=
  BitVec.ofNat 64 (r.row.len * 2 ^ 32 + r.row.units * 2 ^ 16 + pos * 64 + r.grpc * 16 + r.sewc * 4 + r.row.kind)

/-- The descriptor a register carries. -/
def VReg.desc (r : VReg) : Word := r.descAt r.pos

/-- A vector register. -/
def Hart.vreg (h : Hart) (n : Nat) : VReg := (h.v[n]?).getD VReg.reset

/-- Whether registers from `n` on carry the descriptor that one write gave them (R21). -/
def Hart.sameRow (h : Hart) (n : Nat) (r : VReg) : Bool :=
  (upFrom 0 (2 ^ r.grpc)).all fun p => (h.vreg (n + p)).desc == r.descAt p

/-- Whether a row is read as stored (R21). -/
def Hart.asStored (h : Hart) (n sewc grpc : Nat) : Bool :=
  let r := h.vreg n
  r.pos == 0 && r.sewc == sewc && r.grpc == grpc && h.sameRow n r

/-- Whether a register belongs to an intact row (R21). -/
def Hart.intact (h : Hart) (m : Nat) : Bool :=
  let r := h.vreg m
  decide (r.pos ≤ m) && decide (m - r.pos + 2 ^ r.grpc ≤ 32) && h.sameRow (m - r.pos) r

/-- Width in bits of an element-width code. -/
def widthOf (sewc : Nat) : Nat := 8 * 2 ^ sewc

/-- A row expanded to bytes. -/
def VReg.expand (r : VReg) : List Byte := (r.row.elems (widthOf r.sewc)).flatMap (toBytes (2 ^ r.sewc))

/-- The bytes a register supplies to an assembled row (R21). -/
def Hart.sliceOf (h : Hart) (m slice : Nat) : List Byte :=
  let r := h.vreg m
  if r.row.kind = 0 || h.intact m then padTo 0 slice ((r.expand.drop (r.pos * slice)).take slice) else List.replicate slice 0

/-- Poison that a register carries into an assembled row of elements of `w` bytes; the register's bytes begin at byte
`at0` of the assembled row. -/
def Hart.slicePoison (h : Hart) (m slice at0 w : Nat) : List Poison :=
  let r := h.vreg m
  let ws := 2 ^ r.sewc
  let base := r.pos * slice
  if r.row.kind = 0 || h.intact m then
    r.poison.flatMap fun p =>
      let x0 := p.elem * ws + p.off
      let lo := max x0 base
      let hi := min (x0 + p.size) (base + slice)
      if lo < hi then
        let l := lo - base + at0
        let e := hi - base + at0
        (upFrom (l / w) ((e - 1) / w + 1 - l / w)).map fun i =>
          let a := max l (i * w)
          let b := min e ((i + 1) * w)
          let skip := a - at0 + base - x0
          ⟨i, a - i * w, b - a, if p.blk.isNone then p.va + BitVec.ofNat 64 skip else p.va, p.blk.map fun k => (k.1, k.2 + skip)⟩
      else []
  else []

/-! ### The state a vector instruction runs with (R14) -/

/-- How an instruction that consumes poisoned elements goes on (R186). -/
inductive Look where
  /-- Their lines are to be read once more, and the instruction is issued again. -/
  | first
  /-- They have been read once more: what is still bad raises SEV2. -/
  | again
  /-- Poison is not looked at: the cost of the whole instruction is wanted. -/
  | blind
deriving DecidableEq, Repr

/-- Resolved configuration: width code, grouping code, length, rows, lane groups, rounding, `DZT`. -/
structure VCtx where
  sewc : Nat
  grpc : Nat
  vl : Nat
  rc : Nat
  lg : Nat
  rctx : RCtx
  dzt : Bool
  look : Look
deriving DecidableEq, Repr

/-- What the current hart's next vector instruction runs with. -/
def State.vctx (s : State) (look : Look := .first) : VCtx :=
  ⟨field s.h.vcfg 0 2, field s.h.vcfg 3 2, s.h.vl, s.h.rc, (s.groups s.h.key).length, s.h.rctx, s.h.dzt, look⟩

/-- Element width in bits. -/
def VCtx.sew (v : VCtx) : Nat := widthOf v.sewc

/-- Grouping. -/
def VCtx.g (v : VCtx) : Nat := 2 ^ v.grpc

/-- Lanes. -/
def VCtx.lanes (v : VCtx) : Nat := 8 * v.lg

/-- Row size in bytes: B of R18. -/
def VCtx.bytes (v : VCtx) : Nat := 256 * v.lg * v.g

/-- Whether an operand obeys R12. -/
def VCtx.rowsOk (v : VCtx) (n : Nat) : Bool := n % v.g == 0 && decide (n + v.rc * v.g ≤ 32)

/-- Whether two operands share a register. -/
def VCtx.shares (v : VCtx) (a b : Nat) : Bool := decide (a < b + v.rc * v.g) && decide (b < a + v.rc * v.g)

/-! ### Reading rows -/

/-- A source row as an instruction reads it: its form after operand preparation (R116 rule 2), its first `vl` elements,
whether it was expanded, and its poison. -/
structure In where
  row : Row
  els : List Nat
  forced : Bool
  poison : List Poison
deriving DecidableEq, Repr

/-- Width code of a width in bits. -/
def sewcOf (w : Nat) : Nat := if w ≤ 8 then 0 else if w = 16 then 1 else if w = 32 then 2 else 3

/-- Elements of a reading row at a width, not yet cut to a length, with the stored form where it is read as stored. -/
def Hart.readAny (h : Hart) (n w grpc lg : Nat) : Option Row × List Nat × List Poison :=
  let sewc := sewcOf w
  let r := h.vreg n
  if h.asStored n sewc grpc then (some r.row, r.row.elems w, r.poison)
  else
    let slice := 256 * lg
    let ws := 2 ^ sewc
    let ps := upFrom 0 (2 ^ grpc)
    let bytes := ps.flatMap fun p => h.sliceOf (n + p) slice
    (none, (chunks ws bytes.length bytes).map ofBytes, ps.flatMap fun p => h.slicePoison (n + p) slice (p * slice) ws)

/-- Reads row `q` of an operand at a width of 8 bits or more. -/
def VCtx.read (v : VCtx) (h : Hart) (n q w : Nat) (fp : Bool) : In :=
  let (st, els, poison) := h.readAny (n + q * v.g) w v.grpc v.lg
  let cut := padTo 0 v.vl els
  let poison := poison.filter (·.elem < v.vl)
  match st with
  | some r => if r.len = v.vl && !(fp && r.kind == 3) then ⟨r, cut, false, poison⟩ else ⟨.plain cut, cut, true, poison⟩
  | none => ⟨.plain cut, cut, true, poison⟩

/-- Whether a reader that takes row `q` by value expands an encoded row (R130, R138): one of the row's registers holds part
of one. A PLAIN source needs no such step, whatever its length. -/
def VCtx.expands (v : VCtx) (h : Hart) (n q : Nat) : Bool :=
  (upFrom (n + q * v.g) v.g).any fun i => (h.vreg i).row.kind != 0

/-- The two elements of a byte of an e2m1 row (R38). -/
def nibbles (b : Nat) : List Nat := [b % 16, b / 16]

/-- Bytes of e2m1 elements; an odd length leaves the high nibble 0 (R38). -/
def packNibbles : List Nat → List Nat
  | [] => []
  | [a] => [a]
  | a :: b :: t => (a + 16 * b) :: packNibbles t

/-- Reads row `q` of an e2m1 operand: always PLAIN, its length counted in bytes (R38, R131). DEDUCED (log 41): an encoded byte row
counts as a forced expansion (R116, R119) whatever its length. -/
def VCtx.readNibbles (v : VCtx) (h : Hart) (n q : Nat) : In :=
  let (st, els, poison) := h.readAny (n + q * v.g) 8 v.grpc v.lg
  let cut := padTo 0 v.vl (els.flatMap nibbles)
  let poison := (poison.flatMap fun p => [{ p with elem := 2 * p.elem }, { p with elem := 2 * p.elem + 1 }]).filter (·.elem < v.vl)
  let forced := match st with
    | some r => r.len != (v.vl + 1) / 2 || r.kind != 0
    | none => true
  ⟨.plain cut, cut, forced, poison⟩

/-! ### Writing rows -/

/-- Writes a row of grouping `grpc` from register `n` on (R16). -/
def Hart.putRow (h : Hart) (n grpc sewc : Nat) (row : Row) (poison : List Poison) : Hart :=
  { h with v := (upFrom 0 (2 ^ grpc)).foldl (fun v p => v.setIfInBounds (n + p) ⟨sewc, grpc, p, row.norm, poison⟩) h.v }

/-- Writes a row of the current hart. -/
def State.putRow (s : State) (n grpc sewc : Nat) (row : Row) (poison : List Poison) : State :=
  { s with h := s.h.putRow n grpc sewc row poison }

/-! ### Masks (R23, R24) -/

/-- Truths of alternating counts. -/
def runBits : Bool → List Nat → List Bool
  | _, [] => []
  | b, c :: t => List.replicate c b ++ runBits (!b) t

/-- The bits of a mask row. -/
def MRow.toBits : MRow → List Bool
  | .bits bs => bs
  | .runs cs => runBits false cs

/-- Whether a mask row is a run list. -/
def MRow.isRuns : MRow → Bool
  | .runs _ => true
  | .bits _ => false

/-- Counts of alternating truth, starting with false. -/
def countsFrom : Bool → Nat → List Bool → List Nat
  | _, n, [] => [n]
  | cur, n, b :: t => if b = cur then countsFrom cur (n + 1) t else n :: countsFrom b 1 t

/-- A run list where it needs at most 255 counts, otherwise a bitmap (R24). -/
def mkRuns (bs : List Bool) : MRow :=
  let cs := countsFrom false 0 bs
  if bs.isEmpty || 255 < cs.length then .bits bs else .runs cs

/-- A mask row in the form asked for. -/
def mkMask (runs : Bool) (bs : List Bool) : MRow := if runs then mkRuns bs else .bits bs

/-- A row of a mask register. -/
def Hart.mrow (h : Hart) (k q : Nat) : MRow := ((h.k[k]?).bind fun m => m[q]?).getD (.bits [])

/-- Writes a row of a mask register. -/
def Hart.setMrow (h : Hart) (k q : Nat) (m : MRow) : Hart :=
  { h with k := h.k.setIfInBounds k (((h.k[k]?).getD (Vector.replicate 32 (.bits []))).setIfInBounds q m) }

/-- The first `vl` bits of a mask row; bits beyond its length are false. -/
def Hart.mbits (h : Hart) (k q vl : Nat) : List Bool := padTo false vl (h.mrow k q).toBits

/-- The mask operand of an instruction: none for `k0` (R23). -/
def Hart.maskRow (h : Hart) (k q : Nat) : Option MRow := if k = 0 then none else some (h.mrow k q)

/-- The active elements of a row. -/
def maskBits (m : Option MRow) (vl : Nat) : List Bool :=
  match m with
  | none => List.replicate vl true
  | some m => padTo false vl m.toBits

/-! ### The encoding of results (R116) -/

/-- Inserts a number into a rising list without repeats. -/
def insertNat (x : Nat) : List Nat → List Nat
  | [] => [x]
  | y :: t => if x < y then x :: y :: t else if x = y then y :: t else y :: insertNat x t

/-- Merged run ends of several lists, cut at `vl`. -/
def mergeEnds (vl : Nat) (es : List Nat) : List Nat := (es.filter fun x => 0 < x && x ≤ vl).foldr insertNat (if vl = 0 then [] else [vl])

/-- Runs of a result over run ends: values taken at each run's start. -/
def runsOver (res : List Nat) : Nat → List Nat → List (Nat × Nat)
  | _, [] => []
  | a, e :: t => (nth res a 0, e - a) :: runsOver res e t

/-- Whether a result is constant in each run. -/
def constOver (res : List Nat) : Nat → List Nat → Bool
  | _, [] => true
  | a, e :: t => ((res.drop a).take (e - a)).all (· == nth res a 0) && constOver res e t

/-- The most runs a row holds: C of R18. -/
def VCtx.capacity (v : VCtx) (w : Nat) : Nat := v.bytes / (w / 8 + 2)

/-- Merged runs of sources and masks as a RUN row, or PLAIN above the capacity (R116 rules 4, 5). -/
def VCtx.runRow (v : VCtx) (w : Nat) (rows : List Row) (mask : Option MRow) (res : List Nat) : Row :=
  let me := match mask with
    | some (.runs cs) => sums 0 cs
    | _ => []
  let ends := mergeEnds v.vl (rows.flatMap Row.ends ++ me)
  if ends.length ≤ v.capacity w && constOver res 0 ends then .run (runsOver res 0 ends) else .plain res

/-- Signed differences of neighbours. -/
def diffs (w : Nat) : List Nat → List Int
  | a :: b :: t => sext (wrap ((b : Int) - a) w) w :: diffs w (b :: t)
  | _ => []

/-- Whether a delta fits a width. -/
def fitsDelta (w : Nat) (d : Int) : Bool := -(2 ^ (w - 1) : Int) ≤ d && d < (2 ^ (w - 1) : Int)

/-- A DELTA row of width `dw`, or PLAIN where a delta does not fit (R116). -/
def deltaRow (w dw : Nat) (res : List Nat) : Row :=
  let ds := diffs w res
  if ds.all (fitsDelta dw) then .delta dw (nth res 0 0) ds else .plain res

/-- Index width of a dictionary of `nd` entries (R19). -/
def indexWidth (nd : Nat) : Nat := if nd ≤ 4 then 2 else if nd ≤ 16 then 4 else 8

/-- Stored bytes of a DICT row (R19). -/
def dictBytes (nd n w : Nat) : Nat := 4 * ceilDiv (nd * (w / 8)) 4 + ceilDiv (n * indexWidth nd) 8

/-- Stored bytes of a DELTA row (R20). -/
def deltaBytes (dw n w : Nat) : Nat := (if w = 64 then 8 else 4) + ceilDiv ((n - 1) * dw) 8

/-- What an unmasked table entry of R116 sees: sources after preparation and whether the second operand is no vector. -/
structure Enc where
  a : Row
  b : Row
  old : Row
  scalar : Bool
deriving DecidableEq, Repr

/-- The form of a result row (R116). -/
def VCtx.resultRow (v : VCtx) (w : Nat) (e plainRow : Bool) (mask : Option MRow) (srcs : List Row) (old : Row)
    (table : List Nat → Row) (res : List Nat) : Row :=
  if e || plainRow then .plain res
  else match mask with
    | some m => if m.isRuns && old.isRun && srcs.all Row.isRun then v.runRow w (old :: srcs) mask res else .plain res
    | none => match table res with
      | .run rs => if rs.length ≤ v.capacity w then .run rs else .plain res
      | .dict es idx => if dictBytes es.length idx.length w ≤ v.bytes then .dict es idx else .plain res
      | r => r

/-! ### Time (R118, R119) -/

/-- Elements below `vl` in granules that hold an active element. -/
def granuleUnits (w : Nat) (act : List Bool) : Nat :=
  ((chunks (256 / w) act.length act).filter fun g => g.any id).foldl (fun n g => n + g.length) 0

/-- Runs that a mask leaves wholly false. -/
def falseRuns (bits : List Bool) : Nat → List Nat → Nat
  | _, [] => 0
  | a, e :: t => b2n (!((bits.drop a).take (e - a)).any id) + falseRuns bits e t

/-- Runs counted under R118: merged runs less those that a run-list mask makes wholly false. -/
def runUnits (mask : Option MRow) (ends : List Nat) : Nat :=
  match mask with
  | some (.runs cs) => ends.length - falseRuns (runBits false cs) 0 ends
  | _ => ends.length

/-- U of a data row (R118). -/
def rowUnits (w vl : Nat) (mask : Option MRow) (r : Row) : Nat :=
  match r with
  | .run _ => runUnits mask r.ends
  | .dict es _ => es.length
  | .delta _ _ _ => vl
  | .plain _ => match mask with
    | none => vl
    | some m => granuleUnits w (padTo false vl m.toBits)

/-- Lane cycles of a row (R119): units, units of forced expansions, class. -/
def laneCycles (n : Nat) (long : Bool) (units extra : Nat) : Nat :=
  if long then max 1 (4 * ceilDiv units n) + ceilDiv extra (4 * n) else max 1 (ceilDiv (units + extra) (4 * n))

/-! ### What an instruction costs and how it stops -/

/-- What an instruction costs. -/
structure Cost where
  /-- Units of each row that the core checks (R185); none where it is not checked. -/
  units : List Nat
  /-- Gate charge of the lanes' work, its lane cycles and the depth of the pipeline behind them (R183, R184). -/
  charge : Nat
  cycles : Nat
  depth : Nat
  /-- Gate charge of the VMU's work, and the lane cycles it is spread over (R183, R233). -/
  vmu : Nat
  span : Nat
  /-- Element units and lane cycles for the accounts of R326. -/
  count : Nat
  lcyc : Nat
deriving DecidableEq, Repr

/-- What it counts for the accounts of R326. -/
def Cost.tally (c : Cost) : Tally := ⟨c.count, c.lcyc, c.charge + c.vmu⟩

/-- An instruction's run: its cost, and its element-exact stop. -/
abbrev Ran := Cost × Option Stop

/-- Cost of a lane instruction of weight `w` (R183, R184). -/
def laneCost (v : VCtx) (w : Nat) (units : List Nat) (cycles : Nat) (long : Bool) : Cost :=
  ⟨units, w * cycles * v.lanes, cycles, if long then 12 else 3, 0, 0, units.sum, cycles⟩

/-- Cost of a VMU instruction: granules, VMU cycles, elements, and the lane cycles that expand encoded source rows (R183, R233). -/
def vmuCost (v : VCtx) (granules cycles count expand : Nat) : Cost :=
  ⟨[], expand * v.lanes, expand, 3, granules, ceilDiv cycles 2, count, expand⟩

/-- Runs a computation and gives its stop as a value. -/
def attempt (m : M Unit) : M (Option Stop) := tryCatch (do m; return none) fun e => return some e

/-! ### Poison (R186) -/

/-- Replaces bytes of a pattern. -/
def patch (x off size new : Nat) : Nat :=
  x - (x >>> (8 * off)) % 2 ^ (8 * size) * 2 ^ (8 * off) + new % 2 ^ (8 * size) * 2 ^ (8 * off)

/-- A row with new elements, in its own form where they fit it and PLAIN otherwise (log 45). -/
def Row.refit (r : Row) (w : Nat) (els : List Nat) : Row :=
  match r with
  | .plain _ => .plain els
  | .run _ => if constOver els 0 r.ends then .run (runsOver els 0 r.ends) else .plain els
  | .dict es idx =>
    let es := es.mapIdx fun k e => (((idx.zip els).find? (·.1 == k)).map (·.2)).getD e
    if idx.map (fun i => nth es i 0) == els then .dict es idx else .plain els
  | .delta dw _ _ => deltaRow w dw els

/-- Delivers to the poisoned parts of a register's elements the bytes that now read clean. -/
def VReg.deliver (r : VReg) (bytes : Poison → Option (List Byte)) : VReg :=
  let put (els : List Nat) (p : Poison) : List Nat := match bytes p with
    | some bs => setNth els p.elem (patch (nth els p.elem 0) p.off p.size (ofBytes (bs.take p.size)))
    | none => els
  if r.poison.all fun p => (bytes p).isNone then r
  else { r with
    row := r.row.refit (widthOf r.sewc) (r.poison.foldl put (r.row.elems (widthOf r.sewc)))
    poison := r.poison.filter fun p => (bytes p).isNone }

/-- Delivers to every register of the current hart. -/
def deliverAll (bytes : Poison → Option (List Byte)) : M Unit :=
  modify fun s => { s with h := { s.h with v := s.h.v.map (·.deliver bytes) } }

/-- What a source of poison is read again as: a line of memory, or a block of a stream. -/
def Poison.source (p : Poison) : Word × Bool := match p.blk with
  | some (a, _) => (a, true)
  | none => (p.va &&& ~~~63, false)

/-- Reads a poisoned line once more. -/
def replayLine (line : Word) : M Unit := do
  let c := (← get).h.ctx
  let x ← translate c line .load 6 false
  let (bs, sev) ← readLineOnce c line x
  if sev ≠ 2 then deliverAll fun p => if p.source == (line, false) then some (bs.drop (p.va.toNat % 64)) else none

/-- Reads the lines of a poisoned block once more, and decodes it anew where they all read clean. -/
def replayBlock (a : Word) : M Unit := do
  let (b, bs, ps) ← readBlockAt readLineOnce 3 a
  if ps.isEmpty && (b.failure none bs).isNone then
    let els := ((b.row bs).elems (8 * b.s)).flatMap (toBytes b.s)
    deliverAll fun p => if p.source == (a, true) then p.blk.map fun k => els.drop k.2 else none

/-- Reads poisoned sources once more; one that cannot be read stays poisoned. -/
def replaySources : List (Word × Bool) → M Unit
  | [] => return ()
  | (a, b) :: t => do
    let _ ← attempt (if b then replayBlock a else replayLine a)
    replaySources t

/-- An instruction that consumes poisoned elements for the first time stops, so that what they came from is read once more. -/
def replay (v : VCtx) (ps : List Poison) : M Unit := do
  if v.look == .first && !ps.isEmpty then throw (.reread (ps.map Poison.source).eraseDups)

/-- SEV2 on a poisoned element (R186). -/
def poisonStop (p : Poison) : Stop :=
  .trap Cause.sev2 p.va (accessInfo .load (Nat.log2 p.size) 0)

/-- The first poisoned element among some. -/
def firstPoison : List Poison → Option Poison
  | [] => none
  | p :: t => match firstPoison t with
    | some q => if q.elem < p.elem then some q else some p
    | none => some p

/-- A whole-instruction consumer (R186): replay, then SEV2 where an element it uses is still poisoned. `used` gives the
poisoned elements of the sources, row after row. -/
def consume (v : VCtx) (used : List (List Poison)) : M Unit := do
  replay v used.flatten
  match (used.filterMap firstPoison).head? with
  | some p => if v.look == .again then throw (poisonStop p)
  | none => pure ()

/-! ### Elementwise instructions (R112) -/

/-- What the operation of one element gives. -/
inductive EOut where
  | ok (v : Nat) (f : Flags)
  /-- Also appends an exception-list entry (R54). -/
  | app (v : Nat) (f : Flags)
  /-- An element-exact trap (R121). -/
  | stop (e : Stop)
deriving DecidableEq, Repr

/-- Whether a stop is SEV2. -/
def Stop.isSev2 : Stop → Bool
  | .trap c _ _ => c == Cause.sev2
  | _ => false

/-- A computation that appends exception-list entries. SEV2 of a table line on the walk for an entry's address is no stop that R165
names element-exact: it stops the instruction whole, and nothing it did remains. -/
def appending {α : Type} (m : M α) : M α := do
  let s ← get
  tryCatch m fun e => match e with
    | .trap c va i => do
      if c = Cause.sev2 then
        set s
        let _ ← translate s.h.ctx va .store 4
      throw (.trap c va i)
    | e => throw e

/-- Elements in order until the row's end or the first stop: values, flags, entries appended, stop. -/
def settle (append : Nat → M Unit) : Nat → List EOut → M (List Nat × Flags × Nat × Option Stop)
  | _, [] => return ([], 0, 0, none)
  | i, .ok v f :: t => do
    let (vs, g, n, st) ← settle append (i + 1) t
    return (v :: vs, f ||| g, n, st)
  | i, .app v f :: t => do
    match ← attempt (append i) with
    | some e => if e.isSev2 then throw e else return ([], 0, 0, some e)
    | none =>
      let (vs, g, n, st) ← settle append (i + 1) t
      return (v :: vs, f ||| g, n + 1, st)
  | _, .stop e :: _ => return ([], 0, 0, some e)

/-- A source of an elementwise instruction. -/
inductive Src where
  /-- A vector operand read at a width; 4 is e2m1. -/
  | vec (n w : Nat)
  /-- 16-bit codewords, each the source of eight elements (R132). -/
  | words (n : Nat)
  /-- A vector operand that stays RUN whatever its length (R127). -/
  | runs (n : Nat)
  /-- The same pattern for every element. -/
  | const (x : Nat)
  /-- A mask register as zeros and ones; `k0` is all-true. -/
  | mask (k : Nat)
  | none
deriving DecidableEq, Repr

/-- A mask row as a row of zeros and ones. -/
def MRow.toRow : MRow → Row
  | .bits bs => .plain (bs.map b2n)
  | .runs cs => .run (((cs.mapIdx fun i c => (i % 2, c)).filter fun p => p.2 != 0))

/-- A mask source (R127): `k0` is all-true for any length and counts as a run list (log 19). -/
def Hart.maskSrc (h : Hart) (k q vl : Nat) : MRow :=
  if k = 0 then .runs [0, vl]
  else match h.mrow k q with
    | .bits bs => .bits (padTo false vl bs)
    | .runs cs => mkRuns (padTo false vl (runBits false cs))

/-- Reads a source of row `q`. -/
def Src.read (x : Src) (v : VCtx) (h : Hart) (q : Nat) (fp : Bool) : In :=
  match x with
  | .vec n w => if w = 4 then v.readNibbles h n q else v.read h n q w fp
  | .words n =>
    let r := v.read h n q 16 false
    ⟨.plain [], (r.els.flatMap fun c => List.replicate 8 c).take v.vl, r.forced,
      (r.poison.flatMap fun p => (upFrom (8 * p.elem) 8).map fun i => { p with elem := i }).filter (·.elem < v.vl)⟩
  | .runs n =>
    let r := v.read h n q v.sew false
    match (h.readAny (n + q * v.g) v.sew v.grpc v.lg).1 with
    | some (.run rs) => { r with row := .run rs, forced := false }
    | _ => r
  | .const c => ⟨.run [(c, v.vl)], List.replicate v.vl c, false, []⟩
  | .mask k => let m := h.maskSrc k q v.vl; ⟨m.toRow, m.toBits.map b2n, false, []⟩
  | .none => ⟨.run [(0, v.vl)], List.replicate v.vl 0, false, []⟩

/-- Whether a source is a vector. -/
def Src.isVec : Src → Bool
  | .vec _ _ => true
  | .words _ => true
  | .runs _ => true
  | _ => false

/-- Where an elementwise instruction writes. -/
inductive Dst where
  /-- A vector row of elements of a width; 4 is e2m1. -/
  | vec (n w : Nat)
  | mask (k : Nat)
deriving DecidableEq, Repr

/-- An elementwise instruction. -/
structure Ew where
  dst : Dst
  a : Src
  b : Src
  /-- The old destination is an operand. -/
  acc : Bool
  k : Nat
  e : Bool
  fp : Bool
  long : Bool
  weight : Nat
  /-- Poison moves with the element of `a` and is not consumed (R186). -/
  moves : Bool
  /-- Index, operands, old destination. -/
  f : Nat → Nat → Nat → Nat → EOut
  /-- The unmasked form of R116. -/
  table : Enc → List Nat → Row
  /-- Whether a DELTA result counts one unit (R118). -/
  oneUnit : Bool
  /-- For an exception-list entry: source and destination codes. -/
  codes : Nat × Nat
  /-- DIVZ counts (R121): elements from j on, with divisors, activity and the divisor row. -/
  divz : Bool
  /-- Lane cycles of a row where the description states them, and its units where they are not those of R118. -/
  time : Option (Option Nat × Nat)

/-- Old destination elements of row `q`. -/
def Ew.old (x : Ew) (v : VCtx) (h : Hart) (q : Nat) : In :=
  match x.dst with
  | .vec n w => if w = 4 then v.readNibbles h n q else v.read h n q w x.fp
  | .mask k =>
    let bs := h.mbits k q v.vl
    ⟨.plain [], bs.map b2n, false, []⟩

/-- Elements that row `q` computes: active ones from `j0` on. -/
def Ew.live (x : Ew) (v : VCtx) (h : Hart) (q j0 : Nat) : List Bool :=
  (maskBits (h.maskRow x.k q) v.vl).mapIdx fun i b => b && j0 ≤ i

/-- Poisoned operand elements that row `q` uses. -/
def Ew.used (x : Ew) (v : VCtx) (h : Hart) (q j0 : Nat) : List Poison :=
  if x.moves || v.look == .blind then []
  else
    let live := x.live v h q j0
    ((x.a.read v h q x.fp).poison ++ (x.b.read v h q x.fp).poison ++ (if x.acc then (x.old v h q).poison else [])).filter
      fun p => nth live p.elem false

/-- DIVZ count (R121). -/
def divzCount (bs : List Nat) (live : List Bool) (b : In) (isVec : Bool) (j : Nat) : Nat :=
  if isVec && b.row.isRun then
    let e := (b.row.ends.find? (j < ·)).getD 0
    (((live.take e).drop j).filter id).length
  else (((bs.zip live).drop j).takeWhile fun p => p.1 == 0 && p.2).length

/-- Operation outcomes of a row, in order. DEDUCED (log 71): at an element that is poisoned and has a zero divisor SEV2 comes first, since
the divisor's value is not known. -/
def Ew.outs (x : Ew) (live : List Bool) (a b old : In) (used : List Poison) : List EOut :=
  (live.zip (a.els.zip (b.els.zip old.els))).mapIdx fun i (l, p, q, d) =>
    if !l then .ok d 0
    else match used.find? (·.elem == i) with
      | some po => .stop (poisonStop po)
      | none =>
        if x.divz && q == 0 then .stop (.trap Cause.divz 0 (BitVec.ofNat 64 (divzCount b.els live b x.b.isVec i)))
        else x.f i p q d

/-- What a row gave: units, lane cycles, stop. -/
structure RowRan where
  units : List Nat
  cycles : Nat
  stop : Option Stop
deriving DecidableEq, Repr

/-- Writes a destination row: result form, kept poison of elements not computed. -/
def Ew.write (x : Ew) (v : VCtx) (q : Nat) (row : Row) (poison : List Poison) : M Unit :=
  match x.dst with
  | .vec n w =>
    let row := if w = 4 then (match row with | .plain els => Row.plain (packNibbles els) | r => r) else row
    let poison := if w = 4 then poison.map fun p => { p with elem := p.elem / 2 } else poison
    modify fun s => s.putRow (n + q * v.g) v.grpc (sewcOf w) row poison
  | .mask _ => pure ()

/-- Sets the resume registers (R121 step 4). -/
def setResume (i q p : Nat) : M Unit :=
  modify fun s => { s with h := { s.h with vsi := BitVec.ofNat 64 i, vsr := BitVec.ofNat 64 q, vsp := BitVec.ofNat 64 p } }

/-- Runs row `q` from element `j0` on, reading operands as they stood in `h` (R112); `plainRow` marks the resumed row
(R122). DEDUCED (log 41): the granules of a masked result are counted at the destination's element width, 8 for e2m1. -/
def Ew.row (x : Ew) (v : VCtx) (h : Hart) (j0 : Nat) (plainRow : Bool) (q : Nat) : M RowRan := do
  let a := x.a.read v h q x.fp
  let b := x.b.read v h q x.fp
  let old := x.old v h q
  let mask := h.maskRow x.k q
  let live := x.live v h q j0
  let (vals, fl, n, st) ← settle (fun i => appendEntry i q x.codes.1 x.codes.2) 0 (x.outs live a b old (x.used v h q j0))
  let j := vals.length
  let kept := old.poison.filter fun p => j ≤ p.elem || !nth live p.elem false
  let moved := if x.moves then a.poison.filter fun p => p.elem < j && nth live p.elem false else []
  let extra := b2n a.forced * v.vl + b2n (x.b.isVec && b.forced) * v.vl + b2n (x.acc && old.forced) * v.vl
  modify (·.flag fl)
  let res := vals ++ old.els.drop j
  match x.dst with
  | .vec _ w =>
    let w := max 8 w
    let srcs := (if x.a.isVec then [a.row] else []) ++ (if x.b.isVec then [b.row] else [])
    let row := if st.isSome then Row.plain res
      else v.resultRow w x.e plainRow mask srcs old.row (x.table ⟨a.row, b.row, old.row, !x.b.isVec⟩) res
    x.write v q row (kept ++ moved)
    if st.isSome then setResume j q 0
    let u := match row with
      | .delta _ _ _ => if x.oneUnit then 1 else v.vl
      | r => rowUnits w v.vl mask r
    return ⟨[u + extra + n], laneCycles v.lanes x.long u (extra + n), st⟩
  | .mask k =>
    let bits := res.map (· != 0)
    let runs := st.isNone && !plainRow && a.row.isRun && b.row.isRun && (match mask with
      | some m => m.isRuns && (h.mrow k q).isRuns
      | none => true)
    modify fun s => { s with h := s.h.setMrow k q (mkMask runs bits) }
    if st.isSome then setResume j q 0
    let me := match mask with
      | some (.runs cs) => sums 0 cs ++ (match h.mrow k q with | .runs ds => sums 0 ds | _ => [])
      | _ => []
    let ends := mergeEnds v.vl (a.row.ends ++ b.row.ends ++ me)
    let u := if runs then (if ends.length ≤ v.capacity v.sew then runUnits mask ends else rowUnits v.sew v.vl mask (.plain []))
      else match mask, a.row, x.b.isVec || st.isSome || plainRow with
        | none, .dict es _, false => es.length
        | _, _, _ => rowUnits v.sew v.vl mask (.plain [])
    return ⟨[u + extra], laneCycles v.lanes x.long u extra, st⟩

/-- Runs rows one after another until one stops. -/
def runRows (f : Nat → M RowRan) : List Nat → M RowRan
  | [] => return ⟨[], 0, none⟩
  | q :: t => do
    let r ← f q
    if r.stop.isSome then return r
    let rest ← runRows f t
    return ⟨r.units ++ rest.units, r.cycles + rest.cycles, rest.stop⟩

/-- Whether the instruction is resumed (R122). -/
def Hart.resumed (h : Hart) : Bool := h.vsi != 0 || h.vsr != 0 || h.vsp != 0

/-- Rows from `VSR` on. -/
def Hart.rowsFrom (h : Hart) (rc : Nat) : List Nat := upFrom h.vsr.toNat (rc - h.vsr.toNat)

/-- A row's time where the description of its instruction states it (R119). -/
def Ew.timed (x : Ew) (r : RowRan) : RowRan :=
  match x.time with
  | some (some u, c) => ⟨[u], c, r.stop⟩
  | some (none, c) => ⟨r.units, c, r.stop⟩
  | none => r

/-- Runs an elementwise instruction (R112, R121, R122, R186). -/
def Ew.run (x : Ew) (v : VCtx) : M Ran := do
  let h := (← get).h
  let from0 (q : Nat) : Nat := if q = h.vsr.toNat then h.vsi.toNat else 0
  let rows := h.rowsFrom v.rc
  replay v (rows.flatMap fun q => x.used v h q (from0 q))
  let r ← appending (runRows (fun q => do return x.timed (← x.row v h (from0 q) (h.resumed && q == h.vsr.toNat) q)) rows)
  return (laneCost v x.weight r.units r.cycles x.long, r.stop)

end Sys2Proof.Machine
end

