-- ==== Sys2Proof/Machine/VArith.lean ====
section
/-! DEFINITION. Vector arithmetic, compares and conversions, element by element (R124 to R126, R131). -/

namespace Sys2Proof.Machine

/-! ### Integers (R124) -/

/-- The largest `w`-bit pattern. -/
def ones (w : Nat) : Nat := 2 ^ w - 1

/-- A value clamped to a range, and whether it was. -/
def clampTo (lo hi v : Int) (w : Nat) : Nat × Flags :=
  if v < lo then (wrap lo w, Fl.sat) else if hi < v then (wrap hi w, Fl.sat) else (wrap v w, 0)

/-- One integer element operation; `d` is the old destination. -/
def intOp (op : IntOp) (w a b d : Nat) : Nat × Flags :=
  let sa := sext a w
  let sb := sext b w
  let na : Int := (a : Nat)
  let nb : Int := (b : Nat)
  let lo : Int := -(2 ^ (w - 1) : Int)
  let hi : Int := (2 ^ (w - 1) : Int) - 1
  let r (x : Int) : Nat × Flags := (wrap x w, 0)
  match op with
  | .add => r (na + nb)
  | .sub => r (na - nb)
  | .rsub => r (nb - na)
  | .mul => r (na * nb)
  | .mulh => r (sa * sb / (2 ^ w : Int))
  | .mulhu => r (na * nb / (2 ^ w : Int))
  | .div => if b = 0 then (ones w, Fl.dz) else r (sa.tdiv sb)
  | .divu => if b = 0 then (ones w, Fl.dz) else r (na / nb)
  | .rem => if b = 0 then (a, Fl.dz) else r (sa.tmod sb)
  | .remu => if b = 0 then (a, Fl.dz) else r (na % nb)
  | .min => (if sa ≤ sb then a else b, 0)
  | .max => (if sa ≤ sb then b else a, 0)
  | .minu => (min a b, 0)
  | .maxu => (max a b, 0)
  | .and => (a &&& b, 0)
  | .or => (a ||| b, 0)
  | .xor => (a ^^^ b, 0)
  | .sll => r (na * 2 ^ (b % w))
  | .srl => (a >>> (b % w), 0)
  | .sra => r (sa / (2 ^ (b % w) : Int))
  | .sadd => clampTo lo hi (sa + sb) w
  | .ssub => clampTo lo hi (sa - sb) w
  | .saddu => clampTo 0 (ones w : Nat) (na + nb) w
  | .ssubu => clampTo 0 (ones w : Nat) (na - nb) w
  | .macc => r ((d : Nat) + na * nb)
  | .abs => r (if sa < 0 then -sa else sa)
  | .neg => r (-sa)

/-- Functions 25 and 26 have one operand. -/
def IntOp.unary : IntOp → Bool
  | .abs => true
  | .neg => true
  | _ => false

/-- The divisions. -/
def IntOp.divides : IntOp → Bool
  | .div => true
  | .divu => true
  | .rem => true
  | .remu => true
  | _ => false

/-- Functions with a DELTA form under a scalar (R116). -/
def IntOp.deltaScalar : IntOp → Bool
  | .add => true
  | .sub => true
  | .rsub => true
  | .mul => true
  | .sll => true
  | _ => false

/-- DICT entries under an operation (R116). -/
def dictRow (f : Nat → Nat) (es idx : List Nat) : Row := .dict (es.map f) idx

/-- The unmasked result of an integer function (R116). -/
def intTable (v : VCtx) (op : IntOp) (c : Nat) (x : Enc) (res : List Nat) : Row :=
  let w := v.sew
  if op = .macc then
    if x.old.isRun && x.a.isRun && x.b.isRun then v.runRow w [x.old, x.a, x.b] none res else .plain res
  else if x.scalar then
    match x.a with
    | .run _ => v.runRow w [x.a] none res
    | .dict es idx => dictRow (fun e => (intOp op w e c 0).1) es idx
    | .delta dw _ _ => if op.deltaScalar || op = .neg then deltaRow w dw res else .plain res
    | .plain _ => .plain res
  else
    match x.a, x.b with
    | .run _, .run _ => v.runRow w [x.a, x.b] none res
    | .delta w1 _ _, .delta w2 _ _ => if op = .add || op = .sub then deltaRow w (max w1 w2) res else .plain res
    | _, _ => .plain res

/-- The second operand as a source, its scalar cut to the element width (R112). -/
def Second.src (x : Second) (s : State) (w : Nat) : Src :=
  match x with
  | .vec b => .vec b.toNat w
  | .scalar b => .const ((s.rd b).toNat % 2 ^ w)
  | .imm i => .const (wrap (sext i.toNat 5) w)
  | .none => .none

/-- The constant of a source. -/
def Src.value : Src → Nat
  | .const c => c
  | _ => 0

/-- Weight of an integer function (R183). -/
def IntOp.weight (op : IntOp) : Nat := if op = .macc then 3 else if op.divides then 2 else 1

/-- An integer instruction (R124). -/
def ewInt (s : State) (v : VCtx) (op : IntOp) (d a : Reg) (b : Second) (k : BitVec 3) (e : Bool) : Ew :=
  let w := v.sew
  let src := b.src s w
  { dst := .vec d.toNat w, a := .vec a.toNat w, b := src, acc := op == .macc, k := k.toNat, e := e, fp := false,
    long := op.divides, weight := op.weight, moves := false,
    f := fun _ x y z => let (r, f) := intOp op w x y z; .ok r f,
    table := intTable v op src.value, oneUnit := (op == .add || op == .sub) && !src.isVec, codes := (0, 0),
    divz := v.dzt && op.divides, time := none }

/-! ### Floats (R125) -/

/-- The format of a float instruction: f32 at SEW 32, f16 at SEW 16. -/
def VCtx.fmt (v : VCtx) : FmtP := if v.sewc = 1 then fmtF16 else fmtF32

/-- One float element operation; `n` is the exponent that `VFSCALE` adds. -/
def floatOp (op : FloatOp) (p : FmtP) (c : RCtx) (a b d : Nat) (n : Int) : Nat × Flags :=
  match op with
  | .add => p.fadd c a b
  | .sub => p.fsub c a b
  | .mul => p.fmul c a b
  | .div => p.fdiv c a b
  | .min => p.fminmax false c.fz a b
  | .max => p.fminmax true c.fz a b
  | .fma => p.ffma c a b d
  | .fnms => p.ffnms c a b d
  | .sqrt => p.fsqrt c a
  | .abs => p.fsign c.fz false a
  | .neg => p.fsign c.fz true a
  | .rnd => p.frnd c a
  | .scale => p.fscale c a n
  | .cls => (p.fclass a, 0)

/-- Fused functions. -/
def FloatOp.fused : FloatOp → Bool
  | .fma => true
  | .fnms => true
  | _ => false

/-- The long class of R119. -/
def FloatOp.long : FloatOp → Bool
  | .div => true
  | .sqrt => true
  | _ => false

/-- The unmasked result of a float function: never DELTA (R125). -/
def floatTable (v : VCtx) (fused : Bool) (f : Nat → Nat) (x : Enc) (res : List Nat) : Row :=
  let w := v.sew
  if fused then
    if x.old.isRun && x.a.isRun && x.b.isRun then v.runRow w [x.old, x.a, x.b] none res else .plain res
  else match x.a with
    | .run _ => if x.b.isRun then v.runRow w [x.a, x.b] none res else .plain res
    | .dict es idx => if x.scalar then dictRow f es idx else .plain res
    | _ => .plain res

/-- A float instruction (R125). -/
def ewFloat (s : State) (v : VCtx) (op : FloatOp) (d a : Reg) (b : Second) (k : BitVec 3) (e : Bool) : Ew :=
  let w := v.sew
  let src := b.src s w
  let n (y : Nat) : Int := match b with
    | .scalar r => (s.rd r).toInt
    | _ => sext y w
  let g (x y z : Nat) : Nat × Flags := floatOp op v.fmt v.rctx x y z (n y)
  { dst := .vec d.toNat w, a := .vec a.toNat w, b := src, acc := op.fused, k := k.toNat, e := e, fp := true,
    long := op.long, weight := if op.fused then 3 else 2, moves := false,
    f := fun _ x y z => let (r, f) := g x y z; .ok r f,
    table := floatTable v op.fused fun x => (g x src.value 0).1, oneUnit := false, codes := (0, 0), divz := false, time := none }

/-! ### Compares (R126) -/

/-- Whether a compare reads floats. -/
def CmpOp.fp : CmpOp → Bool
  | .feq => true
  | .flt => true
  | .fle => true
  | .fun => true
  | _ => false

/-- One compare. -/
def cmpOp (op : CmpOp) (p : FmtP) (fz w a b : Nat) : Bool × Flags :=
  match op with
  | .eq => (a == b, 0)
  | .ne => (a != b, 0)
  | .lt => (sext a w < sext b w, 0)
  | .le => (sext a w ≤ sext b w, 0)
  | .ltu => (a < b, 0)
  | .leu => (a ≤ b, 0)
  | .feq => p.ceq fz a b
  | .flt => p.cless false fz a b
  | .fle => p.cless true fz a b
  | .fun => p.cun fz a b

/-- A compare instruction (R126). -/
def ewCmp (s : State) (v : VCtx) (op : CmpOp) (d a : Reg) (b : Second) (k : BitVec 3) : Ew :=
  let w := v.sew
  { dst := .mask d.toNat, a := .vec a.toNat w, b := b.src s w, acc := false, k := k.toNat, e := false, fp := op.fp,
    long := false, weight := if op.fp then 2 else 1, moves := false,
    f := fun _ x y _ => let (r, f) := cmpOp op v.fmt v.rctx.fz w x y; .ok (b2n r) f,
    table := fun _ res => .plain res, oneUnit := false, codes := (0, 0), divz := false, time := none }

/-! ### Conversions (R131) -/

/-- Storage width of a conversion's format; e2m1 is 4. -/
def fmtWidth (c : Nat) : Nat := ((Fmt.ofCode c).map Fmt.width).getD 0

/-- One element converted (R53, R54). -/
def cvtElem (src dst : Nat) (c : RCtx) (x : Nat) : EOut :=
  match Fmt.ofCode src, Fmt.ofCode dst with
  | some s, some d => match convertElem s d c x with
    | some r => if r.entry then .app r.bits r.flags else .ok r.bits r.flags
    | none => .stop (.trap Cause.rescode (BitVec.ofNat 64 x) 0)
  | _, _ => .ok 0 0

/-- A dictionary entry that no element reads, where its code is reserved (log 17). -/
def cvtEntry (src dst : Nat) (c : RCtx) (x : Nat) : Nat :=
  match cvtElem src dst c x with
  | .ok r _ => r
  | .app r _ => r
  | .stop _ => (Config.unreadEntry x).toNat % 2 ^ fmtWidth dst

/-- A conversion instruction (R131). DEDUCED (log 41): no conversion is a floating-point instruction in the sense of rule 2 of R116,
so a DELTA source is no forced expansion. -/
def ewCvt (v : VCtx) (d a : Reg) (src dst : Nat) (k : BitVec 3) (e : Bool) : Ew :=
  let ws := fmtWidth src
  let wd := fmtWidth dst
  { dst := .vec d.toNat wd, a := .vec a.toNat ws, b := .none, acc := false, k := k.toNat, e := e || ws == 4 || wd == 4, fp := false,
    long := false, weight := 1, moves := false,
    f := fun _ x _ _ => cvtElem src dst v.rctx x,
    table := fun x res => match x.a with
      | .run _ => v.runRow wd [x.a] none res
      | .dict es idx => dictRow (cvtEntry src dst v.rctx) es idx
      | _ => .plain res,
    oneUnit := false, codes := (src, dst), divz := false, time := none }

end Sys2Proof.Machine
end

