-- ==== Sys2Proof/Machine/VPerm.lean ====
section
/-! DEFINITION. Vector mask functions, reductions and scans, permutations, re-encoding and tables (R127 to R132). -/

namespace Sys2Proof.Machine

/-! ### Rows still to run -/

/-- Row, first element, and whether it is the resumed row (R122). -/
structure Todo where
  q : Nat
  j0 : Nat
  again : Bool
deriving DecidableEq, Repr

/-- Rows from `VSR` on, with where each begins. -/
def Hart.todo (h : Hart) (rc : Nat) : List Todo :=
  (h.rowsFrom rc).map fun q => ⟨q, if q = h.vsr.toNat then h.vsi.toNat else 0, h.resumed && q == h.vsr.toNat⟩

/-- New elements from `j0` on, old ones below. -/
def fromIdx {α : Type} (j0 : Nat) (old new : List α) : List α := old.take j0 ++ new.drop j0

/-! ### Mask functions (R127) -/

/-- Writes mask row `q`. -/
def putMask (k q : Nat) (m : MRow) : M Unit := modify fun s => { s with h := s.h.setMrow k q m }

/-- A written mask row: from `j0` on where the row is resumed. -/
def writeMask (v : VCtx) (h : Hart) (d : Nat) (t : Todo) (runs : Bool) (bs : List Bool) : M Unit :=
  if t.again then putMask d t.q (.bits (fromIdx t.j0 (h.mbits d t.q v.vl) bs)) else putMask d t.q (mkMask runs bs)

/-- Bits of `klt`: one count of true (R127). -/
def kltBits (a b : Word) (vl : Nat) : List Bool :=
  let t := (min (max (b.toInt - a.toInt) 0) (vl : Int)).toNat
  List.replicate t true ++ List.replicate (vl - t) false

/-- Bits of `kblk`: blocks of `b` elements that appear among the entries. -/
def kblkBits (entries : List Nat) (b vl : Nat) : List Bool := (upFrom 0 vl).map fun i => entries.contains (i / b)

/-- The logical length of an assembled row in elements of `ws` bytes: up to the last byte that a register supplies. -/
def Hart.extent (h : Hart) (n grpc lg ws : Nat) : Nat :=
  let slice := 256 * lg
  ceilDiv ((upFrom 0 (2 ^ grpc)).foldl (fun a p =>
    let r := h.vreg (n + p)
    let bytes := r.row.len * 2 ^ r.sewc - r.pos * slice
    if (r.row.kind = 0 || h.intact (n + p)) && 0 < bytes then max a (p * slice + min bytes slice) else a) 0) ws

/-- Entries of row `q` of an operand below its `LEN`, with their poison. -/
def VCtx.entries (v : VCtx) (h : Hart) (n q : Nat) : List Nat × List Poison :=
  let b := n + q * v.g
  match h.readAny b v.sew v.grpc v.lg with
  | (some r, els, ps) => (els.take r.len, ps)
  | (none, els, ps) => let len := h.extent b v.grpc v.lg (2 ^ v.sewc); (els.take len, ps.filter (·.elem < len))

/-- Position of the first true bit. -/
def firstTrue : Nat → List Bool → Option Nat
  | _, [] => none
  | i, b :: t => if b then some i else firstTrue (i + 1) t

/-- One row of a mask-writing function: its bits and whether the result is a run list. -/
def kopRow (v : VCtx) (h : Hart) (op : KOp) (a b : Reg) (sa sb : Word) (q : Nat) : List Bool × Bool :=
  let ma := h.maskSrc a.toNat q v.vl
  let mb := h.maskSrc b.toNat q v.vl
  let two (f : Bool → Bool → Bool) : List Bool × Bool := ((ma.toBits.zip mb.toBits).map fun p => f p.1 p.2, ma.isRuns && mb.isRuns)
  match op with
  | .and => two (· && ·)
  | .or => two (· || ·)
  | .xor => two (· != ·)
  | .andn => two fun x y => x && !y
  | .not => (ma.toBits.map (!·), ma.isRuns)
  | .set => (List.replicate v.vl true, true)
  | .clr => (List.replicate v.vl false, true)
  | .mov => (ma.toBits, ma.isRuns)
  | .lt => (kltBits sa sb v.vl, true)
  | .blk => (kblkBits (v.entries h a.toNat q).1 (field sb 0 16) v.vl, true)
  | .enc => (ma.toBits, b = 0)
  | _ => ([], false)

/-- Rows of mask functions one after another. -/
def forTodo (f : Todo → M Unit) : List Todo → M Unit
  | [] => return ()
  | t :: ts => do f t; forTodo f ts

/-- A mask-reading element source as an elementwise instruction (R127). -/
def ewMask (v : VCtx) (op : KOp) (d a : Reg) : Ew :=
  { dst := if op = .tov then .vec d.toNat v.sew else .mask d.toNat,
    a := if op = .tov then .mask a.toNat else .runs a.toNat, b := .none, acc := false, k := 0, e := false, fp := false,
    long := false, weight := 1, moves := false, f := fun _ x _ _ => .ok (b2n (x != 0)) 0,
    table := fun x res => if x.a.isRun then v.runRow v.sew [x.a] none res else .plain res,
    oneUnit := false, codes := (0, 0), divz := false, time := some (if op = .tov then none else some 1, 1) }

/-- A mask function (R127). DEDUCED (log 41): R118 names no units for one that is no compare, and each row counts one. -/
def runKop (v : VCtx) (op : KOp) (d a b : Reg) : M Ran := do
  let s ← get
  let h := s.h
  let todo := h.todo v.rc
  let cost : Ran := (laneCost v 1 (todo.map fun _ => 1) todo.length false, none)
  match op with
  | .tov => (ewMask v op d a).run v
  | .fromv => (ewMask v op d a).run v
  | .pop =>
    let n := todo.foldl (fun n t => n + (((h.maskSrc a.toNat t.q v.vl).toBits.drop t.j0).filter id).length) 0
    modify (·.wr d (BitVec.ofNat 64 n))
    return cost
  | .first =>
    let hit := todo.findSome? fun t => (firstTrue t.j0 ((h.maskSrc a.toNat t.q v.vl).toBits.drop t.j0)).map (t.q * v.vl + ·)
    modify (·.wr d (match hit with | some i => BitVec.ofNat 64 i | none => BitVec.allOnes 64))
    return cost
  | .blk =>
    consume v (todo.map fun t => (v.entries h a.toNat t.q).2)
    forTodo (fun t => let (bs, runs) := kopRow v h op a b (s.rd a) (s.rd b) t.q; writeMask v h d.toNat t runs bs) todo
    let longest := todo.foldl (fun n t => max n (v.entries h a.toNat t.q).1.length) 0
    return (laneCost v 1 [longest] (laneCycles v.lanes false longest 0) false, none)
  | _ =>
    forTodo (fun t => let (bs, runs) := kopRow v h op a b (s.rd a) (s.rd b) t.q; writeMask v h d.toNat t runs bs) todo
    return cost

/-- The scalar result of a mask function at `vl` = 0 (R123). -/
def kopEmpty (op : KOp) (d : Reg) : M Unit :=
  match op with
  | .pop => modify (·.wr d 0)
  | .first => modify (·.wr d (BitVec.allOnes 64))
  | _ => return ()

/-! ### Reductions and scans (R56 to R58, R128) -/

/-- Float functions. -/
def RedOp.fp : RedOp → Bool
  | .fsum => true
  | .fmin => true
  | .fmax => true
  | .fscan => true
  | .fsumo => true
  | _ => false

/-- Scans. -/
def RedOp.scans : RedOp → Bool
  | .scan => true
  | .fscan => true
  | _ => false

/-- Functions that act once per run on a RUN source. -/
def RedOp.perRun : RedOp → Bool
  | .fsum => false
  | .fsumo => false
  | .scan => false
  | .fscan => false
  | _ => true

/-- Two values combined, flags collected. -/
def redPair (v : VCtx) (op : RedOp) (x y : Nat × Flags) : Nat × Flags :=
  let w := v.sew
  let i (o : IntOp) : Nat × Flags := intOp o w x.1 y.1 0
  let r := match op with
    | .sum => i .add
    | .scan => i .add
    | .min => i .min
    | .max => i .max
    | .minu => i .minu
    | .maxu => i .maxu
    | .and => i .and
    | .or => i .or
    | .fmin => v.fmt.fminmax false v.rctx.fz x.1 y.1
    | .fmax => v.fmt.fminmax true v.rctx.fz x.1 y.1
    | _ => v.fmt.fadd v.rctx x.1 y.1
  (r.1, x.2 ||| y.2 ||| r.2)

/-- The identity of a reduction (R123). -/
def RedOp.identity (v : VCtx) : RedOp → Nat
  | .min => 2 ^ (v.sew - 1) - 1
  | .minu => ones v.sew
  | .max => 2 ^ (v.sew - 1)
  | .and => ones v.sew
  | .fmin => v.fmt.maxCode + 1
  | .fmax => v.fmt.signed true (v.fmt.maxCode + 1)
  | _ => 0

/-- Folds a non-empty list from its first element, which alone passes on as it is (R56, R57; log 71). -/
def foldFirst (f : Nat × Flags → Nat × Flags → Nat × Flags) : List (Nat × Flags) → Option (Nat × Flags)
  | [] => none
  | x :: t => some (t.foldl f x)

/-- One pairing of R56: an empty partner passes the other on. -/
def pairUp (f : Nat × Flags → Nat × Flags → Nat × Flags) : List (Option (Nat × Flags)) → List (Option (Nat × Flags))
  | a :: b :: t =>
    (match a, b with
      | some x, some y => some (f x y)
      | some x, none => some x
      | none, y => y) :: pairUp f t
  | [a] => [a]
  | [] => []

/-- Pairings until one position remains. -/
def pairAll (f : Nat × Flags → Nat × Flags → Nat × Flags) : Nat → List (Option (Nat × Flags)) → Option (Nat × Flags)
  | 0, l => (l.head?).join
  | n + 1, l => if l.length ≤ 1 then (l.head?).join else pairAll f n (pairUp f l)

/-- The tree of R56 over active elements with their indices. -/
def treeSum (f : Nat × Flags → Nat × Flags → Nat × Flags) (n w : Nat) (xs : List (Nat × Nat)) : Option (Nat × Flags) :=
  pairAll f n ((upFrom 0 n).map fun p => foldFirst f ((xs.filter fun x => x.1 * (w / 8) / 4 % n == p).map fun (x : Nat × Nat) => (x.2, 0)))

/-- Active elements with their indices. -/
def activeElems (els : List Nat) (live : List Bool) : List (Nat × Nat) :=
  ((els.zip live).mapIdx fun i p => (i, p)).filterMap fun (i, p) => if p.2 then some (i, p.1) else none

/-- The result of one row. DEDUCED (log 71): a lone active element is the result bit for bit, be it a NaN or a subnormal under
`FZ` 1, and sets no flag: no operation was performed on it. -/
def reduceRow (v : VCtx) (op : RedOp) (els : List Nat) (live : List Bool) : Nat × Flags :=
  let xs := activeElems els live
  let r := match op with
    | .fsum => treeSum (redPair v op) v.lanes v.sew xs
    | .fmin => treeSum (redPair v op) v.lanes v.sew xs
    | .fmax => treeSum (redPair v op) v.lanes v.sew xs
    | _ => foldFirst (redPair v op) (xs.map fun (x : Nat × Nat) => (x.2, 0))
  r.getD (op.identity v, 0)

/-- Element outcomes of a scan: `acc` is the previous active output. DEDUCED (log 71): the first active element is written bit for bit
and sets no flag (R57). -/
def scanOuts (v : VCtx) (op : RedOp) (used : List Poison) (j0 : Nat) : Nat → Option Nat → List (Nat × Nat × Bool) → List EOut
  | _, _, [] => []
  | i, acc, (a, d, l) :: t =>
    if !l then .ok d 0 :: scanOuts v op used j0 (i + 1) acc t
    else if i < j0 then .ok d 0 :: scanOuts v op used j0 (i + 1) (some d) t
    else match used.find? (·.elem == i) with
      | some p => [.stop (poisonStop p)]
      | none =>
        let r := match acc with
          | some x => redPair v op (x, 0) (a, 0)
          | none => (a, 0)
        .ok r.1 r.2 :: scanOuts v op used j0 (i + 1) (some r.1) t

/-- Units and lane cycles of a reduced row (R128). R128 fixes the units of a DELTA row that a floating-point function reads,
so that expansion adds nothing to them. -/
def redTime (v : VCtx) (op : RedOp) (h : Hart) (n q : Nat) (mask : Option MRow) : Nat × Nat :=
  let a := v.read h n q v.sew false
  let log2P := bitLen (v.lanes - 1)
  let u := if a.row.isRun && op.perRun then a.row.ends.length - falseRuns (maskBits mask v.vl) 0 a.row.ends else rowUnits v.sew v.vl mask (.plain [])
  let extra := b2n a.forced * v.vl
  (u + extra, laneCycles v.lanes false u extra + log2P)

/-- A row of a scan. -/
def scanRow (v : VCtx) (op : RedOp) (h : Hart) (d a : Reg) (k : Nat) (t : Todo) : M RowRan := do
  let src := v.read h a.toNat t.q v.sew op.fp
  let old := v.read h d.toNat t.q v.sew false
  let live := maskBits (h.maskRow k t.q) v.vl
  let used := if v.look == .blind then [] else src.poison.filter fun p => t.j0 ≤ p.elem && nth live p.elem false
  let (vals, fl, _, st) ← settle (fun _ => return ()) 0
    (scanOuts v op used t.j0 0 none (src.els.zip (old.els.zip live)))
  let j := vals.length
  modify fun s => (s.putRow (d.toNat + t.q * v.g) v.grpc v.sewc (.plain (vals ++ old.els.drop j))
    (old.poison.filter fun p => j ≤ p.elem || p.elem < t.j0 || !nth live p.elem false)).flag fl
  if st.isSome then setResume j t.q 0
  let (u, c) := redTime v op h a.toNat t.q (h.maskRow k t.q)
  return ⟨[u], c, st⟩

/-- Runs rows until one stops. -/
def runTodo (f : Todo → M RowRan) : List Todo → M RowRan
  | [] => return ⟨[], 0, none⟩
  | t :: ts => do
    let r ← f t
    if r.stop.isSome then return r
    let rest ← runTodo f ts
    return ⟨r.units ++ rest.units, r.cycles + rest.cycles, rest.stop⟩

/-- A reduction or scan (R128). -/
def runRed (v : VCtx) (op : RedOp) (d a : Reg) (k : BitVec 3) : M Ran := do
  let h := (← get).h
  let todo := h.todo v.rc
  let used (t : Todo) : List Poison :=
    let live := maskBits (h.maskRow k.toNat t.q) v.vl
    (v.read h a.toNat t.q v.sew false).poison.filter fun p => (!op.scans || t.j0 ≤ p.elem) && nth live p.elem false
  if op.scans then
    replay v (todo.flatMap used)
    let r ← runTodo (fun t => scanRow v op h d a k.toNat t) todo
    return (laneCost v 1 r.units r.cycles false, r.stop)
  else
    consume v (todo.map used)
    let rows := todo.map fun t =>
      let src := v.read h a.toNat t.q v.sew op.fp
      (reduceRow v op src.els (maskBits (h.maskRow k.toNat t.q) v.vl), redTime v op h a.toNat t.q (h.maskRow k.toNat t.q))
    let old := padTo 0 v.rc (h.readAny d.toNat v.sew v.grpc v.lg).2.1
    let res := old.take h.vsr.toNat ++ rows.map fun r => r.1.1
    modify fun s => (s.putRow d.toNat v.grpc v.sewc (.plain res) []).flag (rows.foldl (fun f r => f ||| r.1.2) 0)
    return (laneCost v 1 (rows.map fun r => r.2.1) (rows.foldl (fun n r => n + r.2.2) 0) false, none)

/-- A reduction at `vl` = 0 writes identities (R123). -/
def redEmpty (v : VCtx) (op : RedOp) (d : Reg) : M Unit :=
  if op.scans then return ()
  else modify fun s => s.putRow d.toNat v.grpc v.sewc (.plain (List.replicate v.rc (op.identity v))) []

/-! ### Permutations (R129) -/

/-- `VMOV`, `VSPLAT` and `VIOTA` as elementwise instructions. -/
def ewPerm (s : State) (v : VCtx) (op : PermOp) (d a : Reg) (k : BitVec 3) (e : Bool) : Ew :=
  let w := v.sew
  let x := (s.rd a).toNat
  { dst := .vec d.toNat w,
    a := match op with | .mov => .vec a.toNat w | .splat => .const (x % 2 ^ w) | _ => .none,
    b := .none, acc := false, k := k.toNat, e := e, fp := false, long := false, weight := 1, moves := op == .mov,
    f := fun i y _ _ => .ok (if op = .iota then (x + i) % 2 ^ w else y) 0,
    table := fun enc res => match op with
      | .iota => .delta 4 (nth res 0 0) (List.replicate (v.vl - 1) 1)
      | _ => enc.a,
    oneUnit := false, codes := (0, 0), divz := false, time := none }

/-- Where each element of a moved row comes from: index, or none for zero; outer none keeps the old element. -/
def permFrom (v : VCtx) (op : PermOp) (off : Nat) (idx : List Nat) (live : List Bool) (i : Nat) : Option (Option Nat) :=
  match op with
  | .cmprs =>
    let xs := (upFrom 0 v.vl).filter fun j => nth live j false
    some (xs[i]?)
  | .slup => if nth live i false && off ≤ i then some (some (i - off)) else none
  | .sldn => if nth live i false then some (if i + off < v.vl then some (i + off) else none) else none
  | _ => if nth live i false then (let j := nth idx i 0; some (if j < v.vl then some j else none)) else none

/-- One row of a lane-crossing permutation. -/
def permRow (v : VCtx) (h : Hart) (op : PermOp) (d a b : Reg) (off : Nat) (k : Nat) (t : Todo) : M RowRan := do
  let src := v.read h a.toNat t.q v.sew false
  let old := v.read h d.toNat t.q v.sew false
  let mask := h.maskRow k t.q
  let live := maskBits mask v.vl
  let idx := if op = .rgath then (v.read h b.toNat t.q v.sew false) else ⟨.plain [], [], false, []⟩
  let pick (i : Nat) : Option (Option Nat) := if i < t.j0 then none else permFrom v op off idx.els live i
  let vals := (upFrom 0 v.vl).map fun i => match pick i with
    | none => nth old.els i 0
    | some none => 0
    | some (some j) => nth src.els j 0
  let poison := (upFrom 0 v.vl).flatMap fun i => match pick i with
    | none => old.poison.filter (·.elem == i)
    | some none => []
    | some (some j) => (src.poison.filter (·.elem == j)).map fun p => { p with elem := i }
  modify (·.putRow (d.toNat + t.q * v.g) v.grpc v.sewc (.plain vals) poison)
  let u := rowUnits v.sew v.vl (if op = .cmprs then none else mask) (.plain [])
  let extra := b2n src.forced * v.vl + b2n idx.forced * v.vl
  return ⟨[u + extra], laneCycles v.lanes false u extra, none⟩

/-- Maximal runs of equal patterns, split at 65,535. -/
def maximalRuns : List Nat → List (Nat × Nat)
  | [] => []
  | x :: t => match maximalRuns t with
    | (y, c) :: r => if x = y && c < 65535 then (y, c + 1) :: r else (x, 1) :: (y, c) :: r
    | [] => [(x, 1)]

/-- Entries in order of first appearance. -/
def firstSeen : List Nat → List Nat → List Nat
  | seen, [] => seen.reverse
  | seen, x :: t => if seen.contains x then firstSeen seen t else firstSeen (x :: seen) t

/-- The row and stored bytes of an encoding, where it fits (R130). -/
def VCtx.encode (v : VCtx) (els : List Nat) (c : Nat) : Option (Row × Nat) :=
  let w := v.sew
  let n := els.length
  match c with
  | 0 => some (.plain els, n * (w / 8))
  | 1 =>
    let rs := maximalRuns els
    if rs.length ≤ v.capacity w then some (.run rs, rs.length * (w / 8 + 2)) else none
  | 2 =>
    let es := firstSeen [] els
    if es.length ≤ 256 && dictBytes es.length n w ≤ v.bytes then some (.dict es (els.map (es.idxOf ·)), dictBytes es.length n w) else none
  | _ =>
    let ds := diffs w els
    match [4, 8, 16].find? fun dw => dw < w && ds.all (fitsDelta dw) with
    | some dw => if deltaBytes dw n w ≤ v.bytes then some (.delta dw (nth els 0 0) ds, deltaBytes dw n w) else none
    | none => none

/-- The encoding that a request of `VENC` gives (R130): code 4 takes the fewest bytes, ties to the lower code. -/
def VCtx.reencode (v : VCtx) (els : List Nat) (c : Nat) : Row :=
  if c < 4 then ((v.encode els c).map (·.1)).getD (.plain els)
  else ((upFrom 1 3).foldl (fun best c => match v.encode els c with
      | some (r, n) => if n < best.2 then (r, n) else best
      | none => best) (Row.plain els, els.length * (v.sew / 8))).1

/-- A row function of R129 and R130. -/
def runPerm (v : VCtx) (op : PermOp) (d a b : Reg) (k : BitVec 3) (e : Bool) : M Ran := do
  let s ← get
  let h := s.h
  let todo := h.todo v.rc
  let sb := s.rd b
  match op with
  | .mov => (ewPerm s v op d a k e).run v
  | .splat => (ewPerm s v op d a k e).run v
  | .iota => (ewPerm s v op d a k e).run v
  | .einfo =>
    modify (·.wr d (h.vreg a.toNat).desc)
    return (laneCost v 1 [1] 1 false, none)
  | .extr =>
    let i := field sb 0 16
    let q := field sb 16 5
    let r := v.read h a.toNat q v.sew false
    consume v [if i < v.vl then r.poison.filter (·.elem == i) else []]
    modify (·.wr d (if i < v.vl then BitVec.ofInt 64 (sext (nth r.els i 0) v.sew) else 0))
    return (laneCost v 1 [1] 1 false, none)
  | .ins =>
    let i := field sb 0 16
    let q := field sb 16 5
    let r := v.read h d.toNat q v.sew false
    modify (·.putRow (d.toNat + q * v.g) v.grpc v.sewc (.plain (setNth r.els i ((s.rd a).toNat % 2 ^ v.sew))) (r.poison.filter (·.elem != i)))
    let extra := if v.expands h d.toNat q then v.vl else 0
    return (laneCost v 1 [v.vl + extra] (1 + ceilDiv extra (4 * v.lanes)) false, none)
  | .enc =>
    consume v (todo.map fun t => (v.read h a.toNat t.q v.sew false).poison)
    let r ← runTodo (fun t => do
      let src := v.read h a.toNat t.q v.sew false
      let row := if t.again then .plain (fromIdx t.j0 (v.read h d.toNat t.q v.sew false).els src.els) else v.reencode src.els sb.toNat
      modify (·.putRow (d.toNat + t.q * v.g) v.grpc v.sewc row [])
      return ⟨[2 * v.vl], laneCycles v.lanes false (2 * v.vl) 0, none⟩) todo
    return (laneCost v 1 r.units r.cycles false, none)
  | _ =>
    consume v (if op = .rgath then todo.map fun t =>
      (v.read h b.toNat t.q v.sew false).poison.filter fun p => t.j0 ≤ p.elem && nth (maskBits (h.maskRow k.toNat t.q) v.vl) p.elem false else [])
    let r ← runTodo (permRow v h op d a b sb.toNat k.toNat) todo
    return (laneCost v 1 r.units r.cycles false, none)

/-- A row function at `vl` = 0 (R123, R129). -/
def permEmpty (op : PermOp) (d a : Reg) : M Unit :=
  match op with
  | .einfo => modify fun s => s.wr d (s.h.vreg a.toNat).desc
  | .extr => modify (·.wr d 0)
  | _ => return ()

/-! ### Tables (R25, R45, R132) -/

/-- Table entry; an entry at or above `TBN` reads as zero (R25). -/
def Hart.tbEntry (h : Hart) (i : Nat) : Nat := if i < h.tbn then ((h.tb[i]?).getD 0).toNat else 0

/-- The format of a `VLATD` request, or none where it is refused (R132). -/
def latdFmt (v : VCtx) (sb : Word) : Option FmtP :=
  match sb.toNat with
  | 8 => if v.sewc = 2 then some fmtF32 else none
  | 9 => if v.sewc = 1 then some fmtBF16 else none
  | 10 => if v.sewc = 1 then some fmtF16 else none
  | _ => none

/-- `VLATD` and `VDICTG` as elementwise instructions. -/
def ewTab (s : State) (v : VCtx) (op : TabOp) (d a b : Reg) (k : BitVec 3) (e : Bool) : Ew :=
  let h := s.h
  let p := (latdFmt v (s.rd b)).getD fmtF32
  let look (i x : Nat) : EOut :=
    if op = .latd then
      let t := x / 256
      if h.tbn ≤ t then .stop (.trap Cause.rescode (BitVec.ofNat 64 x) 0)
      else .ok (p.round .rne 0 (nth (l8Components x (h.tbEntry t)) (i % 8) (.fin false 0 0))).1 0
    else if h.tbn ≤ x then .stop (.trap Cause.rescode (BitVec.ofNat 64 x) 0)
    else .ok (h.tbEntry x) 0
  { dst := .vec d.toNat v.sew, a := if op = .latd then .words a.toNat else .vec a.toNat v.sew, b := .none, acc := false,
    k := k.toNat, e := e || k != 0, fp := false, long := false, weight := 1, moves := false, f := fun i x _ _ => look i x,
    table := fun x res => if op = .dictg && 1 ≤ h.tbn then .dict ((upFrom 0 h.tbn).map h.tbEntry) (x.a.elems v.sew) else .plain res,
    oneUnit := false, codes := (0, 0), divz := false, time := some (some v.vl, laneCycles v.lanes false v.vl 0) }

/-- A table function (R132): masked or with E set, `VDICTG` and `VLATD` give PLAIN. -/
def runTab (v : VCtx) (op : TabOp) (d a b : Reg) (k : BitVec 3) (e : Bool) : M Ran := do
  let s ← get
  let m := min v.vl 256
  match op with
  | .tabld =>
    let src := v.read s.h a.toNat 0 32 false
    consume v [src.poison.filter (·.elem < m)]
    modify fun s => { s with h := { s.h with
      tb := (upFrom 0 m).foldl (fun t i => t.setIfInBounds i (BitVec.ofNat 32 (nth src.els i 0))) s.h.tb, tbn := m } }
    return (laneCost v 1 [m] (max 1 (ceilDiv m (4 * v.lanes))) false, none)
  | .tabst =>
    modify (·.putRow d.toNat v.grpc v.sewc (.plain ((upFrom 0 v.vl).map s.h.tbEntry)) [])
    return (laneCost v 1 [v.vl] (max 1 (ceilDiv m (4 * v.lanes))) false, none)
  | _ => (ewTab s v op d a b k e).run v

end Sys2Proof.Machine
end

