-- ==== Sys2Proof/Machine/Blocks.lean ====
section
/-! DEFINITION. The encoder of the CB256 block format (R149, R289), and the row that the blocks of a stream give (R148). -/

namespace Sys2Proof.Machine

/-- Fields of `w` bits packed into bytes. -/
def packFields (w : Nat) (xs : List Nat) : List Byte :=
  toBytes (ceilDiv (xs.length * w) 8) (xs.foldr (fun x a => a * 2 ^ w + x % 2 ^ w) 0)

/-- The body of a kind, where its limits hold (R289), with `UNITS`. DEDUCED (log 71): the entries of a DICT block stand in order of
first appearance, as R130 orders those of `VENC`. -/
def blockBody (wc : Nat) (els : List Nat) (kind : Nat) : Option (Nat × List Byte) :=
  let s := 2 ^ wc
  let w := 8 * s
  let full := els.length * s
  let ok (u : Nat) (bs : List Byte) : Option (Nat × List Byte) := if bs.length ≤ full then some (u, bs) else none
  match kind with
  | 0 => some (0, els.flatMap (toBytes s))
  | 1 =>
    let rs := maximalRuns els
    if rs.length ≤ 64 then ok rs.length ((rs.flatMap fun r => toBytes s r.1) ++ rs.map fun r => BitVec.ofNat 8 (r.2 - 1)) else none
  | 2 =>
    let es := firstSeen [] els
    if es.length ≤ 16 then ok es.length (es.flatMap (toBytes s) ++ packFields 4 (els.map fun x => es.idxOf x)) else none
  | _ =>
    let ds := diffs w els
    match [4, 8, 16].find? fun dw => dw < w && ds.all (fitsDelta dw) with
    | some dw => ok dw (toBytes s (nth els 0 0) ++ packFields dw (ds.map fun d => wrap d dw))
    | none => none

/-- A block: header, body and zero padding to 16 bytes, of the kind with the fewest body bytes, ties to the lower (R149). -/
def encodeBlock (wc : Nat) (els : List Nat) : List Byte :=
  let best := (upFrom 0 4).foldl (fun best k => match blockBody wc els k, best with
    | some (u, bs), some (_, _, cs) => if bs.length < cs.length then some (k, u, bs) else best
    | some (u, bs), none => some (k, u, bs)
    | none, _ => best) (none : Option (Nat × Nat × List Byte))
  match best with
  | some (k, u, bs) =>
    let h : BlockHead := ⟨k, wc, els.length, bs.length, u, false⟩
    padTo 0 h.stride (toBytes 8 h.toWord ++ bs)
  | none => []

/-- The blocks of a row: 256 elements each, the last with the remainder (R149). -/
def rowBlocks (wc : Nat) (els : List Nat) : List (List Byte) := (chunks 256 (els.length + 1) els).map (encodeBlock wc)

/-- Runs trimmed at a length. -/
def trimRuns : Nat → List (Nat × Nat) → List (Nat × Nat)
  | _, [] => []
  | n, (x, c) :: t => if n = 0 then [] else if n ≤ c then [(x, n)] else (x, c) :: trimRuns (n - c) t

/-- The row that whole blocks give a length (R148). -/
def VCtx.blocksRow (v : VCtx) (rows : List Row) : Row :=
  let runs := trimRuns v.vl (rows.flatMap fun r => match r with | .run rs => rs | _ => [])
  if rows.all Row.isRun && runs.length ≤ v.capacity v.sew then .run runs
  else match rows with
    | [.dict es idx] => .dict es (idx.take v.vl)
    | [.delta w b ds] => if 1 ≤ v.sewc && w < v.sew then .delta w b (ds.take (v.vl - 1)) else .plain ((Row.elems (.delta w b ds) v.sew).take v.vl)
    | _ => .plain ((rows.flatMap fun r => r.elems v.sew).take v.vl)

end Sys2Proof.Machine
end

