-- ==== Sys2Proof/Machine/VMem.lean ====
section
/-! DEFINITION. Vector memory instructions (R133 to R159): addresses, the probe, performing elements, block streams,
scatter-add, acquire gathers and release scatters. -/

namespace Sys2Proof.Machine

/-! ### Elements and addresses -/

/-- An element to be accessed. -/
structure El where
  q : Nat
  i : Nat
  va : Word
deriving DecidableEq, Repr

/-- Forms with an index operand. -/
def MemOp.indexed : MemOp → Bool
  | .ldx => true
  | .stx => true
  | .scadd => true
  | .scfadd => true
  | .gacq => true
  | .srel => true
  | _ => false

/-- Loads. -/
def MemOp.loads : MemOp → Bool
  | .ld => true
  | .lds => true
  | .ldx => true
  | .ldff => true
  | .ld3 => true
  | .ldc => true
  | .gacq => true
  | _ => false

/-- Three-dimensional forms. -/
def MemOp.box : MemOp → Bool
  | .ld3 => true
  | .st3 => true
  | _ => false

/-- Compressed forms. -/
def MemOp.blocks : MemOp → Bool
  | .ldc => true
  | .stc => true
  | _ => false

/-- Access kind of a form's faults (R142). -/
def MemOp.access (op : MemOp) : Kind :=
  match op with
  | .scadd => .atomic
  | .scfadd => .atomic
  | _ => if op.loads then .load else .store

/-- Index width of a register: the SEW its descriptor records; 32 for a register of length 0 (R135). -/
def Hart.indexWidth (h : Hart) (b : Nat) : Nat := let r := h.vreg b; if r.row.len = 0 then 32 else widthOf r.sewc

/-- Lengths and strides of a box (R26). -/
def Hart.dlen (h : Hart) (i : Nat) : Nat := ((h.dl[i]?).getD 0).toNat

/-- A byte stride. -/
def Hart.dstride (h : Hart) (i : Nat) : Word := (h.dt[i]?).getD 0

/-- Whether a box has a zero length (R26). -/
def Hart.boxEmpty (h : Hart) : Bool := h.dlen 0 == 0 || h.dlen 1 == 0 || h.dlen 2 == 0

/-- Address of element `i` of row `q` (R134, R146); `ix` is its index value. -/
def elemAddr (h : Hart) (v : VCtx) (op : MemOp) (base stride : Word) (q i ix : Nat) : Word :=
  let f : Word := BitVec.ofNat 64 (q * v.vl + i)
  let n (x : Nat) : Word := BitVec.ofNat 64 x
  if op.box then base + n i * h.dstride 0 + n (q % h.dlen 1) * h.dstride 1 + n (q / h.dlen 1) * h.dstride 2
  else if op.indexed then base + n ix
  else match op with
    | .lds => base + f * stride
    | .sts => base + f * stride
    | _ => base + f * n (2 ^ v.sewc)

/-- Rows an instruction touches. -/
def memRows (h : Hart) (v : VCtx) (op : MemOp) : Nat := if op.box then h.dlen 1 * h.dlen 2 else v.rc

/-- The row at which a resumed instruction goes on (R27, R157). -/
def memRow0 (h : Hart) (op : MemOp) : Nat := h.vsr.toNat + (if op.box then h.vsp.toNat * h.dlen 1 else 0)

/-- Active elements of a row. -/
def memLive (h : Hart) (v : VCtx) (op : MemOp) (k q : Nat) : List Bool :=
  (maskBits (h.maskRow k q) v.vl).mapIdx fun i b => b && (!op.box || i < h.dlen 0)

/-- The elements left to access, in row-major order. -/
def memEls (h : Hart) (v : VCtx) (op : MemOp) (base stride : Word) (b wi k : Nat) : List El :=
  let r0 := memRow0 h op
  (upFrom r0 (memRows h v op - r0)).flatMap fun q =>
    let live := memLive h v op k q
    let ix := if op.indexed then padTo 0 v.vl (h.readAny (b + q * v.g) wi v.grpc v.lg).2.1 else []
    let i0 := if q = r0 then h.vsi.toNat else 0
    ((upFrom 0 v.vl).filter fun i => nth live i false && i0 ≤ i).map fun i => ⟨q, i, elemAddr h v op base stride q i (nth ix i 0)⟩

/-! ### The probe (R141) -/

/-- Alignment of every element. -/
def probeAlign (kind : Kind) (lg : Nat) : List El → M Unit
  | [] => return ()
  | e :: t => do
    if e.va.toNat % 2 ^ lg ≠ 0 then raise Cause.align e.va (accessInfo kind lg 0)
    probeAlign kind lg t

/-- The page probe: every element's page is translated, whatever the others gave; each element with its fault, if any. -/
def probe (kind : Kind) (lg : Nat) : List El → M (List (El × Option Stop))
  | [] => return []
  | e :: t => do
    let r ← attempt (do let _ ← translate (← get).h.ctx e.va kind lg false)
    return (e, r) :: (← probe kind lg t)

/-- Stops with the fault of the first element that has one. -/
def probePages (kind : Kind) (lg : Nat) (els : List El) : M Unit := do
  match (← probe kind lg els).findSome? (·.2) with
  | some e => throw e
  | none => pure ()

/-- Whether a fault ends a first-fault load silently after its first element (R145). -/
def Stop.soft : Stop → Bool
  | .trap c _ _ => c == Cause.page
  | .link _ => true
  | .reread _ => false

/-- Elements before the first that faults, of a first-fault load (R145); a fault at the first element, or one that is neither
PAGE nor LINK, stops it. DEDUCED (log 43): of a resumed one, the first element that remains counts as the first. -/
def beforeFault : Bool → List (El × Option Stop) → M (List El)
  | _, [] => return []
  | first, (e, r) :: t => match r with
    | some st => if first || !st.soft then throw st else return []
    | none => do return e :: (← beforeFault false t)

/-! ### Loading -/

/-- A loaded element: value and poison. -/
structure Got where
  el : El
  x : Nat
  poison : List Poison
deriving DecidableEq, Repr

/-- Lines a load has read, by physical line: the 64 bytes delivered and their severity. -/
abbrev Lines := List (Nat × (List Byte × Nat))

/-- Loads elements in order. With `one` each element reads its line anew (the O bit); with `soft` LINK after the first
element ends the load (R145). -/
def loadEls (s : Nat) (one soft : Bool) : Lines → Bool → List El → M (List Got)
  | _, _, [] => return []
  | seen, first, e :: t => do
    let c := (← get).h.ctx
    let x ← translate c e.va .load (Nat.log2 s) false
    if soft && !first && !(← get).reachable c.die x.key then return []
    let line := x.key / 64
    let (bs, sev) ← match seen.find? (fun p => p.1 == line && !one) with
      | some p => pure p.2
      | none => readLine c e.va x
    let val := ofBytes ((bs.drop (x.key % 64)).take s)
    let rest ← loadEls s one soft ((line, (bs, sev)) :: seen) false t
    return ⟨e, val, if sev = 2 then [⟨e.i, 0, s, e.va, none⟩] else []⟩ :: rest

/-- A destination row after a load: loaded elements over the old ones (R137). -/
def loadedRow (old : In) (got : List Got) : Row × List Poison :=
  (.plain (got.foldl (fun els g => setNth els g.el.i g.x) old.els),
    (old.poison.filter fun p => !got.any (·.el.i == p.elem)) ++ got.flatMap (·.poison))

/-- Writes destination rows from `r0` on. -/
def writeLoaded (v : VCtx) (h : Hart) (d : Nat) (got : List Got) : List Nat → M Unit
  | [] => return ()
  | q :: t => do
    let (row, ps) := loadedRow (v.read h d q v.sew false) (got.filter (·.el.q == q))
    modify (·.putRow (d + q * v.g) v.grpc v.sewc row ps)
    writeLoaded v h d got t

/-! ### Time and charge (R159, R183) -/

/-- Granules of a row that hold an active element. -/
def granules (w : Nat) (act : List Bool) : Nat := ((chunks (256 / w) act.length act).filter fun g => g.any id).length

/-- VMU cycles of one row of elements. -/
def vmuCycles (op : MemOp) (o unit : Bool) (els : List El) : Nat :=
  let a := els.length
  let blocks := (dedup (els.map fun e => e.va.toNat / 64)).length
  if o then a
  else if unit then blocks
  else match op with
    | .scadd => ceilDiv a 8 + ceilDiv (dedup (els.map (·.va.toNat))).length 8
    | .scfadd => ceilDiv a 8 + ceilDiv (dedup (els.map (·.va.toNat))).length 8
    | _ => max (ceilDiv a 8) blocks

/-- Whether a form moves contiguous elements. -/
def unitForm (h : Hart) (v : VCtx) (op : MemOp) : Bool :=
  match op with
  | .ld => true
  | .ldff => true
  | .st => true
  | .ld3 => h.dstride 0 == BitVec.ofNat 64 (2 ^ v.sewc)
  | .st3 => h.dstride 0 == BitVec.ofNat 64 (2 ^ v.sewc)
  | _ => false

/-- Cost of a vector memory instruction: granules of its data rows (log 41), and the lane step that expands encoded source
rows (R138, R183, R233). -/
def memCost (h : Hart) (v : VCtx) (op : MemOp) (o : Bool) (d : Nat) (els : List El) : Cost :=
  let rows := dedup (els.map (·.q))
  let of (q : Nat) : List El := els.filter (·.q == q)
  let act (q : Nat) : List Bool := let is := (of q).map (·.i); (upFrom 0 v.vl).map fun i => is.contains i
  let cycles := rows.foldl (fun n q => n + vmuCycles op o (unitForm h v op) (of q)) 0
  let gran := rows.foldl (fun n q => n + granules v.sew (act q)) 0
  let expand := if op.loads then 0
    else rows.foldl (fun n q => n + b2n (v.expands h d q) * max 1 (ceilDiv v.vl (4 * v.lanes))) 0
  vmuCost v gran cycles els.length expand

/-! ### Storing -/

/-- A store ready to be performed: address, home key, bytes, poison. -/
structure Put where
  va : Word
  key : Nat
  bytes : List Byte
  poison : Bool
deriving DecidableEq, Repr

/-- Values of a source's elements. -/
def putsOf (v : VCtx) (h : Hart) (d : Nat) (w : Nat) : List El → M (List Put)
  | [] => return []
  | e :: t => do
    let x ← translate (← get).h.ctx e.va .store (Nat.log2 (w / 8)) false
    let r := v.read h d e.q w false
    let rest ← putsOf v h d w t
    return ⟨e.va, x.key, toBytes (w / 8) (nth r.els e.i 0), r.poison.any (·.elem == e.i)⟩ :: rest

/-- Stores in order, one access each. -/
def performPuts (lg : Nat) : List Put → M Unit
  | [] => return ()
  | p :: t => do
    let c := (← get).h.ctx
    let x ← translate c p.va .store lg
    storeAt c p.va x p.bytes p.poison
    performPuts lg t

/-- Where each part of a store lands; `D` is set for the page of each (R282). -/
def placePuts (kind : Kind) (lg : Nat) : List Put → M (List (Xlat × Put))
  | [] => return []
  | p :: t => do
    let x ← translate (← get).h.ctx p.va kind lg
    return (x, p) :: (← placePuts kind lg t)

/-- The parts of a line's store that go through pages of one `NL` and `MIR` (R284). -/
def sameAttrs (a : Nat × Bool) (ps : List (Xlat × Put)) : List (Xlat × Put) := ps.filter fun p => (p.1.nl, p.1.mir) == a

/-- Stores a line's parts, those of one layout in one access: a line whose 64 bytes they all give is written whole (R140, R303). -/
def storeParts (line : Nat) (ps : List (Xlat × Put)) : List (Nat × Bool) → M Unit
  | [] => return ()
  | a :: t => do
    let qs := sameAttrs a ps
    match qs with
    | [] => pure ()
    | (x, p) :: _ => storeLineAt (← get).h.ctx p.va x line (qs.map fun q => (q.2.key % 64, q.2.bytes)) (qs.any (·.2.poison))
    storeParts line ps t

/-- The layouts through which parts of a line are stored; which of several comes last is open (R138, log 15). -/
def lastOpen (as : List (Nat × Bool)) : M (List (Nat × Bool)) := do
  if as.length ≤ 1 then return as
  let (n, s) := (← get).nextFree
  set s
  return as.rotateLeft (Config.sameAddressWinner n as.length % as.length)

/-- Performs a line's store: `ps` are its elements, `wins` those whose bytes stay. -/
def performLine (lg line : Nat) (ps wins : List Put) : M Unit := do
  let _ ← placePuts .store lg ps
  let xs ← placePuts .store lg wins
  storeParts line xs (← lastOpen (xs.map fun p => (p.1.nl, p.1.mir)).eraseDups)

/-- Stores line by line, in the order of the lines' first parts. -/
def performLines (lg : Nat) (ps wins : List Put) : List Nat → M Unit
  | [] => return ()
  | l :: t => do
    performLine lg l (ps.filter (·.key / 64 == l)) (wins.filter (·.key / 64 == l))
    performLines lg ps wins t

/-- Of an unordered store, the elements that land last at their addresses: which one of several is open (R138, log 15). A
poisoned one marks the line all the same (R140). -/
def survivors (free : Nat) (ps : List Put) : List Put :=
  (ps.map (·.key)).eraseDups.filterMap fun k =>
    let grp := ps.filter (·.key == k)
    (grp[Config.sameAddressWinner (free + k) grp.length % grp.length]?).map fun p => { p with poison := grp.any (·.poison) }

/-- Performs a store: element by element with the O bit, else line by line (R138, R159). -/
def runStore (v : VCtx) (h : Hart) (o : Bool) (d : Nat) (els : List El) : M Unit := do
  let ps ← putsOf v h d v.sew els
  if o then performPuts v.sewc ps
  else if (ps.map (·.key)).Nodup then performLines v.sewc ps ps (ps.map (·.key / 64)).eraseDups
  else
    let (n, s) := (← get).nextFree
    set s
    performLines v.sewc ps (survivors n ps) (ps.map (·.key / 64)).eraseDups

/-! ### Scatter-add (R151, R152) -/

/-- Adds two values of the form and collects flags. -/
def scAdd (v : VCtx) (op : MemOp) (x y : Nat × Flags) : Nat × Flags :=
  let r := if op = .scfadd then v.fmt.fadd v.rctx x.1 y.1 else (wrap ((x.1 : Int) + y.1) v.sew, 0)
  (r.1, x.2 ||| y.2 ||| r.2)

/-- One update per distinct address, whose layout is that of its first element's page; it is mirrored where a page of any is (R284). -/
def runUpdates (v : VCtx) (op : MemOp) : List (List Put) → M Unit
  | [] => return ()
  | g :: t => do
    match foldFirst (scAdd v op) (g.map fun p => (ofBytes p.bytes, 0)), g.head? with
    | some sum, some p =>
      let c := (← get).h.ctx
      let xs ← placePuts .atomic v.sewc g
      let x ← translate c p.va .atomic v.sewc
      let x := { x with mir := xs.any (·.1.mir) }
      let (bs, _) ← loadAt c p.va x (2 ^ v.sewc)
      let r := scAdd v op (ofBytes bs, 0) sum
      storeAt c p.va x (toBytes (2 ^ v.sewc) r.1) (g.any (·.poison))
      modify (·.flag r.2)
    | _, _ => pure ()
    runUpdates v op t

/-- Groups of equal addresses, in order of their first element. -/
def groupPuts (ps : List Put) : List (List Put) := (firstSeen [] (ps.map (·.key))).map fun k => ps.filter (·.key == k)

/-! ### Acquire gathers (R153, R155) -/

/-- Whether a home lies inside a scope (R155). -/
def State.homeInside (s : State) (h : Hart) (scope : Nat) (key : Nat) : Bool :=
  let pkg := pkgOf key
  let local0 := key % 2 ^ 42
  let mem := inMemory local0
  match scope with
  | 4 => pkg == s.pkg && (match controllerOf local0 with | some (d, u) => d == h.key.die && u < 3 | none => false)
  | 5 => mem && pkg == s.pkg
  | 6 => mem && pkg / 64 == s.pkg / 64
  | 7 => mem
  | 8 => true
  | 9 => true
  | 10 => mem && s.groveOn h pkg
  | _ => false

/-- Elements of a gather that are performed: those whose page is not SYNC, or whose home lies inside the scope. -/
def gacqSplit (scope lg : Nat) : List El → M (List El)
  | [] => return []
  | e :: t => do
    let s ← get
    let x ← translate s.h.ctx e.va .load lg false
    let ok := x.nl ≠ 10 || (← get).homeInside s.h scope x.key
    let rest ← gacqSplit scope lg t
    return if ok then e :: rest else rest

/-! ### Block streams (R147 to R150) -/

/-- What the blocks of a row gave: rows, poison, header count, decoded elements, next address. -/
structure RowBlocks where
  rows : List Row
  poison : List Poison
  heads : Nat
  decoded : Nat
  next : Word
deriving DecidableEq, Repr

/-- Blocks until a row holds `vl` elements (R148). Structural on the elements left. -/
def readRowBlocks (v : VCtx) : Nat → Nat → Word → M RowBlocks
  | 0, _, va => return ⟨[], [], 0, 0, va⟩
  | f + 1, n, va => do
    if v.vl ≤ n then return ⟨[], [], 0, 0, va⟩
    let (b, row, ps) ← readBlock v.sewc va
    let rest ← readRowBlocks v f (n + b.count) (va + BitVec.ofNat 64 b.stride)
    let mine := match ps with
      | p :: _ => (upFrom 0 (min b.count (v.vl - n))).map fun i => ⟨n + i, 0, 2 ^ v.sewc, p, some (va, i * 2 ^ v.sewc)⟩
      | [] => []
    return ⟨row :: rest.rows, mine ++ rest.poison, rest.heads + 1, rest.decoded + b.count, rest.next⟩

/-- Rows of a stream. -/
def readRows (v : VCtx) : List Nat → Word → M (List RowBlocks)
  | [], _ => return []
  | _ :: t, va => do
    let r ← readRowBlocks v v.vl 0 va
    return r :: (← readRows v t r.next)

/-- Writes the rows of a stream. -/
def putBlockRows (v : VCtx) (d : Nat) : List (Nat × RowBlocks) → M Unit
  | [] => return ()
  | (q, r) :: t => do
    modify (·.putRow (d + q * v.g) v.grpc v.sewc (v.blocksRow r.rows) r.poison)
    putBlockRows v d t

/-- `VLDC` (R148). -/
def runLdc (v : VCtx) (h : Hart) (d : Nat) (base : Word) (b : Reg) : M Cost := do
  if base.toNat % 16 ≠ 0 then raise Cause.align base (accessInfo .load v.sewc 0)
  let rows := h.rowsFrom v.rc
  let got ← readRows v rows base
  putBlockRows v d (rows.zip got)
  modify (·.wr b ((got.getLast?.map (·.next)).getD base))
  let cycles := got.foldl (fun n r => n + r.heads + ceilDiv r.decoded 64) 0
  return vmuCost v (rows.length * ceilDiv (v.vl * 2 ^ v.sewc) 32) cycles (rows.length * v.vl) 0

/-- Bytes cut at line boundaries, with their addresses. -/
def linePieces : Nat → Word → List Byte → List (Word × List Byte)
  | 0, _, _ => []
  | f + 1, va, bs =>
    if bs.isEmpty then []
    else
      let m := 64 - va.toNat % 64
      (va, bs.take m) :: linePieces f (va + BitVec.ofNat 64 m) (bs.drop m)

/-- Probes the pieces of a stream and gives their stores; every page is translated (R141). -/
def probePieces (lg : Nat) : List (Word × List Byte × Bool) → M (List Put × Option Stop)
  | [] => return ([], none)
  | (va, bs, p) :: t => do
    let c := (← get).h.ctx
    match ← tryCatch (do let x ← translate c va .store lg false; blockPage .store va lg x; return Except.ok x.key)
        (fun e => return Except.error e) with
    | .error e => do let _ ← probePieces lg t; return ([], some e)
    | .ok key => do
      let (ps, st) ← probePieces lg t
      return (⟨va, key, bs, p⟩ :: ps, st)

/-- Pieces of the blocks of a stream with their poison, and the end address. -/
def streamPieces : Word → List (List Byte × Bool) → List (Word × List Byte × Bool) × Word
  | va, [] => ([], va)
  | va, (bs, p) :: t =>
    let (ps, e) := streamPieces (va + BitVec.ofNat 64 bs.length) t
    (((linePieces (bs.length / 64 + 2) va bs).map fun x => (x.1, x.2, p)) ++ ps, e)

/-- `VSTC` (R149). DEDUCED (log 44): a poisoned element marks every line of its block. -/
def runStc (v : VCtx) (h : Hart) (d : Nat) (base : Word) (b : Reg) : M Cost := do
  if base.toNat % 16 ≠ 0 then raise Cause.align base (accessInfo .store v.sewc 0)
  let rows := h.rowsFrom v.rc
  let blocks := rows.flatMap fun q =>
    let r := v.read h d q v.sew false
    (rowBlocks v.sewc r.els).mapIdx fun i bs => (bs, r.poison.any fun p => p.elem / 256 == i)
  let (pieces, endAddr) := streamPieces base blocks
  let (ps, st) ← probePieces v.sewc pieces
  if let some e := st then throw e
  performLines v.sewc ps ps (ps.map (·.key / 64)).eraseDups
  modify (·.wr b endAddr)
  let expand := rows.foldl (fun n q => n + b2n (v.expands h d q) * max 1 (ceilDiv v.vl (4 * v.lanes))) 0
  let cycles := rows.length * (ceilDiv v.vl 256 + ceilDiv v.vl 64)
  return vmuCost v (rows.length * ceilDiv (v.vl * 2 ^ v.sewc) 32) cycles (rows.length * v.vl) expand

/-! ### Whole instructions -/

/-- Writes the rows of `ksm` (R153). -/
def writeSpecial (k : Nat) (v : VCtx) (h : Hart) (p : Nat → Nat → Bool) : M Unit :=
  forTodo (fun t => putMask k t.q (mkRuns ((upFrom 0 v.vl).map fun i => p t.q i))) ((h.rowsFrom v.rc).map fun q => ⟨q, 0, false⟩)

/-- Writes `kff`: the active elements before the first one that faults, those that an earlier part loaded among them (R145). -/
def writeFirstFault (v : VCtx) (h : Hart) (k : Nat) (stop : Option El) : M Unit :=
  forTodo (fun t =>
    let before (i : Nat) : Bool := match stop with
      | none => true
      | some e => decide (t.q < e.q) || (t.q == e.q && decide (i < e.i))
    putMask 8 t.q (mkRuns ((upFrom 0 v.vl).map fun i => nth (maskBits (h.maskRow k t.q) v.vl) i false && before i)))
    ((upFrom 0 v.rc).map fun q => ⟨q, 0, false⟩)

/-- A vector memory instruction of `vl` ≥ 1 (R137 to R155); `wi` is the index width at issue (R135). -/
def runMem (v : VCtx) (op : MemOp) (d a b : Reg) (wi : Nat) (k : BitVec 3) (o : Bool) (x : BitVec 4) : M Ran := do
  let s ← get
  let h := s.h
  let base := s.rd a
  if op = .srel then
    if let some u := s.lostFor x.toNat false true then throw (.link u.va)
  if op = .ldc then return (← runLdc v h d.toNat base b, none)
  if op = .stc then return (← runStc v h d.toNat base b, none)
  let els := memEls h v op base (s.rd b) b.toNat wi k.toNat
  let rows := upFrom (memRow0 h op) (memRows h v op - memRow0 h op)
  let cost (got : List El) : Ran := ({ memCost h v op o d.toNat got with count := els.length }, none)
  probeAlign op.access v.sewc els
  match op with
  | .ldff =>
    let all := els
    let els ← beforeFault true (← probe .load v.sewc els)
    let got ← loadEls (2 ^ v.sewc) o true [] true els
    writeLoaded v h d.toNat got rows
    writeFirstFault v h k.toNat (all[got.length]?)
    return cost (got.map (·.el))
  | .gacq =>
    probePages .load v.sewc els
    let mine ← gacqSplit x.toNat v.sewc els
    let got ← loadEls (2 ^ v.sewc) false false [] true mine
    writeLoaded v h d.toNat got rows
    writeSpecial 9 v h fun q i => !mine.any fun e => e.q == q && e.i == i
    return cost mine
  | .scadd =>
    probePages .atomic v.sewc els
    runUpdates v op (groupPuts (← putsOf v h d.toNat v.sew els))
    return cost els
  | .scfadd =>
    probePages .atomic v.sewc els
    runUpdates v op (groupPuts (← putsOf v h d.toNat v.sew els))
    return cost els
  | _ =>
    probePages op.access v.sewc els
    if op.loads then
      let got ← loadEls (2 ^ v.sewc) o false [] true els
      writeLoaded v h d.toNat got rows
    else runStore v h o d.toNat els
    return cost els

/-- Forms that may stop at an element boundary (R157). -/
def MemOp.cuts : MemOp → Bool
  | .ld => true
  | .lds => true
  | .ldx => true
  | .ldff => true
  | .ld3 => true
  | .st => true
  | .sts => true
  | .stx => true
  | .st3 => true
  | _ => false

/-- An instruction stopped before its element `n` (R157): those before it are performed, the destination row that holds the point
is PLAIN, and the resume registers name the point. False where it has no such element. -/
def runCut (v : VCtx) (op : MemOp) (d a b : Reg) (wi : Nat) (k : BitVec 3) (o : Bool) (n : Nat) : M Bool := do
  let s ← get
  let h := s.h
  let r0 := memRow0 h op
  let all := memEls h v op (s.rd a) (s.rd b) b.toNat wi k.toNat
  probeAlign op.access v.sewc all
  if op ≠ .ldff then probePages op.access v.sewc all
  let els ← if op = .ldff then beforeFault true (← probe .load v.sewc all) else pure all
  match els[n]? with
  | none => return false
  | some p =>
    let whole ← if op.loads then do
        let got ← loadEls (2 ^ v.sewc) o (op == .ldff) [] true (els.take n)
        writeLoaded v h d.toNat got (upFrom r0 (p.q + 1 - r0))
        pure (got.length == n)
      else do
        runStore v h o d.toNat (els.take n)
        pure true
    if op.box then setResume p.i (p.q % h.dlen 1) (p.q / h.dlen 1) else setResume p.i p.q 0
    return whole

/-- A vector memory instruction that makes no access: `VLDC` and `VSTC` still give their end address (R148, R149, R158). -/
def memEmpty (op : MemOp) (a b : Reg) : M Unit := if op.blocks then modify fun s => s.wr b (s.rd a) else return ()

end Sys2Proof.Machine
end

