-- ==== Sys2Proof/Machine/Matrix.lean ====
section
/-! DEFINITION. Matrix mode: tile grants, accumulator triples, the four tile forms and the MMODE lane functions (R195 to
R212). -/

namespace Sys2Proof.Machine

/-! ### Grants (R195) -/

/-- The largest tile edge (R195). DESIGN CHOICE (log 16): 0 for a hart without lane groups, for which no edge satisfies the bound. -/
def tileCap (lg g : Nat) : Nat :=
  let m := min (64 * lg * g) (128 * lg)
  if 1024 ≤ m then 32 else if 256 ≤ m then 16 else if 64 ≤ m then 8 else 0

/-- The tile edge asked for. -/
def tileEdge (a : Nat) : Nat := if a = 0 then 0 else if a ≤ 8 then 8 else if a ≤ 16 then 16 else 32

/-- The depth granted. -/
def tileDepth (b : Nat) : Nat := if b = 0 then 0 else min (4 * ceilDiv b 4) 256

/-- `SETTILE`. -/
def runSettile (v : VCtx) (d a b : Reg) : M Unit := modify fun s =>
  let m := min (tileEdge (s.rd a).toNat) (tileCap v.lg v.g)
  let k := tileDepth (s.rd b).toNat
  ({ s with h := { s.h with mt := m, nt := m, kt := k } } : State).wr d (BitVec.ofNat 64 (m + k * 2 ^ 16))

/-! ### Rows and triples (R197, R198) -/

/-- Elements of a row operand with their poison. -/
structure Elems where
  els : List Nat
  poison : List Poison
deriving DecidableEq, Repr

/-- Reads `n` elements of a row of `g` registers at a width; 4 is e2m1. -/
def VCtx.elems (v : VCtx) (h : Hart) (r w n : Nat) : Elems :=
  if w = 4 then
    let (_, els, ps) := h.readAny r 8 v.grpc v.lg
    ⟨padTo 0 n (els.flatMap nibbles), (ps.flatMap fun p => [{ p with elem := 2 * p.elem }, { p with elem := 2 * p.elem + 1 }]).filter (·.elem < n)⟩
  else
    let (_, els, ps) := h.readAny r w v.grpc v.lg
    ⟨padTo 0 n els, ps.filter (·.elem < n)⟩

/-- The three parts of a triple. -/
def VCtx.triple (v : VCtx) (h : Hart) (r n : Nat) : List Elems := (upFrom 0 3).map fun i => v.elems h (r + i * v.g) 32 n

/-- Element `x` of a triple (R47). -/
def tripleElem (t : List Elems) (x : Nat) : A96 :=
  A96.ofBits ((t.mapIdx fun i p => nth p.els x 0 * 2 ^ (32 * i)).foldl (· + ·) 0)

/-- Poison of element `x` of a triple. -/
def triplePoison (t : List Elems) (x : Nat) : List Poison := t.flatMap fun p => p.poison.filter (·.elem == x)

/-- Writes a triple; parts of elements not computed keep their poison (R198). DESIGN CHOICE (log 71): all `MT`·`NT` elements, also where
their rows are shorter. -/
def putTriple (v : VCtx) (r : Nat) (xs : List A96) (poison : List (List Poison)) : M Unit := modify fun s =>
  (upFrom 0 3).foldl (fun s i =>
    s.putRow (r + i * v.g) v.grpc 2 (.plain (xs.map fun a => natBits a.toBits (32 * i) 32)) (nth poison i [])) s

/-- Whether a row operand of matrix mode lies within the registers (R197). -/
def VCtx.rowOk (v : VCtx) (n : Nat) : Bool := n % v.g == 0 && decide (n + v.g ≤ 32)

/-- Whether a triple does. -/
def VCtx.tripleOk (v : VCtx) (n : Nat) : Bool := n % v.g == 0 && decide (n + 3 * v.g ≤ 32)

/-- Whether two register ranges meet. -/
def meets (a n b m : Nat) : Bool := decide (a < b + m) && decide (b < a + n)

/-! ### MMODE lane functions (R209 to R212) -/

/-- `MZERO` (R209). -/
def runMzero (v : VCtx) (d : Reg) : M Ran := do
  let h := (← get).h
  let n := h.mt * h.nt
  putTriple v d.toNat (List.replicate n A96.zero) []
  return (laneCost v 1 [3 * n] (max 1 (ceilDiv (3 * n) (4 * v.lanes))) false, none)

/-- `MACCADD` (R210). -/
def runMaccadd (v : VCtx) (d a : Reg) : M Ran := do
  let h := (← get).h
  let n := h.mt * h.nt
  let td := v.triple h d.toNat n
  let ta := v.triple h a.toNat n
  consume v ((upFrom 0 n).map fun x => triplePoison td x ++ triplePoison ta x)
  let rs := (upFrom 0 n).map fun x => (tripleElem td x).step [⟨(tripleElem ta x).value, false⟩]
  putTriple v d.toNat (rs.map (·.1)) []
  modify (·.flag (rs.foldl (fun f r => f ||| r.2) 0))
  return (laneCost v 2 [n] (max 1 (3 * ceilDiv n (4 * v.lanes))) false, none)

/-- One element read from an accumulator into a format (R49, R211). -/
def mrdfElem (fmt : Nat) (c : RCtx) (a : A96) : EOut :=
  match Fmt.ofCode fmt with
  | some f => let r := f.convert c false a.value; if r.entry then .app r.bits r.flags else .ok r.bits r.flags
  | none => .ok 0 0

/-- `MRDF` (R211): it writes row 0 alone, which one resumed with `VSR` above 0 skips (R122). -/
def runMrdf (v : VCtx) (d a fmt : Reg) : M Ran := do
  let h := (← get).h
  let n := h.mt * h.nt
  let cost (ents : Nat) : Cost := laneCost v 1 [n + ents] (max 1 (ceilDiv n (4 * v.lanes)) + ceilDiv ents (4 * v.lanes)) false
  if h.vsr ≠ 0 then return (cost 0, none)
  let ta := v.triple h a.toNat n
  let w := fmtWidth fmt.toNat
  let old := v.elems h d.toNat w n
  let j0 := h.vsi.toNat
  consume v ((upFrom j0 (n - j0)).map (triplePoison ta))
  let (vals, fl, ents, st) ← appending (settle (fun i => appendEntry i 0 16 fmt.toNat) 0
    ((upFrom 0 n).map fun x => if x < j0 then .ok (nth old.els x 0) 0 else mrdfElem fmt.toNat v.rctx (tripleElem ta x)))
  let j := vals.length
  let res := vals ++ old.els.drop j
  let poison := old.poison.filter fun p => j ≤ p.elem || p.elem < j0
  modify fun s => (if w = 4 then s.putRow d.toNat v.grpc 0 (.plain (packNibbles res)) (poison.map fun p => { p with elem := p.elem / 2 })
    else s.putRow d.toNat v.grpc (sewcOf w) (.plain res) poison).flag fl
  if st.isSome then setResume j 0 0
  return (cost ents, st)

/-- The key that ranks an element (R212): none above every number for a NaN, else the magnitude. -/
def pruneKey (fmt x : Nat) : Option FV :=
  match Fmt.ofCode fmt with
  | some f => match f.read 0 x with
    | some (.fin _ m e) => some (.fin false m e)
    | some (.inf _) => some (.inf false)
    | _ => none
  | none => none

/-- Whether key `a` ranks strictly above key `b`. -/
def keyAbove (a b : Option FV) : Bool :=
  match a, b with
  | none, none => false
  | none, some _ => true
  | some _, none => false
  | some x, some y => y.lt x

/-- Positions kept of eight: those with fewer than four others ranking higher, a lower position first among equals. -/
def keptPositions (fmt : Nat) (xs : List Nat) : List Nat :=
  let key (i : Nat) : Option FV := pruneKey fmt (nth xs i 0)
  (upFrom 0 8).filter fun i =>
    ((upFrom 0 8).filter fun j => keyAbove (key j) (key i) || (j < i && !keyAbove (key i) (key j))).length < 4

/-- `MCMPRS` (R212). -/
def runMcmprs (v : VCtx) (d a b : Reg) : M Ran := do
  let s ← get
  let h := s.h
  let fmt := field (s.rd b) 0 5
  let w := fmtWidth fmt
  let mt := h.mt
  let n := mt * h.kt
  consume v [(v.elems h a.toNat w n).poison]
  let src := (v.elems h a.toNat w n).els
  let octs := (upFrom 0 (h.kt / 8)).flatMap fun o => (upFrom 0 mt).map fun m =>
    (upFrom 0 8).map fun p => nth src ((2 * o + p / 4) * 4 * mt + 4 * m + p % 4) 0
  let kept := octs.map fun xs => (keptPositions fmt xs, xs)
  let vals := kept.flatMap fun (ps, xs) => ps.map fun p => nth xs p 0
  let metas := kept.map fun (ps, _) => (ps.mapIdx fun j p => p * 8 ^ j).foldl (· + ·) 0
  modify fun s => (s.putRow d.toNat v.grpc (sewcOf w) (.plain vals) []).putRow (d.toNat + v.g) v.grpc 1 (.plain metas) []
  return (laneCost v 1 [n / 8] (max 1 (ceilDiv n (4 * v.lanes))) false, none)

/-! ### Tile forms (R199 to R208) -/

/-- Formats that A may have (R199). -/
def tileA (tm : Nat) : List Nat :=
  match tm with
  | 0 => [0, 4, 9, 10, 11, 12, 13]
  | 1 => [0, 9, 10, 11, 12]
  | 2 => [15]
  | _ => [0, 4, 9, 10, 11, 12]

/-- Formats that B may have (R199). -/
def tileB (tm : Nat) : List Nat :=
  match tm with
  | 1 => [0, 9, 10, 11, 12]
  | 2 => [9, 10, 11, 12, 13]
  | _ => [0, 4, 9, 10, 11, 12, 13]

/-- Integer formats. -/
def fmtInt (f : Nat) : Bool := f == 0 || f == 4

/-- 16-bit floats. -/
def fmt16 (f : Nat) : Bool := f == 9 || f == 10

/-- Rate class in bits of a pairing, none where it is not allowed (R199). -/
def tileClass (a b : Nat) : Option Nat :=
  if a = 15 then (if fmt16 b then some 16 else if b = 13 then some 4 else some 8)
  else if fmtInt a && fmtInt b then some 8
  else if fmtInt a || fmtInt b then none
  else if fmt16 a && fmt16 b then some 16
  else if fmt16 a || fmt16 b then none
  else if a = 13 && b = 13 then some 4
  else some 8

/-- Storage width of a tile operand's element: a codeword of l8 is 16 bits. -/
def tileWidth (f : Nat) : Nat := if f = 15 then 16 else fmtWidth f

/-- Element counts of R201. -/
def countA (tm mt kt : Nat) : Nat := match tm with
  | 1 => mt * kt / 2
  | 2 => mt * kt / 8
  | _ => mt * kt

/-- The row of the A scales. -/
def scaleARow (v : VCtx) (tm : Nat) (t : Tile) : Nat := if tm = 1 then t.ma.toNat + v.g else t.ma.toNat

/-- Whether A scales are on. -/
def saOn (t : Tile) : Bool := t.sae == 1

/-- Whether B scales are on. -/
def sbOn (t : Tile) : Bool := t.sbe == 1

/-- Source rows of a tile form with the bits their elements need (R200, R201). -/
def tileRows (h : Hart) (v : VCtx) (tm : Nat) (t : Tile) : List (Nat × Nat) :=
  let mt := h.mt
  let kt := h.kt
  (if t.asp = 0 then [(t.a.toNat, countA tm mt kt * tileWidth t.afmt.toNat)] else []) ++
  (if t.bsp = 0 then [(t.b.toNat, h.nt * kt * tileWidth t.bfmt.toNat)] else []) ++
  (if tm = 1 then [(t.ma.toNat, mt * kt / 8 * 16)] else []) ++
  (if saOn t then [(scaleARow v tm t, mt * kt / 4 * 8)] else []) ++
  (if sbOn t then [(t.sb.toNat, h.nt * kt / 4 * 8)] else [])

/-- The issue checks of a tile form (R199, R200). DEDUCED (log 53): R36 reserves no format code, so a code that the form does not take
is found here, after the mode (R70), and not as an encoding. -/
def tileOk (h : Hart) (v : VCtx) (tm : Nat) (t : Tile) : Bool :=
  let af := t.afmt.toNat
  let bf := t.bfmt.toNat
  let rows := tileRows h v tm t
  (tileA tm).contains af && (tileB tm).contains bf && (tileClass af bf).isSome &&
  !(fmtInt af && (saOn t || sbOn t)) &&
  (tm == 1 || saOn t || t.ma == 0) && (sbOn t || t.sb == 0) &&
  v.tripleOk t.acc.toNat && rows.all (fun r => v.rowOk r.1 && r.2 ≤ 8 * v.bytes) &&
  rows.all (fun r => !meets r.1 v.g t.acc.toNat (3 * v.g)) &&
  !(t.asp == 1 && (t.a == 0 || t.a == 31)) && !(t.bsp == 1 && (t.b == 0 || t.b == 31)) &&
  !((tm == 1 || tm == 2) && h.kt % 8 != 0) &&
  !(t.tra == 1 && !(tm == 0 && t.asp == 0 && 8 ≤ tileWidth af)) &&
  !(t.trb == 1 && (t.bsp == 1 || bf == 13)) &&
  !(tm == 3 && t.asp == 1) &&
  !h.binds.any fun b => t.acc.toNat ≤ b.reg && b.reg < t.acc.toNat + 3 * v.g

/-- Address of an element of a scratchpad operand (R202): row `r`, stored quad `u`, byte offset `o`. -/
def padAddr (base pair : Word) (r u o : Nat) : Word :=
  let c := field pair 40 4
  let skew := if c = 0 then 0 else 64 * (u % 2 ^ c)
  base + BitVec.ofNat 64 (u * field pair 16 24 + skew + r * field pair 0 16 + o)

/-- Reads of scratchpad elements in the order given: pattern and poison of each. -/
def readPad (w : Nat) : Nat → List (Option (Word × Nat)) → M Elems
  | _, [] => return ⟨[], []⟩
  | i, none :: t => do let r ← readPad w (i + 1) t; return ⟨0 :: r.els, r.poison⟩
  | i, some (va, nib) :: t => do
    let c := (← get).h.ctx
    let n := if w = 4 then 1 else w / 8
    let x ← translate c va .load (Nat.log2 n) false
    let (bs, sev) ← loadAt c va x n
    let (bs, sev) ← if sev = 2 then loadAt c va x n else pure (bs, sev)
    let r ← readPad w (i + 1) t
    return ⟨(if w = 4 then natBits (ofBytes bs) (4 * nib) 4 else ofBytes bs) :: r.els, (if sev = 2 then [⟨i, 0, n, va, none⟩] else []) ++ r.poison⟩

/-- The fault of the lowest faulting address of the scratchpad operands, if any (R202, R205, R220); each address comes with
log2 of its element's bytes. -/
def padFault (c : Ctx) (vas : List (Word × Nat)) : Option Stop :=
  let bad := vas.filter fun p => !inWindow p.1 || !c.window || 48 ≤ windowCore p.1 ||
    (!c.priv && !inPartition c.sppart (windowCore p.1) (windowOff p.1))
  match bad with
  | [] => none
  | v0 :: t =>
    let p := t.foldl (fun m x => if x.1.toNat < m.1.toNat then x else m) v0
    some (.trap Cause.page p.1 (accessInfo .load p.2 (if !inWindow p.1 || !c.window || 48 ≤ windowCore p.1 then 2 else 1)))

/-- Elements a side reads from scratchpad, in the order of R201's indices: row, stored quad and offset of each. -/
def padElems (w : Nat) (base pair : Word) (places : List (Option (Nat × Nat × Nat))) : List (Option (Word × Nat)) :=
  places.map fun p => p.map fun (r, u, j) => (padAddr base pair r u (j * w / 8), j % 2)

/-- The addresses read, each with log2 of its element's bytes. -/
def padSized (w : Nat) (els : List (Option (Word × Nat))) : List (Word × Nat) :=
  els.filterMap fun p => p.map fun e => (e.1, Nat.log2 (max 8 w / 8))

/-- Whether row `m` of the tile is active (R203). -/
def tileLive (h : Hart) (t : Tile) (m : Nat) : Bool := t.rmask == 0 || nth (h.mrow t.rmask.toNat 0).toBits m false

/-- Places of A in stored order (R201, R202). -/
def placesA (h : Hart) (tm : Nat) (t : Tile) : List (Option (Nat × Nat × Nat)) :=
  let mt := h.mt
  (upFrom 0 (countA tm mt h.kt)).map fun i =>
    let (m, u, j) := if tm = 2 then (i % mt, i / mt, 0) else (i % (4 * mt) / 4, i / (4 * mt), i % 4)
    if tileLive h t m then some (m, u, j) else none

/-- Places of B in stored order. -/
def placesB (h : Hart) : List (Option (Nat × Nat × Nat)) :=
  (upFrom 0 (h.nt * h.kt)).map fun i => some (i % (4 * h.nt) / 4, i / (4 * h.nt), i % 4)

/-- The operands of a tile form. -/
structure TileIn where
  a : Elems
  b : Elems
  md : Elems
  sa : Option Elems
  sb : Option Elems
  acc : List Elems
deriving DecidableEq, Repr

/-- Register operands of a tile form as they stand. -/
def tileRegs (h : Hart) (v : VCtx) (tm : Nat) (t : Tile) : TileIn :=
  let none0 : Elems := ⟨[], []⟩
  { a := if t.asp = 0 then v.elems h t.a.toNat (tileWidth t.afmt.toNat) (countA tm h.mt h.kt) else none0,
    b := if t.bsp = 0 then v.elems h t.b.toNat (tileWidth t.bfmt.toNat) (h.nt * h.kt) else none0,
    md := if tm = 1 then v.elems h t.ma.toNat 16 (h.mt * h.kt / 8) else none0,
    sa := if saOn t then some (v.elems h (scaleARow v tm t) 8 (h.mt * h.kt / 4)) else none,
    sb := if sbOn t then some (v.elems h t.sb.toNat 8 (h.nt * h.kt / 4)) else none,
    acc := v.triple h t.acc.toNat (h.mt * h.nt) }

/-- Sizes and formats a step needs. -/
structure TileShape where
  tm : Nat
  mt : Nat
  nt : Nat
  kt : Nat
  tra : Bool
  trb : Bool
  af : Nat
  bf : Nat
  fz : Nat
deriving DecidableEq, Repr

/-- a96 steps (R203). -/
def TileShape.steps (z : TileShape) : Nat := if z.tm = 1 then z.kt / 8 else z.kt / 4

/-- Index of A of a product (R201). -/
def TileShape.ia (z : TileShape) (m s j : Nat) : Nat :=
  match z.tm with
  | 1 => s * 4 * z.mt + 4 * m + j
  | 2 => s / 2 * z.mt + m
  | _ => if z.tra then (4 * s + j) * z.mt + m else s * 4 * z.mt + 4 * m + j

/-- Index of the metadata word of (m, octet). -/
def TileShape.im (z : TileShape) (m o : Nat) : Nat := o * z.mt + m

/-- Position `j` of a metadata word. -/
def mdPos (w j : Nat) : Nat := natBits w (3 * j) 3

/-- Depth index of a product. -/
def TileShape.k (z : TileShape) (x : TileIn) (m s j : Nat) : Nat :=
  if z.tm = 1 then 8 * s + mdPos (nth x.md.els (z.im m s) 0) j else 4 * s + j

/-- Index of B. -/
def TileShape.ib (z : TileShape) (k n : Nat) : Nat := if z.trb then k * z.nt + n else k / 4 * 4 * z.nt + 4 * n + k % 4

/-- A pattern's value as a product input. -/
def inputValue (fz f x : Nat) : FV := match Fmt.ofCode f with
  | some g => (g.read fz x).getD (.nan false)
  | none => .nan false

/-- A scale's value; 1 where scales are off. -/
def scaleValue (sc : Option Elems) (i : Nat) : FV :=
  match sc with
  | some e => (sc8Value (nth e.els i 0)).getD (.fin false 1 0)
  | none => .fin false 1 0

/-- One product of a step with the flags of its inputs (R203). -/
def tileProd (h : Hart) (z : TileShape) (x : TileIn) (m n s j : Nat) : Prod × Flags :=
  let k := z.k x m s j
  let pa := nth x.a.els (z.ia m s j) 0
  let a := if z.tm = 2 then nth (l8Components pa (h.tbEntry (pa / 256))) (4 * (s % 2) + j) (.fin false 0 0) else inputValue z.fz z.af pa
  let b := inputValue z.fz z.bf (nth x.b.els (z.ib k n) 0)
  let quad := k / 4
  let p := (a.mul b).1
  let invalid := match a, b with
    | .inf _, .fin _ 0 _ => true
    | .fin _ 0 _, .inf _ => true
    | _, _ => false
  let q := ((p.mul (scaleValue x.sa (quad * z.mt + m))).1.mul (scaleValue x.sb (quad * z.nt + n))).1
  (⟨q, invalid⟩, a.sigFlag ||| b.sigFlag)

/-- One step. -/
def tileStep (h : Hart) (z : TileShape) (x : TileIn) (m n s : Nat) (acc : A96 × Flags) : A96 × Flags :=
  let ps := (upFrom 0 4).map fun j => tileProd h z x m n s j
  let r := acc.1.step (ps.map (·.1))
  (r.1, ps.foldl (fun f p => f ||| p.2) (acc.2 ||| r.2))

/-- An accumulator element after every step. -/
def tileElem (h : Hart) (z : TileShape) (x : TileIn) (m n : Nat) : A96 × Flags :=
  (upFrom 0 z.steps).foldl (fun acc s => tileStep h z x m n s acc) (tripleElem x.acc (m * z.nt + n), 0)

/-- SEV2 of an element still poisoned. -/
def elemSev (e : Elems) (i : Nat) : Option Stop := (e.poison.find? (·.elem == i)).map poisonStop

/-- RESCODE on a reserved scale (R205). -/
def scaleFault (side : Nat) (e : Elems) (i quad m : Nat) : Option Stop :=
  match elemSev e i with
  | some st => some st
  | none =>
    let c := nth e.els i 0
    if 0xFC ≤ c then some (.trap Cause.rescode (BitVec.ofNat 64 c) (BitVec.ofNat 64 (side + quad * 2 ^ 8 + m * 2 ^ 16))) else none

/-- Whether a metadata word is in order (R204). -/
def mdOk (w : Nat) : Bool := w < 2 ^ 12 && mdPos w 0 < mdPos w 1 && mdPos w 1 < mdPos w 2 && mdPos w 2 < mdPos w 3

/-- The first of some stops. -/
def firstStop : List (Option Stop) → Option Stop
  | [] => none
  | some e :: _ => some e
  | none :: t => firstStop t

/-- A-side data faults of a step in row `m` (R204, R205). -/
def faultA (h : Hart) (z : TileShape) (x : TileIn) (m s : Nat) : Option Stop :=
  let md := nth x.md.els (z.im m s) 0
  let word := nth x.a.els (z.ia m s 0) 0
  firstStop (
    (if z.tm = 1 then [elemSev x.md (z.im m s),
      if mdOk md then none else some (.trap Cause.metaData (BitVec.ofNat 64 md) (BitVec.ofNat 64 (m + s * 2 ^ 8)))] else []) ++
    (upFrom 0 4).map (fun j => elemSev x.a (z.ia m s j)) ++
    (if z.tm = 2 && h.tbn ≤ word / 256
      then [some (.trap Cause.rescode (BitVec.ofNat 64 word) (BitVec.ofNat 64 (3 + s / 2 * 2 ^ 8 + m * 2 ^ 16)))] else []) ++
    (match x.sa with
      | some e => (upFrom 0 4).map fun j => let q := z.k x m s j / 4; scaleFault 1 e (q * z.mt + m) q m
      | none => []))

/-- B-side data faults of a step in column `n`, for the active rows. -/
def faultB (z : TileShape) (x : TileIn) (live : List Nat) (n s : Nat) : Option Stop :=
  firstStop (live.flatMap fun m => (upFrom 0 4).flatMap fun j =>
    let k := z.k x m s j
    [elemSev x.b (z.ib k n), x.sb.bind fun e => scaleFault 2 e (k / 4 * z.nt + n) (k / 4) n])

/-- The first data fault of a tile form: accumulators, then steps ascending, A before B (R205). -/
def tileFault (h : Hart) (z : TileShape) (x : TileIn) (live : List Nat) : Option Stop :=
  firstStop ((live.flatMap fun m => (upFrom 0 z.nt).map fun n => (triplePoison x.acc (m * z.nt + n)).head?.map poisonStop) ++
    (upFrom 0 z.steps).flatMap fun s => live.map (fun m => faultA h z x m s) ++ (upFrom 0 z.nt).map fun n => faultB z x live n s)

/-- Poisoned elements of the register operands that active rows use. -/
def tileUsed (z : TileShape) (x : TileIn) (live : List Nat) : List Poison :=
  let rowA (i : Nat) : Bool := live.contains (if z.tm = 2 || z.tra then i % z.mt else i % (4 * z.mt) / 4)
  x.a.poison.filter (fun p => rowA p.elem) ++ x.b.poison ++ x.md.poison.filter (fun p => live.contains (p.elem % z.mt)) ++
    ((x.sa.map (·.poison)).getD []).filter (fun p => live.contains (p.elem % z.mt)) ++ (x.sb.map (·.poison)).getD [] ++
    live.flatMap fun m => (upFrom 0 z.nt).flatMap fun n => triplePoison x.acc (m * z.nt + n)

/-- The scratchpad pairs of a tile form: its first register, and 1 for A or 2 for B (R202). -/
def tileSides (t : Tile) : List (Reg × Nat) := (if t.asp = 1 then [(t.a, 1)] else []) ++ (if t.bsp = 1 then [(t.b, 2)] else [])

/-- The first scratchpad pair whose second register raises OPND; it is read at issue (R202). -/
def tileBadPair (s : State) (t : Tile) : Option (Reg × Nat) :=
  (tileSides t).find? fun p => field (s.rd (p.1 + 1)) 44 20 != 0 || decide (4 < field (s.rd (p.1 + 1)) 40 4)

/-- ALIGN of a scratchpad pair (R202). -/
def pairAlign (s : State) (r : Reg) : Option Stop :=
  let pair := s.rd (r + 1)
  if (s.rd r).toNat % 4 != 0 || field pair 0 16 % 4 != 0 || field pair 16 24 % 4 != 0
  then some (.trap Cause.align (s.rd r) (accessInfo .load 2 0)) else none

/-- The operands of a tile form as they stand: registers, and the scratchpad elements at the addresses given (R202). -/
def tileIns (v : VCtx) (tm : Nat) (t : Tile) (va vb : List (Option (Word × Nat))) : M TileIn := do
  let pa ← readPad (tileWidth t.afmt.toNat) 0 va
  let pb ← readPad (tileWidth t.bfmt.toNat) 0 vb
  let x := tileRegs (← get).h v tm t
  return { x with a := if t.asp = 1 then pa else x.a, b := if t.bsp = 1 then pb else x.b }

/-- Cost of a tile form with `a` active rows (R207, R208). -/
def tileCost (v : VCtx) (h : Hart) (z : TileShape) (t : Tile) (a : Nat) : Cost :=
  let cls := (tileClass t.afmt.toNat t.bfmt.toNat).getD 8
  let nd := match h.readAny t.a.toNat (tileWidth t.afmt.toNat) v.grpc v.lg with
    | (some (.dict es _), _, _) => es.length
    | _ => a
  let prods := (if z.tm = 3 then min nd a else a) * h.nt * h.kt / (if z.tm = 1 then 2 else 1)
  let cycles := if cls = 16 then 4 * z.steps else if cls = 8 then z.steps else ceilDiv z.steps 2
  ⟨[a * h.nt * z.steps], ceilDiv (prods * (cls / 2)) 64, cycles, 6, 0, 0, prods, cycles⟩

/-- The sizes and formats of a tile form on a hart. -/
def Hart.shape (h : Hart) (v : VCtx) (tm : Nat) (t : Tile) : TileShape :=
  ⟨tm, h.mt, h.nt, h.kt, t.tra == 1, t.trb == 1, t.afmt.toNat, t.bfmt.toNat, v.rctx.fz⟩

/-- Element addresses of a tile form's scratchpad operands (R202). -/
def tilePads (s : State) (tm : Nat) (t : Tile) (live : List Nat) : List (Option (Word × Nat)) × List (Option (Word × Nat)) :=
  (if t.asp = 1 then padElems (tileWidth t.afmt.toNat) (s.rd t.a) (s.rd (t.a + 1)) (placesA s.h tm t) else [],
   if t.bsp = 1 then padElems (tileWidth t.bfmt.toNat) (s.rd t.b) (s.rd (t.b + 1)) (if live.isEmpty then [] else placesB s.h) else [])

/-- The fault of a tile form's scratchpad operands, alignment before addresses, which comes before it dispatches (R70, R202). -/
def tilePadFault (s : State) (t : Tile) (va vb : List (Option (Word × Nat))) : Option Stop :=
  firstStop ((tileSides t).map (fun p => pairAlign s p.1) ++
    [padFault s.h.ctx (padSized (tileWidth t.afmt.toNat) va ++ padSized (tileWidth t.bfmt.toNat) vb)])

/-- Runs a tile form with `MT` and `KT` both nonzero (R203 to R208). Poisoned elements it uses are read once more, those of the
scratchpad with every run (R186, R205). -/
def runTile (v : VCtx) (tm : Nat) (t : Tile) : M Ran := do
  let s ← get
  let h := s.h
  let z := h.shape v tm t
  let live := (upFrom 0 h.mt).filter (tileLive h t)
  let (va, vb) := tilePads s tm t live
  match tilePadFault s t va vb with
  | some e => throw e
  | none => pure ()
  let x ← tileIns v tm t va vb
  replay v (tileUsed z x live)
  if v.look != .blind then
    match tileFault h z x live with
    | some e => throw e
    | none => pure ()
  let rs := (upFrom 0 h.mt).flatMap fun m => (upFrom 0 h.nt).map fun n =>
    if tileLive h t m then tileElem h z x m n else (tripleElem x.acc (m * h.nt + n), 0)
  putTriple v t.acc.toNat (rs.map (·.1)) (x.acc.map fun e => e.poison.filter fun p => !tileLive h t (p.elem / h.nt))
  modify (·.flag (rs.foldl (fun f r => f ||| r.2) 0))
  return (tileCost v h z t live.length, none)

end Sys2Proof.Machine
end

