-- ==== Sys2Proof/Machine/VIssue.lean ====
section
/-! DEFINITION. The vector instruction queue: stream bindings and strips (R188 to R190, R206), issue checks (R70, R113,
R136), tokens (R156, R187), the damper and the dispatch gate (R183, R236), the check of a result (R185), retirement, and accesses
performed late (R139). -/

namespace Sys2Proof.Machine

/-! ### Stream bindings (R188 to R190) -/

/-- Reads a doubleword of a stream record as a vector load. -/
def recordRead (a : Word) : M Word := do
  let c := (← get).h.ctx
  let x ← translate c a .load 3
  let (bs, sev) ← loadAt c a x 8
  let (bs, sev) ← if sev = 2 then loadAt c a x 8 else pure (bs, sev)
  if sev = 2 then raise Cause.sev2 a (accessInfo .load 3 0)
  sevFlag sev
  return BitVec.ofNat 64 (ofBytes bs)

/-- The record a register is bound to. -/
def Hart.boundTo (h : Hart) (n : Nat) : Option Word := (h.binds.find? (·.reg == n)).map (·.record)

/-- `VBIND` (R188). -/
def runBind (d : Reg) (a : Word) : M Unit := do
  if a.toNat % 8 ≠ 0 then raise Cause.align a (accessInfo .load 3 0)
  let _ ← recordRead a
  let _ ← recordRead (a + 8)
  let _ ← recordRead (a + 16)
  let cfg ← recordRead (a + 24)
  if field cfg 4 60 ≠ 0 then raise Cause.opnd cfg 1
  modify fun s => { s with h := { s.h with binds := s.h.binds.filter (·.reg != d.toNat) ++ [⟨d.toNat, a⟩] } }

/-- `VUNBIND` (R188). -/
def runUnbind (d : Reg) : M Unit := modify fun s => { s with h := { s.h with binds := s.h.binds.filter (·.reg != d.toNat) } }

/-- A bound source of an instruction: register, record, elements a strip covers before division by 2^d. -/
structure Feed where
  reg : Nat
  record : Word
  n : Nat
deriving DecidableEq, Repr

/-- The bound sources among named ones; a register named twice counts once, as it stands first (R189). -/
def Hart.feeds (h : Hart) : List Nat → List (Nat × Nat) → List Feed
  | _, [] => []
  | seen, (r, n) :: t =>
    if seen.contains r then h.feeds seen t
    else match h.boundTo r with
      | some a => ⟨r, a, n⟩ :: h.feeds (r :: seen) t
      | none => h.feeds (r :: seen) t

/-- A stream while its strips are taken: `ADDR`, `LEFT`, granules and VMU cycles. -/
structure Fed where
  addr : Word
  left : Word
  gran : Nat
  cycles : Nat
deriving DecidableEq, Repr

/-- Takes the strips of one stream, row after row (R189). -/
def takeStrips (v : VCtx) (f : Feed) (wc m : Nat) (step : Word) : List Nat → Fed → M Fed
  | [], x => return x
  | q :: t, x => do
    if x.left = 0 then
      modify (·.putRow (f.reg + q * v.g) v.grpc wc (.plain []) [])
      takeStrips v f wc m step t x
    else
      let els : List El := (upFrom 0 m).map fun i => ⟨q, i, x.addr + BitVec.ofNat 64 (i * 2 ^ wc)⟩
      probeAlign .load wc els
      probePages .load wc els
      let got ← loadEls (2 ^ wc) false false [] true els
      modify (·.putRow (f.reg + q * v.g) v.grpc wc (.plain (got.map (·.x))) (got.flatMap (·.poison)))
      takeStrips v f wc m step t
        ⟨x.addr + (if step = 0 then BitVec.ofNat 64 (m * 2 ^ wc) else step), x.left - 1,
          x.gran + ceilDiv (m * 2 ^ wc) 32, x.cycles + vmuCycles .ld false true els⟩

/-- A record to be written back. -/
structure WriteBack where
  record : Word
  fed : Fed
  /-- A strip was taken. -/
  taken : Bool
deriving DecidableEq, Repr

/-- Delivers one stream's strips to its register (R189, R190); the record is probed for the write that will follow. -/
def deliverFeed (v : VCtx) (rows : Nat) (f : Feed) : M WriteBack := do
  let addr ← recordRead f.record
  let step ← recordRead (f.record + 8)
  let left ← recordRead (f.record + 16)
  let cfg ← recordRead (f.record + 24)
  let x ← takeStrips v f (field cfg 0 2) (ceilDiv f.n (2 ^ field cfg 2 2)) step (upFrom 0 rows) ⟨addr, left, 0, 0⟩
  if left ≠ 0 then
    let c := (← get).h.ctx
    let _ ← translate c f.record .store 3 false
    let _ ← translate c (f.record + 16) .store 3 false
  return ⟨f.record, x, left != 0⟩

/-- Delivers every stream. -/
def deliverFeeds (v : VCtx) (rows : Nat) : List Feed → M (List WriteBack)
  | [] => return []
  | f :: t => do
    let w ← deliverFeed v rows f
    return w :: (← deliverFeeds v rows t)

/-- Writes one doubleword as a vector store. -/
def recordWrite (a v : Word) : M Unit := do
  let c := (← get).h.ctx
  let x ← translate c a .store 3
  storeAt c a x (toBytes 8 v.toNat)

/-- Writes `ADDR` and `LEFT` back (R189); a stream at its end keeps its record. -/
def writeBacks : List WriteBack → M Unit
  | [] => return ()
  | w :: t => do
    if w.taken then
      recordWrite w.record w.fed.addr
      recordWrite (w.record + 16) w.fed.left
    writeBacks t

/-! ### What an instruction names -/

/-- The second operand's register where it is a vector. -/
def Second.reg : Second → List Nat
  | .vec b => [b.toNat]
  | _ => []

/-- Base registers of vector sources of `vl` elements a row (R189). -/
def VOp.sources : VOp → List Nat
  | .int _ _ a b _ _ => a.toNat :: b.reg
  | .flt _ _ a b _ _ => a.toNat :: b.reg
  | .cmp _ _ a b _ => a.toNat :: b.reg
  | .kop .fromv _ a _ => [a.toNat]
  | .kop .blk _ a _ => [a.toNat]
  | .kop _ _ _ _ => []
  | .red _ _ a _ => [a.toNat]
  | .perm .splat _ _ _ _ _ => []
  | .perm .iota _ _ _ _ _ => []
  | .perm .ins _ _ _ _ _ => []
  | .perm .rgath _ a b _ _ => [a.toNat, b.toNat]
  | .perm _ _ a _ _ _ => [a.toNat]
  | .cvt _ a _ _ _ _ => [a.toNat]
  | .tab .tabst _ _ _ _ _ => []
  | .tab _ _ a _ _ _ => [a.toNat]
  | .mem op d _ b _ _ _ _ => (if op.loads then [] else [d.toNat]) ++ (if op.indexed then [b.toNat] else [])
  | _ => []

/-- Named sources with the elements that a strip covers (R189, R206). -/
def VOp.named (h : Hart) (v : VCtx) (op : VOp) : List (Nat × Nat) :=
  match op with
  | .mat .mrdf _ a _ => (upFrom 0 3).map fun i => (a.toNat + i * v.g, h.mt * h.nt)
  | .mat .maccadd _ a _ => (upFrom 0 3).map fun i => (a.toNat + i * v.g, h.mt * h.nt)
  | .mat .mcmprs _ a _ => [(a.toNat, h.mt * h.kt)]
  | .tile tm t =>
    (if t.asp = 0 then [(t.a.toNat, h.mt * h.kt)] else []) ++
    (if t.bsp = 0 then [(t.b.toNat, h.nt * h.kt)] else []) ++
    (if tm = 1 then [(t.ma.toNat, h.mt * h.kt)] else []) ++
    (if saOn t then [(scaleARow v tm.toNat t, h.mt * h.kt)] else []) ++
    (if sbOn t then [(t.sb.toNat, h.nt * h.kt)] else [])
  | op => op.sources.map fun r => (r, v.vl)

/-- Rows a stream feeds: one for the matrix unit, `rc` otherwise. -/
def VOp.feedRows (v : VCtx) : VOp → Nat
  | .mat _ _ _ _ => 1
  | .tile _ _ => 1
  | _ => v.rc

/-- Whether an instruction retires at the sequencer (R123, R158, R185, R200). -/
def VOp.idle (h : Hart) (v : VCtx) (op : VOp) : Bool :=
  match op with
  | .mat .settile _ _ _ => false
  | .mat _ _ _ _ => h.mt == 0
  | .tile _ _ => h.mt == 0 || h.kt == 0
  | .mem op _ _ _ _ _ _ _ => v.vl == 0 || (op.box && h.boxEmpty)
  | .bind _ _ => false
  | .unbind _ => false
  | .tkpost _ => false
  | .tkwait _ => false
  | _ => v.vl == 0

/-! ### Issue checks -/

/-- Whether no register of a destination is bound (R189). -/
def Hart.unbound (h : Hart) (n len : Nat) : Bool := !h.binds.any fun b => n ≤ b.reg && b.reg < n + len

/-- A destination of `rc` rows. -/
def destOk (h : Hart) (v : VCtx) (d : Nat) : Bool := v.rowsOk d && h.unbound d (v.rc * v.g)

/-- The elementwise sharing rule (R113). -/
def alignedWith (v : VCtx) (d a : Nat) : Bool := d == a || !v.shares d a

/-- A mask destination: `k1` to `k7` (R23). -/
def maskDest (d : Reg) : Bool := d != 0 && decide (d.toNat < 8)

/-- SEW 16 or 32 (R125). -/
def VCtx.floats (v : VCtx) : Bool := v.sewc == 1 || v.sewc == 2

/-- Formats that `MCMPRS` ranks (R212). -/
def pruneFmt (f : Nat) : Bool := [0, 9, 10, 11, 12].contains f

/-- Operand legality at issue that raises ILLOP (R12, R26, R113, R125 to R136, R189, R197 to R212). -/
def VOp.legal (s : State) (v : VCtx) (op : VOp) : Bool :=
  let h := s.h
  match op with
  | .int _ d a b _ _ =>
    destOk h v d.toNat && (a.toNat :: b.reg).all fun n => v.rowsOk n && alignedWith v d.toNat n
  | .flt _ d a b _ _ =>
    v.floats && destOk h v d.toNat && (a.toNat :: b.reg).all fun n => v.rowsOk n && alignedWith v d.toNat n
  | .cmp op d a b _ => maskDest d && (!op.fp || v.floats) && (a.toNat :: b.reg).all v.rowsOk
  | .kop .tov d _ _ => destOk h v d.toNat
  | .kop .fromv d a _ => maskDest d && v.rowsOk a.toNat
  | .kop .blk d a _ => maskDest d && v.rowsOk a.toNat
  | .kop .pop _ _ _ => true
  | .kop .first _ _ _ => true
  | .kop .enc d _ b => maskDest d && decide (b.toNat ≤ 1)
  | .kop _ d _ _ => maskDest d
  | .red op d a _ =>
    (!op.fp || v.floats) && v.rowsOk a.toNat &&
    (if op.scans then destOk h v d.toNat
     else v.rowOk d.toNat && h.unbound d.toNat v.g && !meets d.toNat v.g a.toNat (v.rc * v.g))
  | .perm .einfo _ _ _ _ _ => true
  | .perm .extr _ a _ _ _ => v.rowsOk a.toNat
  | .perm .ins d _ _ _ _ => destOk h v d.toNat
  | .perm .splat d _ _ _ _ => destOk h v d.toNat
  | .perm .iota d _ _ _ _ => destOk h v d.toNat
  | .perm .mov d a _ _ _ => destOk h v d.toNat && v.rowsOk a.toNat
  | .perm .enc d a _ _ _ => destOk h v d.toNat && v.rowsOk a.toNat
  | .perm .rgath d a b _ _ => destOk h v d.toNat && [a.toNat, b.toNat].all fun n => v.rowsOk n && !v.shares d.toNat n
  | .perm _ d a _ _ _ => destOk h v d.toNat && v.rowsOk a.toNat && !v.shares d.toNat a.toNat
  | .cvt d a dst _ _ src =>
    decide (src.toNat ≤ 14) && decide (dst.toNat ≤ 14) &&
    decide (max (max 8 (fmtWidth src.toNat)) (fmtWidth dst.toNat) ≤ v.sew) &&
    destOk h v d.toNat && v.rowsOk a.toNat && alignedWith v d.toNat a.toNat
  | .tab .tabld _ a _ k e => v.sewc == 2 && k == 0 && !e && v.rowOk a.toNat
  | .tab .tabst d _ _ k e => v.sewc == 2 && k == 0 && !e && v.rowOk d.toNat && h.unbound d.toNat v.g
  | .tab .latd d a _ _ _ => destOk h v d.toNat && v.rowsOk a.toNat
  | .tab .dictg d a _ _ _ => v.sewc == 2 && destOk h v d.toNat && v.rowsOk a.toNat
  | .mem op d _ b _ _ _ _ =>
    (if op.loads then destOk h v d.toNat else v.rowsOk d.toNat) &&
    (!op.indexed || (v.rowsOk b.toNat && (!op.loads || !v.shares d.toNat b.toNat) &&
      decide (v.vl * h.indexWidth b.toNat ≤ 8 * v.bytes))) &&
    (op != .scfadd || v.floats) &&
    (!op.box || (decide (h.dlen 0 ≤ v.vl) && decide (h.dlen 1 * h.dlen 2 ≤ v.rc)))
  | .mat .settile _ _ _ => true
  | .mat .mzero d _ _ => v.tripleOk d.toNat && h.unbound d.toNat (3 * v.g)
  | .mat .maccadd d a _ =>
    v.tripleOk d.toNat && v.tripleOk a.toNat && h.unbound d.toNat (3 * v.g) &&
    (d == a || !meets d.toNat (3 * v.g) a.toNat (3 * v.g))
  | .mat .mrdf d a f =>
    decide (f.toNat ≤ 14) && v.rowOk d.toNat && v.tripleOk a.toNat && h.unbound d.toNat v.g &&
    !meets d.toNat v.g a.toNat (3 * v.g)
  | .mat .mcmprs d a b =>
    v.rowOk a.toNat && v.rowOk d.toNat && v.rowOk (d.toNat + v.g) && h.unbound d.toNat (2 * v.g) &&
    !meets a.toNat v.g d.toNat (2 * v.g) && h.mt != 0 && h.kt % 8 == 0 &&
    (!pruneFmt (field (s.rd b) 0 5) || decide (h.mt * h.kt * fmtWidth (field (s.rd b) 0 5) ≤ 8 * v.bytes))
  | .tile tm t => tileOk h v tm.toNat t
  | .bind d _ => decide (h.binds.length < 4) || (h.boundTo d.toNat).isSome
  | .unbind _ => true
  | .tkpost f => decide (f.toNat < 6)
  | .tkwait f => decide (f.toNat < 6)

/-- Operand values at issue that raise OPND: the value and its field (R127, R129, R130, R132, R202, R212). -/
def VOp.badValue (s : State) (v : VCtx) (op : VOp) : Option (Word × Word) :=
  let pick (b : Reg) (bad : Bool) : Option (Word × Word) := if bad then some (s.rd b, 2) else none
  match op with
  | .kop .blk _ _ b => pick b (field (s.rd b) 0 16 == 0 || field (s.rd b) 16 48 != 0)
  | .perm .extr _ _ b _ _ => pick b (field (s.rd b) 21 43 != 0 || decide (v.rc ≤ field (s.rd b) 16 5))
  | .perm .ins _ _ b _ _ =>
    pick b (field (s.rd b) 21 43 != 0 || decide (v.rc ≤ field (s.rd b) 16 5) || decide (v.vl ≤ field (s.rd b) 0 16))
  | .perm .enc _ _ b _ _ => pick b (decide (4 < (s.rd b).toNat))
  | .tab .latd _ _ b _ _ => pick b (latdFmt v (s.rd b)).isNone
  | .mat .mcmprs _ _ b => pick b (field (s.rd b) 5 59 != 0 || !pruneFmt (field (s.rd b) 0 5))
  | .tile _ t => if op.idle s.h v then none else (tileBadPair s t).map fun p => (s.rd (p.1 + 1), BitVec.ofNat 64 p.2)
  | _ => none

/-- Whether the mode forbids an instruction (R69). -/
def VOp.wrongMode (mm : Bool) : VOp → Bool
  | .int _ _ _ _ _ _ => mm
  | .flt _ _ _ _ _ _ => mm
  | .cmp _ _ _ _ _ => mm
  | .red _ _ _ _ => mm
  | .mat _ _ _ _ => !mm
  | .tile _ _ => !mm
  | _ => false

/-! ### Effects -/

/-- A cost of nothing: bindings and `SETTILE` charge 0 (R183). -/
def Cost.zero : Cost := ⟨[], 0, 0, 0, 0, 0, 0, 0⟩

/-- What an instruction that reaches the lanes or the VMU does (R112, R137 to R155, R188, R195 to R212). -/
def vectorEffect (v : VCtx) (wi : Nat) (op : VOp) : M Ran := do
  let s ← get
  match op with
  | .int op d a b k e => (ewInt s v op d a b k e).run v
  | .flt op d a b k e => (ewFloat s v op d a b k e).run v
  | .cmp op d a b k => (ewCmp s v op d a b k).run v
  | .kop op d a b => runKop v op d a b
  | .red op d a k => runRed v op d a k
  | .perm op d a b k e => runPerm v op d a b k e
  | .cvt d a dst k e src => (ewCvt v d a src.toNat dst.toNat k e).run v
  | .tab op d a b k e => runTab v op d a b k e
  | .mem op d a b k o _ x => runMem v op d a b wi k o x
  | .mat .settile d a b => do runSettile v d a b; return (Cost.zero, none)
  | .mat .mzero d _ _ => runMzero v d
  | .mat .maccadd d a _ => runMaccadd v d a
  | .mat .mrdf d a f => runMrdf v d a f
  | .mat .mcmprs d a b => runMcmprs v d a b
  | .tile tm t => runTile v tm.toNat t
  | .bind d a => do runBind d (s.rd a); return (Cost.zero, none)
  | .unbind d => do runUnbind d; return (Cost.zero, none)
  | .tkpost _ => return (Cost.zero, none)
  | .tkwait _ => return (Cost.zero, none)

/-- What an instruction that retires at the sequencer does (R123, R129, R148). -/
def emptyEffect (v : VCtx) (op : VOp) : M Unit :=
  match op with
  | .kop op d _ _ => kopEmpty op d
  | .red op d _ _ => redEmpty v op d
  | .perm op d a _ _ _ => permEmpty op d a
  | .mem op _ a b _ _ _ _ => memEmpty op a b
  | _ => return ()

/-- Index register of an indexed form. -/
def VOp.index : VOp → Nat
  | .mem _ _ _ b _ _ _ _ => b.toNat
  | _ => 0

/-- Something an instruction does with the strips it takes, which come before it (R189); resumed, it takes none. -/
def withStrips {α : Type} (v : VCtx) (op : VOp) (m : Nat → M α) : M (α × List WriteBack) := do
  let h := (← get).h
  let ws ← if h.resumed then pure [] else deliverFeeds v (op.feedRows v) (h.feeds [] (op.named h v))
  let r ← m (h.indexWidth op.index)
  return (r, ws)

/-- An instruction with its strips, which are written back as it commits and stay taken where it stops element-exactly (R189). -/
def fedEffect (v : VCtx) (op : VOp) : M Ran := do
  let ((c, st), ws) ← withStrips v op fun wi => vectorEffect v wi op
  writeBacks ws
  let gran := ws.foldl (fun n w => n + w.fed.gran) 0
  let cyc := ws.foldl (fun n w => n + w.fed.cycles) 0
  return ({ c with vmu := c.vmu + gran, span := c.span + ceilDiv cyc 2 }, st)

/-- An instruction stopped before its element `n` (R157), with its strips; false where it cannot stop there. -/
def cutEffect (v : VCtx) (op : VOp) (n : Nat) : M Bool := do
  let (cut, ws) ← withStrips v op fun wi => match op with
    | .mem op d a b k o _ _ => if op.cuts then runCut v op d a b wi k o n else return false
    | _ => return false
  writeBacks ws
  return cut

/-! ### Tokens (R156, R187) -/

/-- Tokens of a FIFO. -/
def Hart.token (h : Hart) (f : Nat) : Nat := (h.tokens[f]?).getD 0

/-- Sets a FIFO's count. -/
def State.setToken (s : State) (f n : Nat) : State := { s with h := { s.h with tokens := s.h.tokens.setIfInBounds f n } }

/-- The FIFO an instruction takes a token from before it dispatches; a resumed one takes none again. -/
def VOp.takes (h : Hart) (op : VOp) : Option Nat :=
  match op with
  | .mem _ _ _ _ _ _ _ _ => if h.resumed then none else op.fifo
  | op => op.fifo

/-- The FIFO an instruction posts to when it completes. -/
def VOp.posts : VOp → Option Nat
  | .mem _ _ _ _ _ _ tok _ => if tok.getLsbD 1 then some 4 else none
  | .tkpost f => some f.toNat
  | _ => none

/-- Posts a token; one that finds 15 waits in its own stream (R187). -/
def State.post (s : State) (f : Nat) : State :=
  if 15 ≤ s.h.token f then { s with h := { s.h with pend := s.h.pend ++ [f] } } else s.setToken f (s.h.token f + 1)

/-- Takes a token; a post that waits for the room is made (R187). -/
def State.take (s : State) (f : Nat) : State :=
  if s.h.pend.contains f then { s with h := { s.h with pend := s.h.pend.filter (· != f) } } else s.setToken f (s.h.token f - 1)

/-- Whether a post that waits holds an instruction's stream: posts of the VMU go to `ms` and `ml`, those of the lanes to `ls` and
`lm`; a `TKWAIT` belongs to neither (R177, R187). -/
def VOp.streamHeld (h : Hart) (op : VOp) : Bool :=
  let vmu := h.pend.any (4 ≤ ·)
  let lanes := h.pend.any fun f => f == 2 || f == 3
  match op with
  | .mem _ _ _ _ _ _ _ _ => vmu
  | .bind _ _ => vmu
  | .unbind _ => vmu
  | .tkpost f => if 4 ≤ f.toNat then vmu else lanes
  | .tkwait _ => false
  | _ => lanes

/-- Whether an instruction must wait for a token, or behind a post of its stream. -/
def VOp.tokenBlocked (h : Hart) (op : VOp) : Bool :=
  op.streamHeld h || (match op.takes h with | some f => h.token f == 0 | none => false)

/-- Takes the token that an instruction waits for. -/
def State.takeToken (s : State) (op : VOp) : State :=
  match op.takes s.h with
  | some f => s.take f
  | none => s

/-- Posts the token. -/
def State.postToken (s : State) (op : VOp) : State :=
  match op.posts with
  | some f => s.post f
  | none => s

/-! ### Gate, damper and draw (R183, R184, R233, R236) -/

/-- A charge spread evenly over `len` lane cycles from place `start` of the current window on: this window's part, then later
ones' (R233). -/
def spread (charge start len : Nat) : List Rat :=
  let n := max 1 len
  if charge = 0 then []
  else (upFrom 0 ((start + n - 1) / 64 + 1)).map fun j =>
    ((charge * (min (start + n) (64 * j + 64) - max start (64 * j)) : Nat) : Rat) / (n : Rat)

/-- Sums of two lists, the longer one going on. -/
def addLists : List Rat → List Rat → List Rat
  | [], l => l
  | l, [] => l
  | a :: s, b :: t => (a + b) :: addLists s t

/-! ### Lane time (R184) -/

/-- Register groups from a base register on, as numbers of resources. -/
def VCtx.regs (v : VCtx) (rows base : Nat) : List Nat := upFrom base (rows * v.g)

/-- A mask register as a resource. -/
def maskRes (k : Nat) : List Nat := if k = 0 then [] else [32 + k]

/-- `TB` as a resource. -/
def tableRes : List Nat := [64]

/-- The triple of a tile form as a resource beside its registers: a tile form that names it again waits only for the lanes, any
other reader for the end (R207). -/
def tripleRes (n : Nat) : Nat := 128 + n

/-- Whether a tile form or an MMODE function has written a triple register. -/
def VOp.isTile : VOp → Bool
  | .tile _ _ => true
  | _ => false

/-- What a lane instruction reads that an earlier one may have written. -/
def VOp.laneReads (h : Hart) (v : VCtx) (op : VOp) : List Nat :=
  let rows (n : Nat) : List Nat := v.regs v.rc n
  let any (l : List Nat) : List Nat := l ++ l.map tripleRes
  match op with
  | .int o d _ _ k _ =>
    any (op.sources.flatMap rows ++ (if o == .macc || k != 0 then rows d.toNat else [])) ++ maskRes k.toNat
  | .flt o d _ _ k _ =>
    any (op.sources.flatMap rows ++ (if o == .fma || o == .fnms || k != 0 then rows d.toNat else [])) ++ maskRes k.toNat
  | .cmp _ d _ _ k => any (op.sources.flatMap rows) ++ maskRes k.toNat ++ (if k != 0 then maskRes d.toNat else [])
  | .kop .fromv _ a _ => any (rows a.toNat)
  | .kop .blk _ a _ => any (rows a.toNat)
  | .kop .lt _ _ _ => []
  | .kop .enc _ a _ => maskRes a.toNat
  | .kop _ _ a b => maskRes a.toNat ++ maskRes b.toNat
  | .red _ _ a k => any (rows a.toNat) ++ maskRes k.toNat
  | .perm .einfo _ a _ _ _ => any [a.toNat]
  | .perm .ins d _ _ _ _ => any (rows d.toNat)
  | .perm o d _ _ k _ => any (op.sources.flatMap rows ++ (if k != 0 && o != .cmprs || o == .slup then rows d.toNat else [])) ++ maskRes k.toNat
  | .cvt d a _ k _ _ => any (rows a.toNat ++ (if k != 0 then rows d.toNat else [])) ++ maskRes k.toNat
  | .tab .tabld _ a _ _ _ => any (v.regs 1 a.toNat)
  | .tab .tabst _ _ _ _ _ => tableRes
  | .tab _ d a _ k _ => any (rows a.toNat ++ (if k != 0 then rows d.toNat else [])) ++ maskRes k.toNat ++ tableRes
  | .mem o d _ _ k _ _ _ => if o.loads then [] else any (rows d.toNat) ++ maskRes k.toNat
  | .mat .mrdf _ a _ => any (v.regs 3 a.toNat)
  | .mat .maccadd d a _ => any (v.regs 3 d.toNat ++ v.regs 3 a.toNat)
  | .mat .mcmprs _ a _ => any (v.regs 1 a.toNat)
  | .tile tm t =>
    any ((tileRows h v tm.toNat t).flatMap fun r => v.regs 1 r.1) ++ v.regs 3 t.acc.toNat ++ maskRes t.rmask.toNat ++
      (if tm = 2 then tableRes else [])
  | _ => []

/-- What a lane instruction writes. -/
def VOp.laneWrites (v : VCtx) (op : VOp) : List Nat :=
  let rows (n : Nat) : List Nat := v.regs v.rc n
  match op with
  | .int _ d _ _ _ _ => rows d.toNat
  | .flt _ d _ _ _ _ => rows d.toNat
  | .cmp _ d _ _ _ => maskRes d.toNat
  | .kop .tov d _ _ => rows d.toNat
  | .kop .pop _ _ _ => []
  | .kop .first _ _ _ => []
  | .kop _ d _ _ => maskRes d.toNat
  | .red o d _ _ => if o.scans then rows d.toNat else v.regs 1 d.toNat
  | .perm .einfo _ _ _ _ _ => []
  | .perm .extr _ _ _ _ _ => []
  | .perm _ d _ _ _ _ => rows d.toNat
  | .cvt d _ _ _ _ _ => rows d.toNat
  | .tab .tabld _ _ _ _ _ => tableRes
  | .tab .tabst d _ _ _ _ => v.regs 1 d.toNat
  | .tab _ d _ _ _ _ => rows d.toNat
  | .mat .mzero d _ _ => v.regs 3 d.toNat
  | .mat .maccadd d _ _ => v.regs 3 d.toNat
  | .mat .mrdf d _ _ => v.regs 1 d.toNat
  | .mat .mcmprs d _ _ => v.regs 2 d.toNat
  | .tile _ t => v.regs 3 t.acc.toNat
  | _ => []

/-- Whether a reader waits for an instruction's end, D, and not only for its pipeline, P (R184, R207). -/
def VOp.wholeResult : VOp → Bool
  | .red o _ _ _ => !o.scans
  | .tile _ _ => true
  | _ => false

/-- The lane cycle at which a lane instruction starts (R184): after the hart's lanes have taken up the one before, and after
what it reads from earlier ones is there. The data of a load counts as there at once (log 11). -/
def State.laneStart (s : State) (op : VOp) : Nat :=
  let reads := op.laneReads s.h s.vctx
  (s.h.ready.filter fun p => reads.contains p.1).foldl (fun n p => max n p.2) (max s.laneNow s.h.laneFree)

/-- The hart's lanes take up an instruction's work; what it writes may be read from then on (R184). -/
def State.takeLanes (s : State) (op : VOp) (c : Cost) : State :=
  if c.cycles = 0 then s
  else
    let start := s.laneStart op
    let ws := op.laneWrites s.vctx
    let others := s.h.ready.filter fun p => s.laneNow < p.2 && !ws.contains p.1 && !(ws.map tripleRes).contains p.1
    let at0 := start + c.depth + (if op.wholeResult then c.cycles else 0)
    { s with h := { s.h with
      laneFree := start + c.cycles
      ready := others ++ (if op.isTile then ws.map tripleRes else ws).map (·, at0) } }

/-- Parts of an instruction's charge by window: the lanes' from S(k) to D(k), the VMU's from its dispatch (R233). -/
def State.parts (s : State) (op : VOp) (c : Cost) : List Rat :=
  let pos := s.laneNow % 64
  addLists (spread c.charge (pos + (s.laneStart op - s.laneNow)) (c.cycles + c.depth)) (spread c.vmu pos c.span)

/-- Whether the damper holds an instruction (R236). -/
def State.damps (s : State) (op : VOp) (c : Cost) : Bool :=
  let k := coreOf s.h.key
  let f := s.flue (flueOf k)
  !k.dm && f.damped && (f.cap == 0 || decide ((f.cap : Rat) < (s.core k).draw + (s.parts op c).headD 0))

/-- Whether the gate holds every dispatch (R183). -/
def CoreSt.shut (c : CoreSt) : Bool := decide (c.gateCap.toNat ≤ c.level.toNat)

/-- Whether an instruction is work of the lanes, which stand still while their clocks do (R242). -/
def VOp.onLanes : VOp → Bool
  | .mem _ _ _ _ _ _ _ _ => false
  | .bind _ _ => false
  | .unbind _ => false
  | .tkpost _ => false
  | .tkwait _ => false
  | _ => true

/-- Whether a dispatch is held in this lane cycle: by the gate, by the damper, or because the lane clocks stand (R183, R236, R242). -/
def State.holdsBack (s : State) (op : VOp) (c : Cost) : Bool :=
  let k := coreOf s.h.key
  (s.core k).shut || s.damps op c || (!k.dm && op.onLanes && !s.lanesClocked k)

/-- A dispatch charges the bucket and the core's draw (R183, R233). -/
def CoreSt.charged (c : CoreSt) (charge : Nat) (parts : List Rat) : CoreSt :=
  { c with
    level := BitVec.ofNat 32 (min (c.level.toNat + charge) (2 ^ 32 - 1))
    draw := c.draw + parts.headD 0
    drawReal := c.drawReal + parts.headD 0
    later := addLists c.later (parts.drop 1) }

/-- Adds to a gang's account what a dispatch counts (R326). -/
def State.account (s : State) (n : Tally) : State :=
  match s.h.gang with
  | none => s
  | some g =>
    if n = ⟨0, 0, 0⟩ then s
    else if s.accounts.any (·.gang == g) then
      { s with accounts := s.accounts.map fun a => if a.gang == g then ⟨g, a.units + n.units, a.lcyc + n.lcyc, a.charge + n.charge⟩ else a }
    else { s with accounts := s.accounts ++ [⟨g, n.units, n.lcyc, n.charge⟩] }

/-- A dispatch with its charge and its time on the lanes. -/
def State.charge (s : State) (op : VOp) (c : Cost) : State :=
  let ps := s.parts op c
  if c = Cost.zero then s
  else (s.setCore (coreOf s.h.key) (·.charged (c.charge + c.vmu) ps)).takeLanes op c

/-! ### The check (R185) -/

/-- The generator's next state. -/
def nextSeed (s : Word) : Word :=
  let s := s ^^^ (s <<< 13)
  let s := s ^^^ (s >>> 7)
  s ^^^ (s <<< 17)

/-- The row that a unit falls in. -/
def unitRow : List Nat → Nat → Nat → Nat
  | [], q, _ => q
  | u :: t, q, n => if n < u then q else unitRow t (q + 1) (n - u)

/-- One check of a core: the generator steps. -/
def State.seedStep (s : State) : State := s.setCore (coreOf s.h.key) fun c => { c with seed := nextSeed c.seed }

/-- One check replay counted. -/
def State.countChk (s : State) : State := s.setCore (coreOf s.h.key) fun c => { c with chk := c.chk + 1 }

/-- `TINFO` of MCHK: lane, row, unit. -/
def State.mchkInfo (s : State) (us : List Nat) (row0 : Nat) (lane : BitVec 6) : Word :=
  let t := if us.sum = 0 then 0 else (s.core (coreOf s.h.key)).seed.toNat % us.sum
  BitVec.ofNat 64 (lane.toNat + (row0 + unitRow us 0 t) % 32 * 2 ^ 8 + t % 2 ^ 32 * 2 ^ 16)

/-- Whether a physical lane belongs to the current hart, so that it may have computed a unit of its instruction. -/
def State.ownsLane (s : State) (lane : BitVec 6) : Bool := (s.groups s.h.key).contains (lane.toNat / 8)

/-! ### Dispatch and retirement -/

/-- Bytes of an instruction's encoding. -/
def VOp.bytes : VOp → Word
  | .tile _ _ => 8
  | _ => 4

/-- What running an instruction gave: how it ended, and what it cost. -/
inductive Ran1 where
  | done (c : Cost)
  /-- An element-exact stop: what it did stays (R121). -/
  | exact (c : Cost) (e : Stop)
  /-- A whole-instruction stop (R165). -/
  | whole (c : Cost) (e : Stop)
  /-- Poisoned elements, whose sources are read once more before it is issued again (R186). -/
  | again (c : Cost) (sources : List (Word × Bool))
deriving DecidableEq, Repr

/-- What the instruction cost. -/
def Ran1.cost : Ran1 → Cost
  | .done c => c
  | .exact c _ => c
  | .whole c _ => c
  | .again c _ => c

/-- What an instruction costs that stops on poison or on the data of a tile, strips included (R182): what it costs without that, and
nothing where it stops before it dispatches, as by a fault of an access. -/
def State.wholeCost (s : State) (op : VOp) : Cost :=
  match (fedEffect (s.vctx .blind) op).on s with
  | (.ok (c, _), _) => c
  | (.error _, _) => Cost.zero

/-- Runs an instruction; a whole-instruction trap leaves the hart as it was. -/
def State.runVector (s : State) (op : VOp) (look : Look := .first) : Ran1 × State :=
  match (fedEffect (s.vctx look) op).on s with
  | (.ok (c, none), t) => (.done c, t)
  | (.ok (c, some e), t) => (.exact c e, t)
  | (.error (.reread ps), t) => (.again (s.wholeCost op) ps, { t with h := s.h })
  | (.error e, t) => (.whole (s.wholeCost op) e, { t with h := s.h })

/-- How an entry looks at poison. -/
def VEntry.look (e : VEntry) : Look := if e.reread then .again else .first

/-- What the front end resolves for the instruction at the program counter (R14). -/
def Hart.resolved (h : Hart) : Resolved :=
  ⟨h.pc, h.x, h.vl, h.vcfg, h.rc, h.dl, h.dt, h.mt, h.nt, h.kt, h.mm⟩

/-- The hart as an instruction with the resolved state `r` meets it. -/
def Hart.seenBy (h : Hart) (r : Resolved) : Hart :=
  { h with pc := r.pc, x := r.x, vl := r.vl, vcfg := r.vcfg, rc := r.rc, dl := r.dl, dt := r.dt, mt := r.mt, nt := r.nt, kt := r.kt, mm := r.mm }

/-- The queue's oldest entry where it is the hart's next instruction; scalar instructions may stand before it (R168). -/
def Hart.head (h : Hart) : Option VEntry :=
  match h.viq with
  | e :: _ => if e.st.pc == h.pc then some e else none
  | [] => none

/-- The front end once `n` of its entries are left in the queue: with nothing left ahead, it stands where the hart stands. -/
def Front.rest (f : Front) (n : Nat) : Option Front := if n = 0 && f.window.isEmpty && !f.halted then none else some f

/-- Removes the oldest entry as it retires (R176): with none left and nothing in the window, nothing runs ahead. -/
def Hart.popHead (h : Hart) : Hart :=
  if h.head.isSome then { h with viq := h.viq.tail, front := h.front.bind (·.rest (h.viq.length - 1)) } else h

/-- An instruction commits, its token apart: the resume registers are zero (R27), the hart goes on after it. -/
def State.retire (s : State) (op : VOp) : State :=
  { s with h := { s.h.popHead with vsi := 0, vsr := 0, vsp := 0, pc := s.h.pc + op.bytes } }

/-- An instruction commits and posts its token (R156). -/
def State.commit (s : State) (op : VOp) : State := (s.postToken op).retire op

/-- An entry as the front end places it, with what it has resolved (R14). -/
def VEntry.fresh (enc : Word) (op : VOp) (st : Resolved) : VEntry := ⟨enc, op, st, false, false, false, false, ⟨0, 0, 0⟩⟩

/-- An instruction waits at the head of the queue, and the front end stands behind it. -/
def State.hold (s : State) (e : VEntry) : State :=
  if s.h.head.isSome then s
  else { s with h := { s.h with viq := [e], front := some ⟨{ s.h.resolved with pc := s.h.pc + e.op.bytes }, [], false⟩ } }

/-- The window is discarded and issued again (R185): every entry is undispatched, with its token back; the oldest is marked. -/
def Hart.reissued (h : Hart) (mark : VEntry → VEntry) : Hart :=
  { h with
    tokens := h.returned
    viq := h.viq.mapIdx fun i e => let e := { e with dispatched := false, took := false }; if i = 0 then mark e else e }

/-- A replay (R185, R186): every entry from the hart's oldest on is discarded and issued again; those that had dispatched count
again (R326). -/
def State.reissue (s : State) (e : VEntry) (mark : VEntry → VEntry) : State :=
  let u := s.hold e
  let t : State := (u.h.viq.tail.filter (·.dispatched)).foldl (fun s e => s.account e.tally) u
  { t with h := t.h.reissued mark }

/-- A mismatch that the check finds (R185): one replay, MCHK the second time. -/
def State.mismatch (s : State) (e : VEntry) (c : Cost) (lane : BitVec 6) : State :=
  if e.replayed then s.trapHere Cause.mchk s.h.pc (s.mchkInfo c.units s.h.vsr.toNat lane)
  else s.countChk.reissue e fun x => { x with replayed := true }

/-- Poison met for the first time (R186): `POIS` counts it, its sources are read once more, the window is issued again. -/
def State.readAgain (s : State) (e : VEntry) (sources : List (Word × Bool)) : State :=
  let u : State := s.setCore (coreOf s.h.key) fun c => { c with pois := c.pois + 1 }
  ((replaySources sources).on u).2.reissue e fun x => { x with reread := true }

/-- The check before retirement (R185): clean, or the lane error that strikes; the instruction has then done nothing, and `before` is
the state it found, with its dispatch charged. -/
def State.checkThenCommit (s before : State) (e : VEntry) (c : Cost) : State :=
  if c.units.isEmpty then s.commit e.op
  else match s.h.upset with
    | [] => s.seedStep.commit e.op
    | lane :: rest => ({ before with h := { before.h with upset := rest } } : State).seedStep.mismatch e c lane

/-- An instruction ends as its run says. `paid` says that its dispatch has charged and taken its token already. -/
def State.finish (s : State) (e : VEntry) (paid : Bool) : State :=
  let (r, t) := s.runVector e.op e.look
  let pay (x : State) : State := (if paid then x else x.charge e.op r.cost).account r.cost.tally
  match r with
  | .done c => (if paid then pay t else (pay t).takeToken e.op).checkThenCommit (pay s) e c
  | .exact _ st =>
    let t := pay t
    ({ t with h := t.h.popHead } : State).stopWith st
  | .whole _ st => (pay t).stopWith st
  | .again _ ps => (pay t).readAgain e ps

/-- The next lane cycle comes, in which a held instruction is offered again (R183, R236). -/
def State.nextCycle (s : State) : State := s.elapse s.toCycle

/-- Dispatches and retires an instruction that has passed its issue checks. -/
def State.dispatch (s : State) (e : VEntry) : State :=
  if e.op.tokenBlocked s.h then s.hold e
  else if e.op.idle s.h s.vctx then
    match (emptyEffect s.vctx e.op).on s with
    | (_, t) => (t.takeToken e.op).commit e.op
  else if s.holdsBack e.op (s.runVector e.op e.look).1.cost then (s.hold e).nextCycle
  else s.finish e false

/-- The front end places an instruction behind the queue and goes on after it. -/
def State.enqueue (s : State) (enc : Word) (op : VOp) : State :=
  { s with h := { s.h with viq := s.h.viq ++ [.fresh enc op s.h.resolved], pc := s.h.pc + op.bytes } }

/-- An instruction that enters the vector instruction queue: mode, operand legality, operand values (R70, R176), then the queue;
where the hart has come to it, dispatch. A queue whose head is another instruction is discarded then. -/
def State.issue (s : State) (enc : Word) (op : VOp) : Out :=
  if op.wrongMode s.h.mm then s.modeTrap enc
  else if !op.legal s s.vctx then s.illop enc
  else match op.badValue s s.vctx with
    | some (v, n) => s.opnd v n
    | none =>
      let e := VEntry.fresh enc op s.h.resolved
      if s.h.ahead then .next (s.enqueue enc op)
      else if s.h.viq.isEmpty then .next (s.dispatch e)
      else .next (({ s with h := s.h.flushed } : State).dispatch e)

/-- The queue's oldest entry goes on: dispatched and retired, or retired where it was dispatched (R177, R184). -/
def State.resumeEntry (s : State) (e : VEntry) : State := if e.dispatched then s.finish e true else s.dispatch e

/-- What an entry leaves where it runs undisturbed. -/
def State.past (s : State) (e : VEntry) : State :=
  let u : State := { s with h := s.h.seenBy e.st }
  let t := if e.op.idle u.h u.vctx then ((emptyEffect u.vctx e.op).on u).2 else (u.runVector e.op .blind).2
  { t with h := { t.h with vsi := 0, vsr := 0, vsp := 0 } }

/-- The oldest undispatched entry dispatches (R177): once its token is there, the damper and the gate let it, whether or not the
older ones have finished. One that retires at the sequencer does so in its turn. -/
def State.dispatchNext (s : State) : State :=
  let older := s.h.viq.takeWhile (·.dispatched)
  match s.h.viq.drop older.length with
  | [] => s
  | e :: rest =>
    let p : State := older.foldl State.past s
    let u : State := { p with h := p.h.seenBy e.st }
    if e.op.tokenBlocked s.h then s
    else if e.op.idle u.h u.vctx then (if older.isEmpty && s.h.head.isSome then s.dispatch e else s)
    else
      let c := (u.runVector e.op e.look).1.cost
      let at0 : State := { s with h := s.h.seenBy e.st }
      if at0.holdsBack e.op c then s
      else
        let paid := at0.charge e.op c
        let s1 : State := { paid with h := paid.h.seenBy s.h.resolved }
        let took := (e.op.takes u.h).isSome
        let s2 : State := if took then s1.takeToken e.op else s1
        { s2 with h := { s2.h with viq := older ++ { e with dispatched := true, took := took, tally := c.tally } :: rest } }

/-- A lane error of one of the hart's lanes meets its oldest entry where it is dispatched (R185); with none dispatched it waits for the
next checked instruction. -/
def State.laneError (s : State) (lane : BitVec 6) : State :=
  let later : State := { s with h := { s.h with upset := s.h.upset ++ [lane] } }
  if !s.ownsLane lane then s
  else match s.h.head with
    | none => later
    | some e =>
      if !e.dispatched then later
      else match s.runVector e.op e.look with
        | (.done c, _) => if c.units.isEmpty then s else (s.account c.tally).seedStep.mismatch e c lane
        | _ => s

/-! ### Accesses performed late (R139) -/

/-- The `D` bits that memory holds for a translation (R282). -/
def State.dirtyBits (s : State) (t : TlbEntry) : BitVec 8 :=
  let bit (i : Nat) : Nat := natBits (nth (s.mem.bytes (s.pkg * 2 ^ 42 + t.entryAddr + 7 * i) 1) 0 0).toNat 6 1 * 2 ^ i
  BitVec.ofNat 8 (if t.stride.isSome then ((upFrom 0 8).map bit).sum else bit 0)

/-- What the probe of an access leaves, where `t` is the state after the whole access: the translations it installed. -/
def State.adopt (s t : State) : State :=
  let k := coreOf s.h.key
  ((t.core k).tlb.drop (s.core k).tlb.length).foldl (fun u e => u.install s.h.ctx { e with dirty := u.dirtyBits e }) s

/-- An access of a committed instruction is performed later (R139). It keeps what it was translated under, and its translations
(R143). -/
def State.late (s : State) (op : LateOp) : State :=
  { s with h := { s.h with late := s.h.late ++ [⟨op, s.h.priv, s.h.ptroot, s.h.asid, (s.core (coreOf s.h.key)).tlb⟩] } }

/-- The current hart as a late access sees it. -/
def Hart.forLate (h : Hart) (l : Late) : Hart :=
  let h : Hart := { h with priv := l.priv, ptroot := l.ptroot, asid := l.asid }
  match l.op with
  | .vector e => h.seenBy e.st
  | .store _ _ _ => h

/-- The translations a core still holds after a late access, with the `D` bits that it set. -/
def mergeDirty (own used : List TlbEntry) : List TlbEntry :=
  own.map fun e => match used.find? fun x => x.asid == e.asid && x.vbase == e.vbase && x.lg == e.lg && x.entryAddr == e.entryAddr with
    | some x => { e with dirty := e.dirty ||| x.dirty }
    | none => e

/-- One access that has committed is performed, through the translations it kept; a vector one posts its token. LINK kills the gang,
and what was performed before it stays performed (R144, R172). -/
def State.settleOne (s : State) (l : Late) : State :=
  if s.h.run ≠ .running then s
  else
    let k := coreOf s.h.key
    let own := (s.core k).tlb
    let u : State := ({ s with h := s.h.forLate l } : State).setCore k fun x => { x with tlb := l.held ++ own }
    let (r, t) := match l.op with
      | .store va lg v => (storeScalar va lg v).on u
      | .vector e => (do let _ ← fedEffect u.vctx e.op : M Unit).on u
    let back (h : Hart) : State := ({ t with h := { h.seenBy s.h.resolved with priv := s.h.priv, ptroot := s.h.ptroot, asid := s.h.asid } } : State).setCore k
      fun x => { x with tlb := mergeDirty own x.tlb }
    match r with
    | .ok _ => match l.op with
      | .vector e => (back t.h).postToken e.op
      | .store _ _ _ => back t.h
    | .error (.link va) => (back s.h).linkKill va
    | .error _ => back s.h

/-- Every committed access of the current hart is performed. -/
def State.settled (s : State) : State :=
  s.h.late.foldl State.settleOne { s with h := { s.h with late := [] } }

/-- Whether an instruction may commit before its accesses are performed (R139). `VLDC` has read its blocks at its trap horizon (R166),
and one that the front end waits for has performed them when it completes (R149). -/
def VOp.defers (h : Hart) (op : VOp) : Bool :=
  match op with
  | .mem .ldc _ _ _ _ _ _ _ => false
  | .mem .stc _ _ b _ _ _ _ => b == 0 && !h.resumed
  | .mem _ _ _ _ _ _ _ _ => !h.resumed
  | _ => false

/-- A vector memory instruction past its trap horizon commits with its accesses still to be performed (R139, R168). -/
def State.deferVector (s : State) (e : VEntry) : State :=
  match s.runVector e.op with
  | (.done c, t) =>
    if s.holdsBack e.op c then s
    else ((((s.adopt t).charge e.op c).account c.tally).takeToken e.op).retire e.op |>.late (.vector e)
  | _ => s

end Sys2Proof.Machine
end

