-- ==== Sys2Proof/Machine/Fetch.lean ====
section
/-! DEFINITION. Fetching an instruction (R59, R60). -/

namespace Sys2Proof.Machine

/-- Fetches one parcel (R60). -/
def fetchParcel (va : Word) : M Nat := do
  let c := (← get).h.ctx
  let x ← translate c va .fetch 1
  let (bs, sev) ← loadAt c va x 2
  let (bs, sev) ← if sev = 2 then loadAt c va x 2 else pure (bs, sev)
  if sev = 2 then raise Cause.sev2 va (accessInfo .fetch 1 0)
  return ofBytes bs

/-- Fetches parcels one after another. -/
def fetchParcels (va : Word) : Nat → M (List Byte)
  | 0 => return []
  | n + 1 => do
    let p ← fetchParcel va
    return toBytes 2 p ++ (← fetchParcels (va + 2) n)

/-- Fetches the instruction at the program counter whole (R59, R60). -/
def fetchBytes : M (List Byte) := do
  let pc := (← get).h.pc
  let p ← fetchParcel pc
  let rest ← fetchParcels (pc + 2) (lengthOf (BitVec.ofNat 16 p) / 2 - 1)
  return toBytes 2 p ++ rest

/-- Writes one parcel where it would be fetched; nothing where it could not be. -/
def placeParcel (s : State) (va : Word) (bs : List Byte) : State :=
  match (translate s.h.ctx va .fetch 1).on s with
  | (.ok x, _) => { s with mem := s.mem.store x.key bs }
  | (.error _, _) => s

/-- Writes parcels one after another. -/
def placeParcels (s : State) (va : Word) (bs : List Byte) : Nat → State
  | 0 => s
  | n + 1 => placeParcels (placeParcel s va (bs.take 2)) (va + 2) (bs.drop 2) n

end Sys2Proof.Machine
end

