-- ==== Sys2Proof/Machine/Mailbox.lean ====
section
/-! DEFINITION. Device memory by local address, and the die manager mailbox (R338 to R340). -/

namespace Sys2Proof.Machine

/-! ### Device memory by local address -/

/-- The key of a local address of this package. -/
def State.localKey (s : State) (a : Nat) : Nat := s.pkg * 2 ^ 42 + a % 2 ^ 42

/-- Reads a doubleword of device memory. -/
def State.devRead (s : State) (a : Nat) : Nat × Nat × State :=
  let (bs, sev, s) := s.readAt (s.localKey a) 8
  (ofBytes bs, sev, s)

/-- The doubleword of device memory as it stands. -/
def State.devWord (s : State) (a : Nat) : Nat := ofBytes (s.lineRead (s.localKey a) 8).1

/-- Writes a doubleword of device memory; the line keeps its tag (R303). -/
def State.devWrite (s : State) (a v : Nat) : State := s.writeAt (s.localKey a) (toBytes 8 v) none

/-! ### The inbox -/

/-- Inbox capacity and address. -/
def Die.inbox (d : Die) : Option (Nat × Nat) :=
  let base := field d.mbxbase 12 52
  if base = 0 then none else some (base * 4096, field d.mbxbase 0 4)

/-- Whether the inbox has room for one more entry (R340). -/
def Die.hasRoom (d : Die) : Bool :=
  match d.inbox with
  | some (_, lg) => (d.mbxtail - d.mbxhead).toNat < 2 ^ lg
  | none => false

/-- Writes one inbox entry, raises `MBXTAIL` and sets `EVENT.WAKE` on the die manager core (R340). -/
def State.inboxWrite (s : State) (die : Nat) (m : Message) : State :=
  let d := s.die die
  match d.inbox with
  | none => s
  | some (base, lg) =>
    let n := d.mbxtail.toNat
    let a := base + 32 * (n % 2 ^ lg)
    let s := s.devWrite a (n + m.src * 2 ^ 32)
    let s := s.devWrite (a + 8) (m.hartid.toNat + m.ticket.toNat * 2 ^ 32)
    let s := s.devWrite (a + 16) m.word0.toNat
    let s := s.devWrite (a + 24) m.word1.toNat
    (s.setDie die fun d => { d with mbxtail := d.mbxtail + 1 }).setHart (dmKey die) (·.setEvent .wake)

/-- Writes one waiting report into the inbox where there is room (R339). -/
def State.reportOnce (s : State) (die : Nat) (p : Message → Bool) : State :=
  let d := s.die die
  match d.reports.find? p with
  | some m =>
    if d.hasRoom then
      (s.inboxWrite die m).setDie die fun d => { d with
        reports := d.reports.erase m
        messages := d.messages ++ [{ m with seq := some (s.die die).mbxtail.toNat, answered := true }] }
    else s
  | none => s

/-- Writes one waiting message into the inbox where there is room. -/
def State.messageOnce (s : State) (die : Nat) : State :=
  let d := s.die die
  match d.messages.find? (fun m => m.seq.isNone) with
  | some m =>
    if d.hasRoom then
      (s.inboxWrite die m).setDie die fun x => { x with
        messages := x.messages.map fun y => if y == m then { y with seq := some d.mbxtail.toNat } else y }
    else s
  | none => s

/-- Fills the inbox: reports first, then messages (R339, R340). -/
def State.inboxFill (s : State) (die : Nat) : State :=
  (upFrom 0 128).foldl (fun s _ =>
    if (s.die die).reports.isEmpty then s.messageOnce die else s.reportOnce die fun _ => true) s

/-- An engine completion record (R192). -/
def recordWord (detail eng status : Nat) (ticket : BitVec 16) : Word :=
  BitVec.ofNat 64 (detail % 2 ^ 32 * 2 ^ 32 + eng % 256 * 2 ^ 24 + status % 256 * 2 ^ 16 + ticket.toNat)

/-- Delivers a reply to the sender of a message (R340). -/
def State.deliverReply (s : State) (die : Nat) (m : Message) (status detail : Nat) : State :=
  let s := s.setDie die fun d => { d with messages := d.messages.map fun y => if y == m then { y with answered := true } else y }
  let r := recordWord detail 5 status m.ticket
  if m.src = 1 then
    let q := field (s.die die).qcbase 12 52 * 4096 + 4096
    let lg := s.devWord (q + 24) % 16
    s.devWrite (s.devWord (q + 32) + 8 * (m.ticket.toNat % 2 ^ lg)) r.toNat
  else { s with cmds := s.cmds.map fun c => if c.uid = m.uid ∧ c.eng = 5 ∧ c.ticket = m.ticket ∧ c.record.isNone then { c with record := some r } else c }

end Sys2Proof.Machine
end

