-- ==== Sys2Proof/Machine/Journal.lean ====
section
/-! DEFINITION. What the scheduler reads and writes: device memory, memory of a launch's address space, queue control
lines and the journal (R260, R276, R329 to R332). -/

namespace Sys2Proof.Machine

/-! ### Device memory as the scheduler reaches it -/

/-- A doubleword of device memory; none where it cannot be read. -/
def State.devGet (s : State) (die a : Nat) : Option Nat × State :=
  if !inMemory (a % 2 ^ 42) || !s.reachable die (s.localKey a) then (none, s)
  else
    match (readTwice (s.localKey a) 8 0).on s with
    | (.ok (bs, sev), t) => (if sev = 2 then none else some (ofBytes bs), t)
    | (.error _, t) => (none, t)

/-- Writes a doubleword of device memory; dropped where it cannot be written. -/
def State.devPut (s : State) (die a v : Nat) : State :=
  if !inMemory (a % 2 ^ 42) || !s.reachable die (s.localKey a) then s else s.devWrite a v

/-! ### Memory of an address space -/

/-- The scheduler's and the ballot unit's context for an address space: privileged, no translation kept, no window. -/
def agentCtx (die : Nat) (ptroot : Word) (asid : BitVec 16) : Ctx := ⟨die, 0, false, ptroot, asid, true, 0, true, none⟩

/-- Translation for an agent that has no cluster: a window address is not one of its addresses. -/
def agentXlat (c : Ctx) (va : Word) (k : Kind) (lg : Nat) : M Xlat :=
  if inWindow va then raise Cause.page va (accessInfo k lg 2) else translate c va k lg

/-- Reads bytes page by page. Structural on the number of pages. -/
def agentRead (c : Ctx) : Nat → Word → Nat → M (List Byte)
  | 0, _, _ => return []
  | f + 1, va, n => do
    let m := min n (4096 - va.toNat % 4096)
    let x ← agentXlat c va .load 3
    if !(← get).reachable c.die x.key then throw (.link va)
    let (bs, sev) ← readTwice x.key m 0
    if sev = 2 then raise Cause.sev2 va (accessInfo .load 3 0)
    if n ≤ m then return bs else return bs ++ (← agentRead c f (va + BitVec.ofNat 64 m) (n - m))

/-- Writes bytes page by page. Structural on the number of pages. -/
def agentWrite (c : Ctx) : Nat → Word → List Byte → M Unit
  | 0, _, _ => return ()
  | f + 1, va, bs => do
    let m := 4096 - va.toNat % 4096
    let x ← agentXlat c va .store 3
    storeAt c va x (bs.take m)
    if m < bs.length then agentWrite c f (va + BitVec.ofNat 64 m) (bs.drop m)

/-- Reads `n` bytes. -/
def agentLoad (c : Ctx) (va : Word) (n : Nat) : M (List Byte) := agentRead c (n / 4096 + 2) va n

/-- Writes bytes. -/
def agentStore (c : Ctx) (va : Word) (bs : List Byte) : M Unit := agentWrite c (bs.length / 4096 + 2) va bs

/-- Performs an agent's access; false where it failed. -/
def State.tries (s : State) (m : M Unit) : Bool × State :=
  match m.on s with
  | (.ok _, t) => (true, t)
  | (.error _, t) => (false, t)

/-! ### The journal -/

/-- Address of the journal's control line; none without a journal (R331). -/
def Die.journal (d : Die) : Option (Nat × Nat) :=
  if field d.jbase 12 52 = 0 then none else some (field d.jbase 12 52 * 4096, field d.jbase 0 5)

/-- Address of an entry. -/
def entryAddr (base lg seq : Nat) : Nat := base + 64 + 32 * (seq % 2 ^ lg)

/-- Word +24 of an entry (R331). -/
def entryWord (q die state reason kind result lost : Nat) : Nat :=
  q + die * 2 ^ 6 + state * 2 ^ 8 + reason * 2 ^ 11 + kind * 2 ^ 16 + result * 2 ^ 18 + lost * 2 ^ 19

/-- Adds an entry: none without a journal, or while it would fall on an entry that is not final (R332). -/
def State.journalAdd (s : State) (die rec word : Nat) : Option (Nat × State) :=
  match (s.die die).journal with
  | none => none
  | some (base, lg) =>
    let seq := s.devWord base
    let a := entryAddr base lg seq
    let live := s.devWord (a + 24) / 256 % 8
    if live = 5 ∨ live = 6 then none
    else
      let s := s.devPut die a seq
      let s := s.devPut die (a + 8) rec
      let s := s.devPut die (a + 16) s.time.toNat
      let s := s.devPut die (a + 24) word
      let s := s.devPut die (base + 8) lg
      some (seq, s.devPut die base ((seq + 1) % 2 ^ 64))

/-- Changes the state of a launch's entry (R332). -/
def State.journalSet (s : State) (die q seq state reason lost : Nat) : State :=
  match (s.die die).journal with
  | none => s
  | some (base, lg) => s.devPut die (entryAddr base lg seq + 24) (entryWord q die state reason 0 0 lost)

/-! ### Queue control lines (R260, R330, R354) -/

/-- A queue control line. -/
structure QLine where
  tail : Nat
  head : Nat
  ring : Nat
  cfg : Nat
  cancel : Nat
  glink : Nat
deriving DecidableEq, Repr

/-- Address of a queue's line. -/
def Die.lineAddr (d : Die) (q : Nat) : Nat := field d.qcbase 12 52 * 4096 + 64 * q

/-- `LOG`. -/
def QLine.log (l : QLine) : Nat := natBits l.cfg 0 4
/-- `PRIO`. -/
def QLine.prio (l : QLine) : Nat := natBits l.cfg 4 3
/-- `EN`. -/
def QLine.en (l : QLine) : Bool := natBits l.cfg 8 1 == 1
/-- `DEV`. -/
def QLine.dev (l : QLine) : Bool := natBits l.cfg 9 1 == 1
/-- `GLINK.ON`. -/
def QLine.linked (l : QLine) : Bool := natBits l.glink 63 1 == 1
/-- `GLINK.HOME`. -/
def QLine.isHome (l : QLine) : Bool := natBits l.glink 62 1 == 1
/-- `GLINK.HPKG`. -/
def QLine.hpkg (l : QLine) : Nat := natBits l.glink 48 11
/-- `GLINK.GID`. -/
def QLine.gid (l : QLine) : Nat := natBits l.glink 32 8
/-- `GLINK.FIRST`. -/
def QLine.first (l : QLine) : Nat := natBits l.glink 16 6

/-- A malformed `GLINK` (R354). -/
def QLine.badLink (l : QLine) (pkg : Nat) : Bool :=
  natBits l.glink 59 3 != 0 || natBits l.glink 40 8 != 0 || natBits l.glink 22 10 != 0 || natBits l.glink 0 16 != 0 ||
  (l.linked && (decide (1152 ≤ l.hpkg) || (l.isHome && l.hpkg != pkg)))

/-- A malformed line (R260). -/
def QLine.bad (l : QLine) (pkg : Nat) : Bool :=
  natBits l.cfg 7 1 != 0 || decide (1024 ≤ l.cfg) || decide (l.log < 3) || decide (l.tail < l.head) ||
  decide (l.head + 2 ^ l.log < l.tail) || l.badLink pkg

/-- Reads doublewords one after another; none where one cannot be read. -/
def State.devGets (s : State) (die a : Nat) : Nat → Option (List Nat) × State
  | 0 => (some [], s)
  | n + 1 =>
    match s.devGet die a with
    | (none, t) => (none, t)
    | (some x, t) =>
      match State.devGets t die (a + 8) n with
      | (none, u) => (none, u)
      | (some xs, u) => (some (x :: xs), u)

/-- Reads a queue's line. -/
def State.qline (s : State) (die q : Nat) : Option QLine × State :=
  match s.devGets die ((s.die die).lineAddr q) 7 with
  | (some [t, h, r, c, _, n, g], s) => (some ⟨t, h, r, c, n, g⟩, s)
  | (_, s) => (none, s)

/-- Whether a line is bad: malformed, or a device queue whose `TAIL` the host has written (R260). -/
def State.badQueue (s : State) (die q : Nat) (l : QLine) : Bool := l.bad s.pkg || (s.die die).hostTails.contains q

/-- Forgets that the host has written the `TAIL` of a device queue. -/
def State.forgetTail (s : State) (die q : Nat) : State :=
  if (s.die die).hostTails.contains q then s.setDie die fun d => { d with hostTails := d.hostTails.filter (· != q) } else s

/-- A bad line is served: `EN` is cleared and the journal records it (R260). It waits where its entry has no room yet (R332). -/
def State.badLine (s : State) (die q : Nat) (l : QLine) : State :=
  let a := (s.die die).lineAddr q
  match (s.devPut die (a + 24) (l.cfg - natBits l.cfg 8 1 * 256)).journalAdd die a (entryWord q die 3 1 1 0 0) with
  | some (_, t) => t.forgetTail die q
  | none => s

/-- Journal numbers of a queue's accepted entries. -/
def Die.waiting (d : Die) (q : Nat) : List Nat := ((d.accepted[q]?).getD []).map (·.toNat)

/-- Replaces the accepted entries of a queue. -/
def State.setWaiting (s : State) (die q : Nat) (l : List Nat) : State :=
  s.setDie die fun d => { d with accepted := d.accepted.setIfInBounds q (l.map (BitVec.ofNat 64)) }

/-- Accepts an entry of a queue (R332): its number, or none where the journal has no room. -/
def State.accept (s : State) (die q rec : Nat) : Option (Nat × State) :=
  match s.journalAdd die rec (entryWord q die 5 0 0 0 0) with
  | some (seq, t) => some (seq, t.setWaiting die q ((t.die die).waiting q ++ [seq]))
  | none => none

/-- Accepts a host queue's new entries in ring order, as far as the journal has room. -/
def State.acceptFrom (s : State) (die q : Nat) (l : QLine) (i : Nat) : Nat → State
  | 0 => s
  | n + 1 =>
    match s.devGet die (l.ring + 8 * (i % 2 ^ l.log)) with
    | (none, t) => t
    | (some rec, t) =>
      match t.accept die q rec with
      | some (_, u) => State.acceptFrom u die q l (i + 1) n
      | none => t

/-- The scheduler looks at a queue's line (R260, R328, R329): nothing while the die has no journal or the queue is disabled. -/
def State.scan (s : State) (die q : Nat) : Option QLine × State :=
  if (s.die die).journal.isNone then (none, s)
  else match s.qline die q with
    | (none, t) => (none, t)
    | (some l, t) =>
      if !l.en then (none, t.forgetTail die q)
      else if t.badQueue die q l then (none, t.badLine die q l)
      else
        let i := l.head + ((t.die die).waiting q).length
        let u := if l.dev || !t.cxl256 then t else t.acceptFrom die q l i (l.tail - i)
        (some l, { u with launches := u.launches.map fun x => if x.die = die ∧ x.queue = q then { x with prio := l.prio } else x })

/-- The host has written a queue's `TAIL`, and the scheduler looks (R329): on an enabled device queue that makes the line bad (R260). -/
def State.hostWroteTail (s : State) (die q : Nat) : State :=
  if (s.die die).journal.isNone then s
  else match s.qline die q with
    | (some l, t) =>
      ((if l.en && l.dev then t.setDie die fun d => { d with hostTails := d.hostTails.filter (· != q) ++ [q] } else t).scan die q).2
    | (none, t) => t

/-- The entry at a queue's head has been taken (R262). -/
def State.advanceHead (s : State) (die q : Nat) : State :=
  let a := (s.die die).lineAddr q + 8
  let s := s.devPut die a ((s.devWord a + 1) % 2 ^ 64)
  (s.setWaiting die q (((s.die die).waiting q).drop 1)).setDie die fun d => { d with headLaunch := d.headLaunch.setIfInBounds q none }

end Sys2Proof.Machine
end

