-- ==== Sys2Proof/Machine/Save.lean ====
section
/-! DEFINITION. Stopping harts and bringing them back: the save area (R259, R268), restoring (R22, R270), the boundary of a
stop (R169), and ending by felling (R322). -/

namespace Sys2Proof.Machine

/-! ### Row images (R18 to R20, R268) -/

/-- Fields of `w` bits side by side from bit 0 up. -/
def packBits (w : Nat) : List Nat → Nat
  | [] => 0
  | x :: t => x % 2 ^ w + 2 ^ w * packBits w t

/-- `n` fields of `w` bits from bit 0 up. -/
def unpackBits (w : Nat) : Nat → Nat → List Nat
  | 0, _ => []
  | n + 1, x => x % 2 ^ w :: unpackBits w n (x / 2 ^ w)

/-- Start of the count area of a RUN row of `b` bytes, elements of `e` bytes (R18). -/
def countStart (b e : Nat) : Nat := b - 2 * (b / (e + 2))

/-- Start of the indices of a DICT row (R19). -/
def indexStart (nd e : Nat) : Nat := 4 * ceilDiv (nd * e) 4

/-- Start of the deltas of a DELTA row (R20). -/
def deltaStart (e : Nat) : Nat := if e = 8 then 8 else 4

/-- Bytes of a row's data in a row of `b` bytes. -/
def imageLen (kind e units len b : Nat) : Nat :=
  match kind with
  | 0 => len * e
  | 1 => countStart b e + 2 * units
  | 2 => indexStart units e + ceilDiv (len * indexWidth units) 8
  | _ => deltaStart e + ceilDiv ((len - 1) * units) 8

/-- A row's stored data. -/
def Row.image (r : Row) (e b : Nat) : List Byte :=
  match r with
  | .plain els => els.flatMap (toBytes e)
  | .run runs => padTo 0 (countStart b e) (runs.flatMap fun p => toBytes e p.1) ++ runs.flatMap fun p => toBytes 2 p.2
  | .dict es idx =>
    padTo 0 (indexStart es.length e) (es.flatMap (toBytes e)) ++
      toBytes (ceilDiv (idx.length * indexWidth es.length) 8) (packBits (indexWidth es.length) idx)
  | .delta w base ds =>
    padTo 0 (deltaStart e) (toBytes e base) ++ toBytes (ceilDiv (ds.length * w) 8) (packBits w (ds.map fun d => wrap d w))

/-- Fields of a saved descriptor. -/
structure Desc where
  kind : Nat
  sewc : Nat
  grpc : Nat
  pos : Nat
  units : Nat
  len : Nat
  /-- Reserved bits. -/
  other : Nat
deriving DecidableEq, Repr

/-- Reads a descriptor (R16). -/
def Desc.of (x : Nat) : Desc :=
  ⟨natBits x 0 2, natBits x 2 2, natBits x 4 2, natBits x 6 3, natBits x 16 16, natBits x 32 16, natBits x 9 7 + natBits x 48 16⟩

/-- Descriptor checks of R16 to R20 for register `n` on `lg` lane groups. DESIGN CHOICE (log 71): those rules bound no PLAIN row by the
bytes of its registers, so none is refused for its length. -/
def Desc.ok (d : Desc) (n lg : Nat) : Bool :=
  let e := 2 ^ d.sewc
  let b := 256 * lg * 2 ^ d.grpc
  d.other == 0 && decide (d.pos < 2 ^ d.grpc) && decide (d.pos ≤ n) && (n - d.pos) % 2 ^ d.grpc == 0 && decide (d.len ≤ 16384) &&
  (d.kind == 0 || decide (imageLen d.kind e d.units d.len b ≤ b)) &&
  (match d.kind with
   | 0 => d.units == d.len
   | 1 => d.units != 0 && decide (d.units ≤ d.len) && decide (d.units ≤ b / (e + 2))
   | 2 => d.len != 0 && d.units != 0 && decide (d.units ≤ 256)
   | _ => d.len != 0 && [4, 8, 16].contains d.units && decide (d.units < 8 * e))

/-- Reads a row's data back; none where it breaks R18 to R20. -/
def Desc.parse (d : Desc) (lg : Nat) (img : List Byte) : Option Row :=
  let e := 2 ^ d.sewc
  let b := 256 * lg * 2 ^ d.grpc
  let els (n : Nat) : List Nat := ((chunks e n img).take n).map ofBytes
  match d.kind with
  | 0 => some (.plain (padTo 0 d.len (els d.len)))
  | 1 =>
    let cs := (chunks 2 d.units (img.drop (countStart b e))).map ofBytes
    if cs.sum = d.len ∧ cs.all (· != 0) then some (.run ((els d.units).zip cs)) else none
  | 2 =>
    let idx := unpackBits (indexWidth d.units) d.len (ofBytes (img.drop (indexStart d.units e)))
    if idx.all (· < d.units) then some (.dict (els d.units) idx) else none
  | _ =>
    let ds := unpackBits d.units (d.len - 1) (ofBytes (img.drop (deltaStart e)))
    some (.delta d.units (ofBytes (img.take e)) (ds.map fun x => sext x d.units))

/-- A row whose bytes read as zero, for an encoded register outside any intact row. -/
def Desc.blank (d : Desc) : Row :=
  match d.kind with
  | 0 => .plain (List.replicate d.len 0)
  | 1 => .run ((0, d.len - (d.units - 1)) :: List.replicate (d.units - 1) (0, 1))
  | 2 => .dict (List.replicate d.units 0) (List.replicate d.len 0)
  | _ => .delta d.units 0 (List.replicate (d.len - 1) 0)

/-- Whether register `n` belongs to an intact row by the descriptors alone (R21). -/
def intactIn (ds : List Nat) (n : Nat) : Bool :=
  let d := Desc.of (nth ds n 0)
  let plain (x : Nat) : Nat := x - natBits x 6 3 * 64
  decide (d.pos ≤ n) && (upFrom 0 (2 ^ d.grpc)).all fun p =>
    let x := nth ds (n - d.pos + p) 0
    natBits x 6 3 == p && plain x == plain (nth ds n 0)

/-- Bytes of a register's saved data: the row's, its own slice where it is PLAIN and outside any intact row, or none. -/
def Desc.dataLen (d : Desc) (intact : Bool) (lg : Nat) : Nat :=
  if intact then imageLen d.kind (2 ^ d.sewc) d.units d.len (256 * lg * 2 ^ d.grpc)
  else if d.kind = 0 then min (256 * lg) (d.len * 2 ^ d.sewc - d.pos * 256 * lg)
  else 0

/-- A register's saved data. -/
def VReg.data (r : VReg) (intact : Bool) (lg : Nat) : List Byte :=
  if intact then r.row.image (2 ^ r.sewc) (256 * lg * 2 ^ r.grpc)
  else if r.row.kind = 0 then (r.expand.drop (r.pos * 256 * lg)).take (256 * lg)
  else []

/-! ### The hart slot (R259, R268) -/

/-- The descriptors a stop saves; a register that is not saved has 0. DEDUCED (log 71): each bit of the operand names one
register, so a grouped row of which it names a part is saved in that part. -/
def Hart.savedDescs (h : Hart) (live : BitVec 32) : List Nat :=
  (upFrom 0 32).map fun n => if live.getLsbD n then (h.vreg n).desc.toNat else 0

/-- Offsets of the registers' data and the data itself, packed in ascending order (log 22): a row's registers share it. -/
def Hart.savedRows (h : Hart) (ds : List Nat) (lg : Nat) : List Nat × List Byte :=
  (upFrom 0 32).foldl (fun (x : List Nat × List Byte) n =>
    let d := Desc.of (nth ds n 0)
    let whole := intactIn ds n
    if nth ds n 0 = 0 then (x.1 ++ [0], x.2)
    else if whole ∧ d.pos ≠ 0 then (x.1 ++ [nth x.1 (n - d.pos) 0], x.2)
    else (x.1 ++ [x.2.length], x.2 ++ (h.vreg n).data whole lg)) ([], [])

/-- A mask row's saved data. -/
def MRow.image : MRow → List Byte
  | .bits bs => toBytes (ceilDiv bs.length 8) (packBits 1 (bs.map b2n))
  | .runs cs => cs.flatMap (toBytes 2)

/-- Row words and data of the mask registers, the data from an offset on. -/
def Hart.savedMasks (h : Hart) (off : Nat) : List Byte × List Byte :=
  ((upFrom 1 9).flatMap fun k => (upFrom 0 32).map fun q => h.mrow k q).foldl (fun x m =>
    let w := m.toBits.length + b2n m.isRuns * 2 ^ 16 + (off + x.2.length) * 2 ^ 32
    (x.1 ++ toBytes 8 w, x.2 ++ m.image)) ([], [])

/-- Bytes of a hart's saved rows and masks (R268). -/
def Hart.savedLen (h : Hart) (lg : Nat) (live : BitVec 32) : Nat :=
  let n := (h.savedRows (h.savedDescs live) lg).2.length
  n + (h.savedMasks n).2.length

/-- H of R259. -/
def Record.slotSize (r : Record) : Nat := 1024 * (20 + 88 * (field r.ctl 20 3 + 1) + 4 * field r.ctl 32 7)

/-- Bytes of the retired bitmap's place (R259). -/
def Record.bitmapSize (r : Record) : Nat := 64 * ceilDiv (8 * ceilDiv (field r.ctl 0 16) 64) 64

/-- Address of a hart's slot (R259). -/
def Record.slotAddr (r : Record) (gang member : Nat) : Word :=
  r.save + BitVec.ofNat 64 (r.bitmapSize + (gang * (field r.ctl 16 4 + 1) + member) * r.slotSize)

/-- The context a launch's agents use. -/
def Launch.ctx (l : Launch) (die : Nat) : Ctx := agentCtx die l.ptroot l.asid

/-- Bytes of the scheduler's own layout (R268, log 14). -/
def ownBytes (k : Nat) : List Byte := (upFrom 256 768).map (Config.schedulerByte k)

/-- The tag entries of a gang on one core as a slot holds them (R268): eight bytes for each place of the table, bit 63 valid,
the slot from bit 49 on, the key below. DESIGN CHOICE (log 22): their layout is open. -/
def tagImage (tags : List TagEntry) (gang : Nat) : List Byte :=
  (upFrom 0 1024).flatMap fun i => match tags.find? (fun t => t.gang == gang && t.set == i / 4 && t.way == i % 4) with
    | some t => toBytes 8 (2 ^ 63 + t.slot / 256 * 2 ^ 49 + t.key)
    | none => toBytes 8 0

/-- The tag entries that an image holds. -/
def tagsIn (gang : Nat) (img : List Byte) : List TagEntry :=
  ((chunks 8 1024 img).zip (upFrom 0 1024)).filterMap fun (bs, i) =>
    let w := ofBytes bs
    if natBits w 63 1 = 1 then some ⟨i / 4, i % 4, gang, natBits w 0 49, natBits w 49 10 * 256⟩ else none

/-- Where the copied-out entries and partition bytes of a core stand: behind the rows and masks of the lowest member's slot
(R268, R269). -/
def copyAddr (l : Launch) (h : Hart) : Word := l.record.slotAddr h.gangIdx h.member + BitVec.ofNat 64 (8192 + h.saved)

/-- Writes a hart's slot: `live` names the vector registers saved. -/
def saveSlot (l : Launch) (h : Hart) (lg k : Nat) (live : BitVec 32) : M Unit := do
  let a := l.record.slotAddr h.gangIdx h.member
  let c := l.ctx h.key.die
  let ds := h.savedDescs live
  let (offs, rows) := h.savedRows ds lg
  let (words, masks) := h.savedMasks rows.length
  agentStore c a (toBytes 8 h.pc.toNat ++ ((upFrom 1 31).flatMap fun n => toBytes 8 (h.rd (BitVec.ofNat 5 n)).toNat) ++ ownBytes k)
  agentStore c (a + 1024) (h.tb.toList.flatMap fun x => toBytes 4 x.toNat)
  agentStore c (a + 2048) ((ds.zip offs).flatMap fun p => toBytes 8 p.1 ++ toBytes 8 p.2)
  agentStore c (a + 2560) words
  if (rows ++ masks).length ≠ 0 then agentStore c (a + 8192) (rows ++ masks)

/-! ### Restoring (R22, R270) -/

/-- Counts of a saved run list, up to its length. Structural on the most counts a list holds. -/
def readCounts (c : Ctx) (a : Word) (len : Nat) : Nat → Nat → M (List Nat)
  | 0, _ => return []
  | f + 1, sum => do
    if len ≤ sum then return []
    let n := ofBytes (← agentLoad c a 2)
    return n :: (← readCounts c (a + 2) len f (sum + n))

/-- Reads one mask row back. -/
def restoreMask (c : Ctx) (slot : Word) (w : Nat) : M MRow := do
  let len := natBits w 0 16
  let a := slot + 8192 + BitVec.ofNat 64 (natBits w 32 32)
  if natBits w 16 1 = 1 then return .runs (← readCounts c a len 255 0)
  else
    let bs ← if len = 0 then pure [] else agentLoad c a (ceilDiv len 8)
    return .bits ((unpackBits 1 len (ofBytes bs)).map (· == 1))

/-- Reads the vector registers back from register `n` on; none where one fails its checks, with its number. -/
def restoreRows (c : Ctx) (slot : Word) (old : Hart) (ds offs : List Nat) (lg : Nat) : List Nat → Hart → M (Hart × Option Nat)
  | [], h => return (h, none)
  | n :: t, h => do
    let x := nth ds n 0
    let d := Desc.of x
    let whole := intactIn ds n
    if !d.ok n lg then return (h, some n)
    let len := d.dataLen whole lg
    let a := slot + 8192 + BitVec.ofNat 64 (nth offs n 0)
    let img ← if len = 0 then pure [] else agentLoad c a len
    let row := if whole then d.parse lg img
      else if d.kind = 0 then d.parse lg (List.replicate (d.pos * 256 * lg) 0 ++ img ++ List.replicate (d.len * 2 ^ d.sewc) 0)
      else some d.blank
    match row with
    | none => return (h, some n)
    | some r =>
      let kept := if (old.vreg n).desc.toNat = x then (old.vreg n).poison else []
      restoreRows c slot old ds offs lg t { h with v := h.v.setIfInBounds n ⟨d.sewc, d.grpc, d.pos, r, kept⟩ }

/-- Reads a stopped hart's slot: the hart as it runs on, and the register that failed its checks. -/
def restoreSlot (l : Launch) (h : Hart) (lg : Nat) : M (Hart × Option Nat) := do
  let a := l.record.slotAddr h.gangIdx h.member
  let c := l.ctx h.key.die
  let ws := (chunks 8 32 (← agentLoad c a 256)).map ofBytes
  let _ ← agentLoad c (a + 256) 768
  let tb := (chunks 4 256 (← agentLoad c (a + 1024) 1024)).map ofBytes
  let ts := (chunks 8 64 (← agentLoad c (a + 2048) 512)).map ofBytes
  let mw := (chunks 8 288 (← agentLoad c (a + 2560) 2304)).map ofBytes
  let ms ← mw.mapM (restoreMask c a)
  let h1 : Hart := { h with
    pc := BitVec.ofNat 64 (nth ws 0 0) &&& ~~~1
    x := Vector.ofFn fun (i : Fin 32) => BitVec.ofNat 64 (nth ws i.val 0)
    tb := Vector.ofFn fun (i : Fin 256) => BitVec.ofNat 32 (nth tb i.val 0)
    k := Vector.ofFn fun (i : Fin 10) => Vector.ofFn fun (q : Fin 32) =>
      if i.val = 0 then .bits [] else nth ms ((i.val - 1) * 32 + q.val) (.bits [])
    v := Vector.replicate 32 VReg.reset }
  let ds := (upFrom 0 32).map fun n => nth ts (2 * n) 0
  let offs := (upFrom 0 32).map fun n => nth ts (2 * n + 1) 0
  restoreRows c a h ds offs lg (upFrom 0 32) h1

/-! ### Stopping (R102, R169, R267) -/

/-- Whether a hart runs a trap handler: a launched hart is privileged only there. -/
def Hart.inHandler (h : Hart) : Bool := h.priv

/-- Takes the current hart off its core: its lane groups are free (R179), it runs no more until it is restored. -/
def State.park (s : State) : State :=
  let s1 : State := s.freeGroups s.h.key
  { s1 with h := s1.h.off .stopped }

/-- Saves and stops the current hart; a slot that cannot be written ends its gang as failed (log 22). -/
def State.stopHere (s : State) (live : BitVec 32) : State :=
  match s.h.gang.bind s.gangOf with
  | none => s
  | some g =>
    match s.launchOf g.launch with
    | none => s
    | some l =>
      let k := s.freeCount
      let s1 : State := { s with freeCount := k + 1 }
      let lg := (s.groups s.h.key).length
      let n := s.h.savedLen lg live
      match s1.tries (saveSlot l s.h lg k live) with
      | (true, t) => ({ t with h := { t.h with saved := n } } : State).park.settleStop g.id
      | (false, t) => t.leaveGang g.id (.failed 4)

/-- All harts of a YIELD-mode gang have reached a `YIELDPT` or ended: each is saved there and goes on after it when it is
restored (R102). -/
def State.stopYielded (s : State) (gid : Nat) : State :=
  let at' (h : Hart) : Option (Word × Bool) := match h.wait with
    | .yieldpt live dead => some (live, dead)
    | _ => none
  let ms := (s.members gid).filter (·.run == .running)
  let dead := ms.any fun h => match at' h with
    | some (_, d) => d
    | none => false
  let s1 : State := s.setGang gid fun g => { g with deadSpad := dead }
  let s2 : State := ms.foldl (fun s h => match at' h with
    | some (live, _) => s.onHart h.key fun s => (s.adv 4).stopHere (live.setWidth 32)
    | none => s) s1
  if dead then { s2 with cores := s2.cores.map fun p => (p.1, { p.2 with tags := p.2.tags.filter (·.gang != gid) }) } else s2

/-! ### Felling (R322) -/

/-- Counts `n` entries that a felled hart discards undispatched in its grove's record (R325, R326, R344). -/
def State.countDiscards (s : State) (n : Nat) : State :=
  match s.myGang.bind (·.grove) with
  | some (hp, slot, _) => if hp = s.pkg then s.setGrove slot fun g => { g with discarded := g.discarded + n } else s
  | none => s

/-- Whether the current hart stands in the felled set. -/
def State.amFelled (s : State) : Bool := match s.myGang with
  | some g => g.felled
  | none => false

end Sys2Proof.Machine
end

