-- ==== Sys2Proof/Machine/Place.lean ====
section
/-! DEFINITION. Where a gang may stand, starting it and bringing it back (R35, R219 to R227, R244, R245, R265, R266, R269,
R270, R313). -/

namespace Sys2Proof.Machine

/-! ### Launch record fields (R256) -/

/-- `NGANG`. -/
def Record.ngang (r : Record) : Nat := field r.ctl 0 16
/-- Harts per gang. -/
def Record.nhart (r : Record) : Nat := field r.ctl 16 4 + 1
/-- Lane groups per hart. -/
def Record.ngrp (r : Record) : Nat := field r.ctl 20 3 + 1
/-- `CLASS`. -/
def Record.cls (r : Record) : Nat := field r.ctl 24 3
/-- `MODE`. -/
def Record.yld (r : Record) : Bool := field r.ctl 27 1 == 1
/-- `DIES`. -/
def Record.dies (r : Record) : Nat := field r.ctl 28 4
/-- `SPAD`. -/
def Record.spad (r : Record) : Nat := field r.ctl 32 7
/-- `NBAR`. -/
def Record.nbar (r : Record) : Nat := field r.ctl 40 7
/-- `PACK`. -/
def Record.pack (r : Record) : Bool := field r.ctl 47 1 == 1
/-- `GROVE.N`. -/
def Record.groveN (r : Record) : Nat := field r.grove 0 7
/-- `GROVE.Q` with its default (R313). -/
def Record.quorum (r : Record) : Nat := if field r.grove 8 7 = 0 then r.groveN / 2 + 1 else field r.grove 8 7
/-- Valid wait events. -/
def Record.waits (r : Record) : List Nat :=
  ([0, 16].filter fun i => field r.evt (i + 8) 1 == 1).map fun i => field r.evt i 8
/-- Valid signal events. -/
def Record.signals (r : Record) : List Nat :=
  ([32, 48].filter fun i => field r.evt (i + 8) 1 == 1).map fun i => field r.evt i 8

/-! ### Room on a cluster -/

/-- Free hart slots and lane groups of the 48 cores of a cluster, and its usable flues in the order they are taken. -/
structure View where
  cores : List (List Nat × List Nat)
  flues : List Nat
deriving DecidableEq, Repr

/-- A core of a cluster. -/
def coreKey (die clu c : Nat) : CoreKey := ⟨false, die, clu, c⟩

/-- Harts running on a core, those of some gangs aside. -/
def State.busyOn (s : State) (k : CoreKey) (gone : List Nat) : List Hart :=
  s.harts.filter fun h => h.run == .running && coreOf h.key == k && !(match h.gang with
    | some g => gone.contains g
    | none => false)

/-- Free hart slots and free lane groups of a core, as if some gangs had left it. -/
def State.freeOn (s : State) (k : CoreKey) (gone : List Nat) : List Nat × List Nat :=
  let busy := (s.busyOn k gone).map (·.key.slot)
  let c := s.core k
  let leaving := ((s.busyOn k []).map (·.key.slot)).filter fun x => !busy.contains x
  ((upFrom 0 4).filter fun x => !busy.contains x,
   (upFrom 0 8).filter fun g => !c.lgoff.getLsbD g && (decide (nibble c.lprCur g < 8) || leaving.contains (nibble c.lprCur g % 4)))

/-- Whether a core's every lane group is withdrawn, as if some gangs had left it: `LGOFF` names it and no hart owns it (R180). -/
def State.bareCore (s : State) (k : CoreKey) (gone : List Nat) : Bool :=
  let busy := (s.busyOn k gone).map (·.key.slot)
  let c := s.core k
  (upFrom 0 8).all fun g => c.lgoff.getLsbD g && (decide (nibble c.lprCur g < 8) || !busy.contains (nibble c.lprCur g % 4))

/-- Whether a flue holds a core whose every lane group is withdrawn (R247). -/
def State.deadFlue (s : State) (die clu f : Nat) (gone : List Nat) : Bool :=
  (upFrom (4 * f) 4).any fun c => s.bareCore (coreKey die clu c) gone

/-- Whether harts stand on a flue. -/
def State.heldFlue (s : State) (die clu f : Nat) (gone : List Nat) : Bool :=
  (upFrom (4 * f) 4).any fun c => !(s.busyOn (coreKey die clu c) gone).isEmpty

/-- Whether a flue meets the conditions of R266 for a class. -/
def State.flueFits (s : State) (die clu cls f : Nat) (gone : List Nat) : Bool :=
  let x := s.flue ⟨die, clu, f⟩
  x.railState == 0 && x.railReq == 0 && x.railTo.isNone && !s.deadFlue die clu f gone && (x.cls == cls || !s.heldFlue die clu f gone)

/-- A cluster as a placement finds it: flues that hold the class come before empty ones (R245). -/
def State.view (s : State) (die clu cls : Nat) (gone : List Nat) : View :=
  let fs := (upFrom 0 12).filter fun f => s.flueFits die clu cls f gone
  ⟨(upFrom 0 48).map fun c => s.freeOn (coreKey die clu c) gone,
   (fs.filter fun f => s.heldFlue die clu f gone) ++ fs.filter fun f => !s.heldFlue die clu f gone⟩

/-- A cluster emptied of gangs, open and awake, every rail on (R257). -/
def State.emptyView (s : State) (die clu : Nat) : View :=
  ⟨(upFrom 0 48).map fun c => (upFrom 0 4, (upFrom 0 8).filter fun g => !(s.core (coreKey die clu c)).lgoff.getLsbD g),
   (upFrom 0 12).filter fun f => (upFrom (4 * f) 4).all fun c => (s.core (coreKey die clu c)).lgoff != 0xFF⟩

/-- A member's place. -/
structure Seat where
  member : Nat
  core : Nat
  slot : Nat
  groups : List Nat
deriving DecidableEq, Repr

/-- Free slots and groups of a core. -/
def View.free (v : View) (c : Nat) : List Nat × List Nat := nth v.cores c ([], [])

/-- Seats a member on a core of a quad row: its lowest free slot and groups. -/
def View.seat (v : View) (need f m : Nat) : Seat :=
  let c := 4 * f + m % 4
  ⟨m, c, (v.free c).1.headD 0, (v.free c).2.take need⟩

/-- Takes a seat's slot and groups. -/
def View.take (v : View) (x : Seat) : View :=
  { v with cores := setNth v.cores x.core ((v.free x.core).1.erase x.slot, (v.free x.core).2.filter fun g => !x.groups.contains g) }

/-- Seats one quad row of members (`PACK` 0). -/
def View.quadRow (v : View) (need : Nat) (row : List Nat) : Option (List Seat × View) :=
  match v.flues.find? (fun f => (upFrom (4 * f) 4).all (fun c => !(v.free c).1.isEmpty) &&
      row.all fun m => decide (need ≤ (v.free (4 * f + m % 4)).2.length)) with
  | some f =>
    let seats := row.map (v.seat need f)
    some (seats, seats.foldl View.take v)
  | none => none

/-- Seats one core's members (`PACK` 1); `want` slots and groups for each must be free there. -/
def View.packRow (v : View) (need want : Nat) (row : List Nat) : Option (List Seat × View) :=
  match (v.flues.flatMap fun f => upFrom (4 * f) 4).find? (fun c =>
      decide (want ≤ (v.free c).1.length) && decide (want * need ≤ (v.free c).2.length)) with
  | some c =>
    let (sl, gr) := v.free c
    let seats := (upFrom 0 row.length).map fun i =>
      let m := nth row i 0
      (⟨m, c, nth sl (m % 4) 0, (gr.drop (i * need)).take need⟩ : Seat)
    some (seats, { v with cores := setNth v.cores c ([], []) })
  | none => none

/-- Seats the members row by row, four to a row (R266). -/
def View.seatRows (v : View) (pack : Bool) (h need : Nat) (members : List Nat) : List Nat → Option (List Seat)
  | [] => some []
  | r :: rs =>
    let row := members.filter fun m => m / 4 == r
    if row.isEmpty then View.seatRows v pack h need members rs
    else match (if pack then v.packRow need (min (h - 4 * r) 4) row else v.quadRow need row) with
      | some (xs, v') => (View.seatRows v' pack h need members rs).map (xs ++ ·)
      | none => none

/-- Seats a gang of a launch. -/
def View.seats (v : View) (r : Record) (members : List Nat) : Option (List Seat) :=
  v.seatRows r.pack r.nhart r.ngrp members (upFrom 0 (ceilDiv r.nhart 4))

/-! ### Scratchpad range and counters -/

/-- `SPPART` of a gang: that of its members that have not ended, which a resumption elsewhere renews (R219, R221). -/
def State.sppartOf (s : State) (g : Nat) : Word := match (s.members g).find? (·.run != .ended) with
  | some h => h.sppart
  | none => 0

/-- Whether a gang's partition is reserved (R219, R269). -/
def Gang.holdsRange (g : Gang) : Bool := g.resident || (!g.deadSpad && !g.copied)

/-- Whether ranges of 4 KiB units meet. -/
def rangesMeet (a n b m : Nat) : Bool := decide (a < b + m) && decide (b < a + n)

/-- Gangs whose partitions meet a range on some of the cores. -/
def State.rangeHolders (s : State) (die clu : Nat) (cores : List Nat) (base size : Nat) : List Gang :=
  s.gangs.filter fun g => g.die == die && g.clu == clu && g.holdsRange &&
    (let p := s.sppartOf g.id
     cores.any (fun c => field p c 1 == 1) && rangesMeet (field p 56 6) (field p 48 7) base size)

/-- The lowest offset free on every core; `movable` gangs do not count (R269). -/
def State.freeBase (s : State) (die clu : Nat) (cores : List Nat) (size : Nat) (movable : Gang → Bool) : Option Nat :=
  if size = 0 then some 0
  else (upFrom 0 (65 - size)).find? fun b => (s.rangeHolders die clu cores b size).all movable

/-- Counters a launch holds on a cluster. -/
def ClusterSt.countersOf (c : ClusterSt) (launch : Nat) : List Nat :=
  (upFrom 0 64).filter fun i => match c.counters[i]? with
    | some x => x.owner == some launch
    | none => false

/-- The counters a gang of a launch gets on a cluster: those the launch holds there, or fresh ones (R227). -/
def ClusterSt.grant (c : ClusterSt) (launch n : Nat) : Option (List Nat) :=
  if n = 0 then some []
  else if !(c.countersOf launch).isEmpty then some (c.countersOf launch)
  else
    let free := (upFrom 0 64).filter fun i => match c.counters[i]? with
      | some x => x.owner.isNone
      | none => false
    if n ≤ free.length then some (free.take n) else none

/-- A place found for a gang. -/
structure Fit where
  die : Nat
  clu : Nat
  seats : List Seat
  base : Nat
  counters : List Nat
deriving DecidableEq, Repr

/-- Whether a gang may be placed on a cluster at all (R250, R254). -/
def ClusterSt.isOpen (c : ClusterSt) : Bool := !c.close && !c.sleep && c.clock == .on

/-- Priority of a gang. -/
def State.prioOf (s : State) (g : Gang) : Nat := match s.launchOf g.launch with
  | some l => l.prio
  | none => 0

/-- A place on one cluster, as if the gangs `gone` had stopped; `moves` lets partitions of stopped gangs of lower priority
be copied out. -/
def State.fitOn (s : State) (l : Launch) (cls : Nat) (members gone : List Nat) (moves : Bool) (die clu : Nat) : Option Fit :=
  let c := s.cluster die clu
  if !c.isOpen then none
  else match (s.view die clu cls gone).seats l.record members with
    | none => none
    | some xs =>
      let cores := dedup (xs.map (·.core))
      let movable (g : Gang) : Bool := moves && (!g.resident || gone.contains g.id) && decide (s.prioOf g < l.prio)
      let slots := (s.gangs.filter fun g => g.resident && g.die == die && g.clu == clu && !gone.contains g.id).length
      match s.freeBase die clu cores l.record.spad movable, c.grant l.id l.record.nbar with
      | some b, some cs => if slots < 64 then some ⟨die, clu, xs, b, cs⟩ else none
      | _, _ => none

/-- Dies a launch's gangs may stand on, in the order they are tried (R266, R274). -/
def State.launchDies (s : State) (l : Launch) : List Nat :=
  l.die :: (upFrom 0 4).filter fun d => d != l.die && natBits l.record.dies d 1 == 1 && !s.deadLinks.contains (min d l.die, max d l.die)

/-- The first place for a gang of a launch (R266). -/
def State.findFit (s : State) (l : Launch) (cls : Nat) (members : List Nat) (moves : Bool) : Option Fit :=
  ((s.launchDies l).flatMap fun d => (upFrom 0 16).map fun c => (d, c)).findSome? fun p => s.fitOn l cls members [] moves p.1 p.2

/-- The place of a stopped gang with a live partition: the cores, slots and offset it had (R221, R269). -/
def State.homeFit (s : State) (l : Launch) (g : Gang) (gone : List Nat) (moves : Bool) : Option Fit :=
  let c := s.cluster g.die g.clu
  let hs := (s.members g.id).filter (·.run == .stopped)
  let p := s.sppartOf g.id
  let size := field p 48 7
  let cores := (upFrom 0 48).filter fun i => field p i 1 == 1
  let movable (x : Gang) : Bool := x.id == g.id || (moves && (!x.resident || gone.contains x.id) && decide (s.prioOf x < l.prio))
  let clear := size == 0 || (s.rangeHolders g.die g.clu cores (field p 56 6) size).all movable
  let slots := (s.gangs.filter fun x => x.resident && x.die == g.die && x.clu == g.clu && !gone.contains x.id).length
  let seat (v : Option (List Seat × View)) (h : Hart) : Option (List Seat × View) :=
    v.bind fun (xs, v) =>
      if (v.free h.key.core).1.contains h.key.slot && v.flues.contains (h.key.core / 4) &&
          decide (l.record.ngrp ≤ (v.free h.key.core).2.length) then
        let x : Seat := ⟨h.member, h.key.core, h.key.slot, (v.free h.key.core).2.take l.record.ngrp⟩
        some (xs ++ [x], v.take x)
      else none
  if !c.isOpen || !clear || 64 ≤ slots then none
  else match hs.foldl seat (some ([], s.view g.die g.clu g.cls gone)) with
    | some (xs, _) => some ⟨g.die, g.clu, xs, field p 56 6, c.countersOf l.id⟩
    | none => none

/-- A place for a stopped gang (R269). -/
def State.resumeFit (s : State) (l : Launch) (g : Gang) (moves : Bool) : Option Fit :=
  if g.deadSpad then s.findFit l g.cls (((s.members g.id).filter (·.run == .stopped)).map (·.member)) moves
  else s.homeFit l g [] moves

/-! ### Taking a place -/

/-- Zeroes memory from a key on. -/
def Mem.zero (m : Mem) (k n : Nat) : Mem :=
  ⟨m.cells.filter fun c => c.1 < k || k + n ≤ c.1, m.lines.filter fun p => p.1 * 64 < k || k + n ≤ p.1 * 64⟩

/-- Zeroes a partition on its cores (R221). -/
def State.zeroSpad (s : State) (f : Fit) (size : Nat) : State :=
  { s with mem := (dedup (f.seats.map (·.core))).foldl (fun m c => m.zero (spadKey f.die f.clu c (f.base * 4096)) (size * 4096)) s.mem }

/-- The member of a gang with the lowest number on a core of its partition, whether it has ended or is stopped (R269). -/
def State.lowest (s : State) (g : Gang) (c : Nat) : Option Hart :=
  match (s.members g.id).filter fun h => coreOf h.key == coreKey g.die g.clu c && h.sppart == s.sppartOf g.id with
  | [] => none
  | h :: hs => some (hs.foldl (fun a b => if b.member < a.member then b else a) h)

/-- The cores of a gang's partition. -/
def State.spadCores (s : State) (g : Nat) : List Nat := (upFrom 0 48).filter fun i => field (s.sppartOf g) i 1 == 1

/-- Key and bytes of a gang's partition on a core. -/
def State.spadRange (s : State) (g : Gang) (c : Nat) : Nat × Nat :=
  let p := s.sppartOf g.id
  (spadKey g.die g.clu c (field p 56 6 * 4096), field p 48 7 * 4096)

/-- Writes a core's tag entries and partition bytes, as a read delivers them, into the slot of the lowest member there (R269). -/
def copyCore (l : Launch) (g : Gang) (c : Nat) : M Unit := do
  let s ← get
  match s.lowest g c with
  | none => return ()
  | some h =>
    let (k, n) := s.spadRange g c
    let ctx := l.ctx h.key.die
    let a := copyAddr l h
    let (bytes, sev) ← if n = 0 then pure ([], 0) else readTwice k n 0
    if sev = 2 then raise Cause.sev2 a (accessInfo .load 3 0)
    agentStore ctx a (tagImage (s.core (coreKey g.die g.clu c)).tags g.id)
    agentStore ctx (a + 8192) bytes

/-- Copies every core of a gang. -/
def copyCores (l : Launch) (g : Gang) : List Nat → M Unit
  | [] => return ()
  | c :: t => do
    copyCore l g c
    copyCores l g t

/-- Copies the partitions of stopped gangs that a place needs out of the scratchpad (R269); a slot that cannot be written ends its
gang as failed (log 22). -/
def State.copyOut (s : State) (f : Fit) (size : Nat) (self : Nat) : State :=
  if size = 0 then s
  else ((s.rangeHolders f.die f.clu (dedup (f.seats.map (·.core))) f.base size).filter fun g => g.id != self && !g.resident).foldl (fun s g =>
    match s.launchOf g.launch with
    | none => s
    | some l => match s.tries (copyCores l g (s.spadCores g.id)) with
      | (false, t) => t.leaveGang g.id (.failed 4)
      | (true, t) =>
        let u : State := t.setGang g.id fun g => { g with copied := true }
        { u with cores := u.cores.map fun q => (q.1, { q.2 with tags := q.2.tags.filter (·.gang != g.id) }) }) s

/-- Puts a tag entry back, in its own way of its set or the lowest free one; lost where another gang has filled the set (log 22). -/
def CoreSt.putTag (c : CoreSt) (e : TagEntry) : CoreSt :=
  match (e.way :: upFrom 0 4).find? fun w => !c.tags.any fun t => t.set == e.set && t.way == w with
  | some w => { c with tags := c.tags ++ [{ e with way := w }] }
  | none => c

/-- Writes a core's copy back from the slot it was copied to (R269). -/
def copyBack (l : Launch) (g : Gang) (c : Nat) : M Unit := do
  let s ← get
  match s.lowest g c with
  | none => return ()
  | some h =>
    let (k, n) := s.spadRange g c
    let ctx := l.ctx h.key.die
    let tags ← agentLoad ctx (copyAddr l h) 8192
    let bytes ← if n = 0 then pure [] else agentLoad ctx (copyAddr l h + 8192) n
    modify fun s =>
      ({ s with mem := (s.mem.zero k n).store k bytes } : State).setCore (coreKey g.die g.clu c) fun x =>
        (tagsIn g.id tags).foldl CoreSt.putTag x

/-- Writes every core's copy back. -/
def copiesBack (l : Launch) (g : Gang) : List Nat → M Unit
  | [] => return ()
  | c :: t => do
    copyBack l g c
    copiesBack l g t

/-- Writes both halves of a core's `LPR` for a seat (R178, R214): its lane groups are its own in both; of the rest, `NEXT` keeps what it
asks for harts that run on the core. -/
def CoreSt.seated (c : CoreSt) (running : List Nat) (x : Seat) : CoreSt :=
  let cur := x.groups.foldl (fun w g => setNibble w g (8 + x.slot)) c.lprCur
  { c with
    lprCur := cur
    lprNext := (upFrom 0 8).foldl (fun w g =>
      if x.groups.contains g then setNibble w g (8 + x.slot)
      else if 8 ≤ nibble cur g || (8 ≤ nibble w g && running.contains (nibble w g % 4)) then w
      else setNibble w g 0) c.lprNext }

/-- Assigns a seat's lane groups (R178). -/
def State.assignGroups (s : State) (f : Fit) (x : Seat) : State :=
  let k := coreKey f.die f.clu x.core
  s.setCore k (·.seated ((s.busyOn k []).map (·.key.slot)) x)

/-- Grants counters that the launch does not hold yet; each starts at zero (R227). -/
def State.grantCounters (s : State) (launch : Nat) (f : Fit) : State :=
  let one (v : Vector Counter 64) (i : Nat) : Vector Counter 64 := match v[i]? with
    | some x => if x.owner == some launch then v else v.setIfInBounds i ⟨0, 0, 0, some launch⟩
    | none => v
  s.setCluster f.die f.clu fun c => { c with counters := f.counters.foldl one c.counters }

/-- Marks the flues of a place with its class and its lane groups as assigned. -/
def State.occupy (s : State) (launch cls : Nat) (f : Fit) : State :=
  let s1 : State := f.seats.foldl (fun s x => (s.assignGroups f x).setFlue ⟨f.die, f.clu, x.core / 4⟩ fun y => { y with cls := cls }) s
  s1.grantCounters launch f

/-- `SPPART` of a place. -/
def Fit.sppart (f : Fit) (size : Nat) : Word :=
  BitVec.ofNat 64 (f.base % 64 * 2 ^ 56 + size * 2 ^ 48 + (dedup (f.seats.map (·.core))).foldl (fun a c => a + 2 ^ c) 0)

/-- `NBAR` of a place. -/
def Fit.nbar (f : Fit) : Word := BitVec.ofNat 64 (f.counters.foldl (fun a i => a + 2 ^ i) 0)

/-- `GROVE` of a member (R314). -/
def groveWord (r : Record) : Option (Nat × Nat × Nat) → Word
  | none => 0
  | some (hp, slot, i) => BitVec.ofNat 64 (hp * 2 ^ 48 + slot * 2 ^ 32 + r.quorum * 2 ^ 16 + r.groveN * 2 ^ 8 + 128 + i)

/-- A hart as a launch starts it (R35, R173, R266). -/
def startHart (l : Launch) (f : Fit) (gang idx uid : Nat) (grove : Option (Nat × Nat × Nat)) (x : Seat) : Hart :=
  { Hart.start ⟨false, f.die, f.clu, x.core, x.slot⟩ with
    uid := uid
    gang := some gang
    pc := l.record.entry
    x := (Vector.replicate 32 (0 : Word)).set 3 l.record.args
    yld := l.record.yld
    gangSize := l.record.nhart
    member := x.member
    gangIdx := idx
    grove := groveWord l.record grove
    sppart := f.sppart l.record.spad
    nbar := f.nbar
    tvec := l.record.tvec &&& ~~~3
    ptroot := l.ptroot
    asid := l.asid }

/-- Drops harts that have ended and whose gang has left. -/
def State.tidy (s : State) : State := { s with others := s.others.filter fun h => h.run != .ended || h.gang.isSome }

/-- Places and starts gang `idx` of a launch (R266). -/
def State.startGang (s : State) (l : Launch) (idx : Nat) (grove : Option (Nat × Nat × Nat)) (f : Fit) : State :=
  let gid := s.nextId
  let s1 : State := ((s.tidy.copyOut f l.record.spad gid).occupy l.id l.record.cls f).zeroSpad f l.record.spad
  let g : Gang :=
    ⟨gid, l.id, idx, f.die, f.clu, l.record.cls, true, 0, 0, 0, 0, 0, false, none, false, false, false, none, grove, false, false⟩
  let hs := (upFrom 0 f.seats.length).map fun i =>
    startHart l f gid idx (gid + 1 + i) grove (nth f.seats i ⟨0, 0, 0, []⟩)
  let s2 : State := { s1 with gangs := s1.gangs ++ [g], others := s1.others ++ hs, nextId := gid + 1 + f.seats.length }
  match grove with
  | some (hp, slot, i) => if hp = s2.pkg then s2.setGrove slot (·.setMember i fun m => { m with gang := some gid }) else s2
  | none => s2

/-- Restores the stopped harts of a gang, each at its seat. -/
def restoreAll (l : Launch) (f : Fit) (dead : Bool) (lg : Nat) : List Hart → M (List (Hart × Option Nat))
  | [] => return []
  | h :: t => do
    let r ← restoreSlot l h lg
    let x := (f.seats.find? (·.member == h.member)).getD ⟨h.member, h.key.core, h.key.slot, []⟩
    let h1 : Hart := { r.1 with
      run := .running
      key := ⟨false, f.die, f.clu, x.core, x.slot⟩
      sppart := if dead then f.sppart l.record.spad else h.sppart
      nbar := f.nbar }
    return (h1, r.2) :: (← restoreAll l f dead lg t)

/-- Brings a stopped gang back (R270): partition and tag entries, slots, rows, resume registers; all harts start together. A slot that
cannot be read ends it as failed. -/
def State.resumeGang (s : State) (l : Launch) (g : Gang) (f : Fit) : State :=
  let size := l.record.spad
  let s1 : State := s.tidy.copyOut f size g.id
  let s2 : State := if g.deadSpad then s1.zeroSpad f size else s1
  let back : M (List (Hart × Option Nat)) := do
    if g.copied then copiesBack l g (s.spadCores g.id)
    restoreAll l f g.deadSpad l.record.ngrp ((s.members g.id).filter (·.run == .stopped))
  match back.on s2 with
  | (.error _, t) => t.leaveGang g.id (.failed 4)
  | (.ok hs, t) =>
    let t1 : State := (t.occupy l.id g.cls f).setGang g.id fun g =>
      { g with die := f.die, clu := f.clu, resident := true, deadSpad := false, copied := false }
    let t2 : State := t1.mapHarts (fun h => hs.any (·.1.uid == h.uid)) fun h => match hs.find? (·.1.uid == h.uid) with
      | some (h1, _) => h1
      | none => h
    let t3 : State := hs.foldl (fun s p => match p.2 with
      | some n => s.onHart p.1.key fun s => s.trapHere Cause.rescode (BitVec.ofNat 64 n) 0
      | none => s) t2
    t3.timerCheck

end Sys2Proof.Machine
end

