-- ==== Sys2Proof/Machine/HostChannel.lean ====
section
/-! DEFINITION. The host channel of the mailbox (R328, R339), and the registers' side of both (R340). -/

namespace Sys2Proof.Machine

/-- A host channel line. -/
structure ChannelLine where
  tail : Nat
  head : Nat
  ring : Nat
  cfg : Nat
  resp : Nat
deriving DecidableEq, Repr

/-- `LOG`. -/
def ChannelLine.log (l : ChannelLine) : Nat := natBits l.cfg 0 4

/-- A malformed line. -/
def ChannelLine.bad (l : ChannelLine) : Bool :=
  natBits l.cfg 4 4 != 0 || decide (512 ≤ l.cfg) || decide (l.log < 3) || decide (10 < l.log) || decide (l.tail < l.head) ||
  decide (l.head + 2 ^ l.log < l.tail)

/-- Host messages that await their replies. -/
def Die.hostWaiting (d : Die) : Nat := (d.messages.filter fun m => m.src == 1 && !m.answered).length

/-- Takes messages from the ring, oldest first. Structural on how many are left. -/
def State.takeHost (s : State) (die line : Nat) (l : ChannelLine) (i : Nat) : Nat → State
  | 0 => s
  | n + 1 =>
    if 2 ^ l.log ≤ (s.die die).hostWaiting then s
    else match s.devGets die (l.ring + 16 * (i % 2 ^ l.log)) 2 with
      | (some [w0, w1], t) =>
        let m : Message := ⟨1, 0, 0, BitVec.ofNat 16 i, BitVec.ofNat 64 w0, BitVec.ofNat 64 w1, true, none, false⟩
        let u : State := (t.setDie die fun d => { d with messages := d.messages ++ [m] }).devPut die (line + 8) (i + 1)
        State.takeHost u die line l (i + 1) n
      | (_, t) => t

/-- The mailbox looks at the host channel line: messages are taken while it has an inbox; a malformed line is a bad line, served
once its journal entry has room (R332). -/
def State.hostChannel (s : State) (die : Nat) : State :=
  let line := (s.die die).lineAddr 64
  match s.devGets die line 5 with
  | (some [t, h, r, c, p], s1) =>
    let l : ChannelLine := ⟨t, h, r, c, p⟩
    if natBits l.cfg 8 1 = 0 then s1
    else if l.bad then
      let s2 := s1.devPut die (line + 24) (l.cfg - 256)
      match s2.journalAdd die line (entryWord 0 die 3 1 1 0 0) with
      | some (_, s3) => s3
      | none => if (s1.die die).journal.isNone then s2 else s1
    else if (s1.die die).inbox.isNone then s1
    else (s1.takeHost die line l l.head (l.tail - l.head)).inboxFill die
  | (_, s1) => s1

/-- The mailbox goes on after a reply or with an inbox at last: messages held back are taken (R339), and the inbox is filled. -/
def State.roomFreed (s : State) (die : Nat) : State := (s.hostChannel die).inboxFill die

/-- A write of `MBXREPLY` (R340): a report, an unknown sequence and a second reply are ignored. -/
def State.reply (s : State) (die : Nat) (v : Word) : State :=
  match (s.die die).messages.find? (fun m => (match m.seq with | some q => q % 2 ^ 16 == field v 0 16 | none => false) && !m.answered) with
  | some m => (s.deliverReply die m (field v 16 8) (field v 32 32)).roomFreed die
  | none => s

end Sys2Proof.Machine
end

