-- ==== Sys2Proof/Machine/SysRegs.lean ====
section
/-! DEFINITION. The system registers: which exist for whom (R5), what a read gives and does, and what a write checks and
does (R8, R29 to R34, R97, R104 and each register's own rule). -/

namespace Sys2Proof.Machine

/-- Smallest lane-group count among the gang's running harts, or the hart's own where it has no gang (R110). DEDUCED (log 71): a
member that has ended or been stopped, whose groups are free (R179, R214), no longer counts. -/
def State.gangGroups (s : State) (h : Hart) : Nat :=
  match h.gang with
  | some g => ((s.members g).filter (·.run == .running)).foldl (fun n x => min n (s.groups x.key).length) (s.groups h.key).length
  | none => (s.groups h.key).length

/-- `vmax` of R110 for a configuration word. -/
def State.vmax (s : State) (h : Hart) (cfg : Word) : Nat :=
  let g := if field cfg 11 1 = 1 then s.gangGroups h else (s.groups h.key).length
  256 * g * 2 ^ field cfg 3 2 / 2 ^ field cfg 0 2

/-- Registers that exist at either level (R29, R219). -/
def unprivRegs : List Nat :=
  [0x000, 0x001, 0x002, 0x003, 0x004, 0x005, 0x006, 0x008, 0x009, 0x00A, 0x00C, 0x00D, 0x00E, 0x010, 0x011, 0x012, 0x014,
   0x018, 0x019, 0x01A, 0x01B, 0x020, 0x021, 0x022, 0x028, 0x029, 0x030, 0x038, 0x040, 0x041, 0x042, 0x050, 0x051]

/-- Privileged registers of every hart. -/
def privRegs : List Nat :=
  [0x100, 0x101, 0x102, 0x103, 0x104, 0x105, 0x106, 0x107, 0x110, 0x111, 0x112, 0x114, 0x118, 0x119, 0x120, 0x121, 0x122,
   0x123, 0x130, 0x131, 0x138, 0x139, 0x13A, 0x140]

/-- Registers of the die manager core alone. -/
def dmRegs : List Nat :=
  [0x124, 0x125, 0x150, 0x151, 0x153, 0x158, 0x159, 0x15A, 0x15B, 0x15C, 0x15D, 0x15E, 0x15F, 0x160, 0x161, 0x162, 0x163, 0x168]

/-- Whether a number names a register on this hart. -/
def assigned (dm : Bool) (n : Nat) : Bool := unprivRegs.contains n || privRegs.contains n || (dm && dmRegs.contains n)

/-- The flue that a hart's flue registers refer to (R241). -/
def State.ownFlue (s : State) (h : Hart) : FlueKey :=
  if h.key.dm then ⟨h.key.die, field (s.die h.key.die).flsel 8 4, field (s.die h.key.die).flsel 0 4⟩ else flueOf (coreOf h.key)

/-- The cluster that the die manager core has selected (R248). -/
def State.ownCluster (s : State) (h : Hart) : Nat := field (s.die h.key.die).flsel 8 4

/-- Gangs resident on a cluster (R252). -/
def State.residentGangs (s : State) (die clu : Nat) : Nat :=
  (s.gangs.filter fun g => g.resident && g.die == die && g.clu == clu).length

/-- Whether a cluster's copy engine holds a command (R252). -/
def State.ceBusy (s : State) (die clu : Nat) : Bool :=
  s.cmds.any fun c => c.eng == 1 && c.key.die == die && c.key.clu == clu && c.record.isNone

/-- `CQSTAT` of a cluster (R252). -/
def State.cqstat (s : State) (die clu : Nat) : Word :=
  let on := (upFrom 0 12).foldl (fun a f => let x := s.flue ⟨die, clu, f⟩; a + b2n (x.railState == 0 && x.railTo.isNone) * 2 ^ f) 0
  let off := (upFrom 0 12).foldl (fun a f => let x := s.flue ⟨die, clu, f⟩; a + b2n (x.railState == 2 && x.railTo.isNone) * 2 ^ f) 0
  let slp := (s.cluster die clu).clock != .on
  BitVec.ofNat 64 (on * 2 ^ 32 + off * 2 ^ 16 + b2n slp * 2 ^ 9 + b2n (s.ceBusy die clu) * 2 ^ 8 + s.residentGangs die clu)

/-- A deviation as eight bits. -/
def devByte (d : Int) : Nat := wrap d 8

/-- `FLIMB` bits 31:0. -/
def FlueSt.devs (f : FlueSt) : Nat := devByte f.dev[0] + devByte f.dev[1] * 2 ^ 8 + devByte f.dev[2] * 2 ^ 16 + devByte f.dev[3] * 2 ^ 24

/-- A read of a flue register (R241, R253). -/
def FlueSt.read (f : FlueSt) (n : Nat) : Nat :=
  match n with
  | 0x120 => if f.held then 0 else f.devs + f.maxdev * 2 ^ 32 + b2n f.damped * 2 ^ 40
  | 0x121 =>
    if f.held then 0x4080F
    else match f.pending with
      | some (dh, em, dm) => dh * 2 ^ 16 + em * 2 ^ 8 + dm
      | none => f.dhold * 2 ^ 16 + f.embt * 2 ^ 8 + f.dmpt
  | 0x122 => if f.held then 0 else f.emb.toNat
  | 0x123 => if f.held then 0 else f.win.toNat * 2 ^ 32 + f.engaged.toNat
  | _ => b2n f.railTo.isSome * 2 ^ 8 + f.railState * 2 ^ 4 + f.railReq

/-- `FLSTAT` of a hart (R240); 0 on the die manager core. -/
def State.flstat (s : State) (h : Hart) : Nat :=
  if h.key.dm then 0
  else
    let f := s.flue (flueOf (coreOf h.key))
    let pos := h.key.core % 4
    let emb := (s.core (coreOf h.key)).emberRate != 0
    f.cls * 2 ^ 24 + h.key.core / 4 * 2 ^ 16 + pos * 2 ^ 12 + b2n emb * 2 ^ 9 + b2n f.damped * 2 ^ 8 +
      natBits f.devs (8 * pos) 8

/-- The controller that `MSSEL` selects (R305). -/
def Die.selected (d : Die) : MemCtl := d.ctl[d.mssel.toNat]'(by have := d.mssel.isLt; omega)

/-- What a read of a system register gives, without its side effect. -/
def State.srValue (s : State) (h : Hart) (n : Nat) : Word :=
  let d := s.die h.key.die
  let c := s.core (coreOf h.key)
  let w (x : Nat) : Word := BitVec.ofNat 64 x
  match n with
  | 0x000 => w h.vl
  | 0x001 => h.vcfg
  | 0x002 => w h.rc
  | 0x003 => w (s.vmax h (h.vcfg &&& ~~~0x800))
  | 0x004 => h.vsi
  | 0x005 => h.vsr
  | 0x006 => h.vsp
  | 0x008 => h.dl[0].setWidth 64
  | 0x009 => h.dl[1].setWidth 64
  | 0x00A => h.dl[2].setWidth 64
  | 0x00C => h.dt[0]
  | 0x00D => h.dt[1]
  | 0x00E => h.dt[2]
  | 0x010 => h.fflags.setWidth 64
  | 0x011 => h.xlist
  | 0x012 => h.xlimit ++ h.xcount
  | 0x014 => w h.tbn
  | 0x018 => w h.mt
  | 0x019 => w h.nt
  | 0x01A => w h.kt
  | 0x01B => w (b2n h.mm + 2 * b2n h.yld)
  | 0x020 => hartidWord s.pkg h.key
  | 0x021 => w ((h.gangSize - 1) * 2 ^ 20 + h.member * 2 ^ 16 + h.gangIdx)
  | 0x022 => let g := s.groups h.key; w (g.length * 2 ^ 8 + g.foldl (fun a k => a + 2 ^ k) 0)
  | 0x028 => h.cycle
  | 0x029 => s.time
  | 0x030 => w (s.flstat h)
  | 0x038 => h.grove
  | 0x040 => h.event.setWidth 64
  | 0x041 => h.evmask.setWidth 64
  | 0x042 => h.timecmp
  | 0x050 => h.sppart
  | 0x051 => h.nbar
  | 0x100 => h.tvec
  | 0x101 => h.tcause.setWidth 64
  | 0x102 => h.tval
  | 0x103 => h.tpc
  | 0x104 => h.tinfo
  | 0x105 => w (b2n h.pprv + 2 * b2n h.ih)
  | 0x106 => h.tscr
  | 0x107 => h.tsave
  | 0x110 => c.lprNext ++ c.lprCur
  | 0x111 => w (c.gateCap.toNat * 2 ^ 16 + c.gateLeak.toNat)
  | 0x112 => c.level.setWidth 64
  | 0x114 => c.lgoff.setWidth 64
  | 0x118 => c.seed
  | 0x119 => c.pois ++ c.chk
  | 0x120 => w ((s.flue (s.ownFlue h)).read 0x120)
  | 0x121 => w ((s.flue (s.ownFlue h)).read 0x121)
  | 0x122 => w ((s.flue (s.ownFlue h)).read 0x122)
  | 0x123 => w ((s.flue (s.ownFlue h)).read 0x123)
  | 0x124 => d.flsel
  | 0x125 => w ((s.flue (s.ownFlue h)).read 0x125)
  | 0x130 => (s.energyCount.setWidth 32).setWidth 64
  | 0x131 => h.energyHi.setWidth 64
  | 0x138 => h.ptroot
  | 0x139 => h.asid.setWidth 64
  | 0x13A => d.walkStride ++ d.walkDisagree
  | 0x140 => s.caphead &&& ~~~15
  | 0x150 => let k := s.cluster h.key.die (s.ownCluster h); w (b2n k.close + 2 * b2n (k.pre && s.residentGangs h.key.die (s.ownCluster h) != 0) + 4 * b2n k.sleep)
  | 0x151 => s.cqstat h.key.die (s.ownCluster h)
  | 0x153 => d.cwake.setWidth 64
  | 0x158 => d.qcbase
  | 0x159 => d.qasbase
  | 0x15A => d.jbase
  | 0x15B => d.uvpin.setWidth 64
  | 0x15C => d.mbxbase
  | 0x15D => d.mbxtail.setWidth 64
  | 0x15E => d.mbxhead.setWidth 64
  | 0x160 => d.mssel.setWidth 64
  | 0x161 => match d.selected.queue with
    | [] => 0
    | e :: _ => if d.selected.ovf then e ||| w (2 ^ 62) else e
  | 0x162 => d.selected.sev2 ++ d.selected.sev1 ++ d.selected.corr
  | 0x163 => if d.mssel = 3 then 0 else w (d.selected.tState * 2 ^ 16 + d.selected.tLayer * 2 ^ 8 + d.selected.tTemp)
  | 0x168 => w (s.fabUp.toNat * 2 ^ 32 + s.fabSize * 2 ^ 16 + s.pkg)
  | _ => 0

/-- The side effect of a read: `MFAQ` pops (R305, R306), `ENERGYLO` latches (R342). -/
def State.srReadEffect (s : State) (n : Nat) : State :=
  match n with
  | 0x161 => s.setCtl s.h.key.die (s.die s.h.key.die).mssel.toNat fun c =>
      match c.queue with
      | [] => c
      | _ :: t => { c with queue := t, ovf := false }
  | 0x130 => { s with h := { s.h with energyHi := (s.energyCount >>> 32).setWidth 32 } }
  | _ => s

/-- Reserved field values of `VCFG` and `TSAVE` (R29, R104). DEDUCED (log 71): for `TSAVE` too, nonzero bits 63:12 count as
reserved field values, not as reserved bits that a write ignores. -/
def badCfg (v : Word) : Bool := field v 12 52 != 0 || field v 2 1 != 0 || field v 5 2 == 3

/-- Whether any hart is resident on a flue's cores (R241). -/
def State.flueBusy (s : State) (k : FlueKey) : Bool :=
  s.harts.any fun h => h.run == .running && !h.key.dm && flueOf (coreOf h.key) == k

/-- Whether a write of `LPR.NEXT` is refused (R178). -/
def State.badNext (s : State) (k : CoreKey) (next : BitVec 32) : Bool :=
  let c := s.core k
  ((upFrom 0 8).any fun g => natBits (nibble next g) 2 1 == 1 || (8 ≤ nibble next g && c.lgoff.getLsbD g)) ||
  (s.harts.any fun h => h.run == .running && coreOf h.key == k && (groupsOf next h.key.slot).isEmpty)

/-- Withdrawing lane groups: `ASG` clears in `NEXT` of a group newly withdrawn and assigned in `CUR` (R180). -/
def CoreSt.withdraw (c : CoreSt) (off : BitVec 8) : CoreSt :=
  { c with lgoff := off, lprNext := (upFrom 0 8).foldl (fun w g =>
      if off.getLsbD g && !c.lgoff.getLsbD g && 8 ≤ nibble c.lprCur g then setNibble w g (nibble w g % 8) else w) c.lprNext }

/-- Whether a write of `CQCTL` is refused (R249). -/
def State.badCqctl (s : State) (die clu : Nat) (v : Word) : Bool :=
  let k := s.cluster die clu
  let close := field v 0 1 == 1
  let pre := field v 1 1 == 1
  let sleep := field v 2 1 == 1
  let st := s.cqstat die clu
  (pre && !close) || (pre && k.sleep) || (k.sleep && sleep && (!close || pre)) ||
  (!k.sleep && sleep && !(close && field st 0 9 == 0 && field st 16 12 == 0xFFF))

/-- Harts waiting at a `YIELDPT` pass it once the request is withdrawn (R102, R267). -/
def State.withdrawStop (s : State) (p : Gang → Bool) : State :=
  { s with gangs := s.gangs.map fun g => if p g then { g with preempt := false } else g }

/-- Asks a gang to stop: `EVENT.PRENOT` on every hart (R267). -/
def State.requestStop (s : State) (gid : Nat) (die : Option Nat) : State :=
  ((s.setGang gid fun g => { g with preempt := true, askedBy := die }).mapHarts (fun h => h.gang == some gid) (·.setEvent .prenot))

/-- Performs a write of `CQCTL` (R249 to R251, R254). -/
def State.setCqctl (s : State) (die clu : Nat) (v : Word) : State :=
  let old := s.cluster die clu
  let sleep := field v 2 1 == 1
  let pre := field v 1 1 == 1
  let clock := if sleep && !old.sleep then ClockState.stopping else if !sleep && old.sleep then .starting else old.clock
  let s : State := s.setCluster die clu fun k =>
    { k with close := field v 0 1 == 1, pre := pre && s.residentGangs die clu != 0, sleep := sleep, clock := clock }
  let here (g : Gang) : Bool := g.resident && g.die == die && g.clu == clu
  if pre then (s.gangs.filter here).foldl (fun s g =>
    if g.preempt then s.setGang g.id ({ · with askedBy := none }) else s.requestStop g.id none) s
  else if old.pre then s.withdrawStop fun g => here g && (s.members g.id).any (·.yld)
  else s

/-- Sets `CWAKE`; each bit that rises sets `EVENT.WAKE` on the die manager core (R255). -/
def State.setCwake (s : State) (die : Nat) (v : BitVec 16) : State :=
  let old := (s.die die).cwake
  let s : State := s.setDie die fun d => { d with cwake := v }
  if v &&& ~~~old ≠ 0 then s.setHart (dmKey die) (·.setEvent .wake) else s

/-- Requests a rail state; a step begins at once where none is under way (R242). -/
def FlueSt.request (f : FlueSt) (r : Nat) : FlueSt :=
  let f := { f with railReq := r }
  if f.railTo.isSome then f
  else if f.railState < r then { f with railTo := some (f.railState + 1) }
  else if r < f.railState then { f with railTo := some (f.railState - 1) }
  else f

/-- Performs a write of a system register at the current level; none is OPND. Reserved bits and read-only registers are
ignored (R8). `EVENT` and `UVPIN` clear the bits written as 1. -/
def State.srWrite (s : State) (n : Nat) (v : Word) : Option State :=
  let h := s.h
  let die := h.key.die
  let k := coreOf h.key
  let hart (f : Hart → Hart) : Option State := some { s with h := f s.h }
  let dieW (f : Die → Die) : Option State := some (s.setDie die f)
  let flueW (f : FlueSt → FlueSt) : Option State :=
    if (s.flue (s.ownFlue h)).held then some s else some (s.setFlue (s.ownFlue h) f)
  match n with
  | 0x000 => if !h.priv then some s else if v.toNat ≤ s.vmax h h.vcfg then hart fun h => { h with vl := v.toNat } else none
  | 0x001 => if !h.priv then some s else if badCfg v || s.vmax h v < h.vl then none else hart fun h => { h with vcfg := v }
  | 0x002 => if !h.priv then some s else if 1 ≤ v.toNat ∧ v.toNat ≤ 32 then hart fun h => { h with rc := v.toNat } else none
  | 0x004 => hart fun h => { h with vsi := v }
  | 0x005 => hart fun h => { h with vsr := v }
  | 0x006 => hart fun h => { h with vsp := v }
  | 0x008 => hart fun h => { h with dl := h.dl.set 0 (v.setWidth 16) }
  | 0x009 => hart fun h => { h with dl := h.dl.set 1 (v.setWidth 16) }
  | 0x00A => hart fun h => { h with dl := h.dl.set 2 (v.setWidth 16) }
  | 0x00C => hart fun h => { h with dt := h.dt.set 0 v }
  | 0x00D => hart fun h => { h with dt := h.dt.set 1 v }
  | 0x00E => hart fun h => { h with dt := h.dt.set 2 v }
  | 0x010 => hart fun h => { h with fflags := v.setWidth 7 }
  | 0x011 => hart fun h => { h with xlist := v &&& ~~~15 }
  | 0x012 => hart fun h => { h with xcount := v.setWidth 32, xlimit := (v >>> 32).setWidth 32 }
  | 0x014 => if v.toNat ≤ 256 then hart fun h => { h with tbn := v.toNat } else none
  | 0x028 => if !h.priv then some s else hart fun h => { h with cycle := v }
  | 0x040 => some ({ s with h := { s.h with event := s.h.event &&& ~~~(v.setWidth 5) } }.timerCheck)
  | 0x041 => hart fun h => { h with evmask := v.setWidth 5 }
  | 0x042 => some ({ s with h := { s.h with timecmp := v } }.timerCheck)
  | 0x100 => hart fun h => { h with tvec := v &&& ~~~3 }
  | 0x101 => hart fun h => { h with tcause := v.setWidth 8 }
  | 0x102 => hart fun h => { h with tval := v }
  | 0x103 => hart fun h => { h with tpc := v &&& ~~~1 }
  | 0x104 => hart fun h => { h with tinfo := v }
  | 0x105 => hart fun h => { h with pprv := v.getLsbD 0, ih := v.getLsbD 1 }
  | 0x106 => hart fun h => { h with tscr := v }
  | 0x107 => if badCfg v then none else hart fun h => { h with tsave := v }
  | 0x110 =>
    let next : BitVec 32 := (v >>> 32).setWidth 32
    if s.badNext k next then none else some (s.setCore k fun c => { c with lprNext := next })
  | 0x111 =>
    if field v 16 32 = 0 ∨ field v 0 16 = 0 then none
    else some (s.setCore k fun c => { c with gateCap := (v >>> 16).setWidth 32, gateLeak := v.setWidth 16 })
  | 0x112 => some (s.setCore k fun c => { c with level := v.setWidth 32 })
  | 0x114 => some (s.setCore k fun c => c.withdraw (v.setWidth 8))
  | 0x118 => if v = 0 then none else some (s.setCore k fun c => { c with seed := v })
  | 0x119 => some (s.setCore k fun c => { c with pois := (v >>> 32).setWidth 32, chk := v.setWidth 32 })
  | 0x120 => flueW fun f => { f with maxdev := field v 32 8 }
  | 0x121 =>
    let dm := field v 0 4; let em := field v 8 4; let dh := field v 16 4
    if (s.flue (s.ownFlue h)).held then some s
    else if dm = 0 ∨ dh = 0 ∨ em = 0 ∨ dm < em then none
    else flueW fun f => { f with pending := some (dh, em, dm) }
  | 0x122 => flueW fun f => { f with emb := v }
  | 0x123 => flueW fun f => { f with win := (v >>> 32).setWidth 32, engaged := v.setWidth 32 }
  | 0x124 => if 12 ≤ field v 0 4 then none else dieW fun d => { d with flsel := v &&& 0xF0F }
  | 0x125 =>
    let r := field v 0 2
    let f := s.ownFlue h
    if r = 3 ∨ (r ≠ 0 ∧ s.flueBusy f) ∨ (r ≠ 2 ∧ (s.cluster f.die f.clu).clock ≠ .on) then none
    else some (s.setFlue f (·.request r))
  | 0x138 => if v &&& ~~~0x3FFFFFFF000 ≠ 0 then none else hart fun h => { h with ptroot := v }
  | 0x139 => if field v 16 48 ≠ 0 then none else hart fun h => { h with asid := v.setWidth 16 }
  | 0x13A => dieW fun d => { d with walkStride := (v >>> 32).setWidth 32, walkDisagree := v.setWidth 32 }
  | 0x150 => if s.badCqctl die (s.ownCluster h) v then none else some (s.setCqctl die (s.ownCluster h) v)
  | 0x153 => some (s.setCwake die (v.setWidth 16))
  | 0x158 => dieW fun d => { d with qcbase := v &&& ~~~0xFFF }
  | 0x159 => if field v 0 10 ≠ 0 then none else dieW fun d => { d with qasbase := v }
  | 0x15A => if field v 0 5 < 10 ∨ 20 < field v 0 5 then none else dieW fun d => { d with jbase := v &&& ~~~0xFE0 }
  | 0x15B => dieW fun d => { d with uvpin := d.uvpin &&& ~~~(v.setWidth 17) }
  | 0x15C =>
    if field v 0 4 < 4 ∨ 7 < field v 0 4 then none
    else some ((s.setDie die fun d => { d with mbxbase := v &&& ~~~0xFF0 }).roomFreed die)
  | 0x15E => some ((s.setDie die fun d => { d with mbxhead := v.setWidth 32 }).inboxFill die)
  | 0x15F => some (s.reply die v)
  | 0x160 => dieW fun d => { d with mssel := v.setWidth 2 }
  | 0x162 => some (s.setCtl die (s.die die).mssel.toNat fun c =>
      { c with sev2 := (v >>> 48).setWidth 16, sev1 := (v >>> 32).setWidth 16, corr := v.setWidth 32 })
  | _ => some s

/-- Whether a register's bits are cleared by writing 1 (R8, R97). -/
def w1c (n : Nat) : Bool := n == 0x040 || n == 0x15B

/-- The check of a register number (R5, R97): PRIV before ILLOP. None where it may be accessed. -/
def State.srCheck (s : State) (n : Nat) (enc : Word) : Option Out :=
  if 0x100 ≤ n && !s.h.priv then some (s.privTrap enc)
  else if !assigned s.h.key.dm n then some (s.illop enc)
  else none

/-- A write as an instruction performs it: OPND with the value in `TVAL` and `TINFO` 1 (R29). -/
def State.srWriteInstr (s : State) (n : Nat) (v : Word) (k : State → State) : Out :=
  match s.srWrite n v with
  | some t => .next (k t)
  | none => s.opnd v 1

/-- Registers whose reads wait for every earlier vector instruction (R14). -/
def readWaits (n : Nat) : Bool := [0x004, 0x005, 0x006, 0x010, 0x012, 0x014].contains n

/-- Registers whose writes do (R98), and those whose own rule has them wait (R276). -/
def writeWaits (n : Nat) : Bool := readWaits n || [0x011, 0x138, 0x139].contains n

/-- Whether a write is still to wait: for vector instructions (R98, R276), and for accesses to be performed, scalar ones before a
write of `LPR` (R215), all before one of `PTROOT` or `ASID` (R276). -/
def Hart.writeHeld (h : Hart) (n : Nat) : Bool :=
  (writeWaits n && !h.viq.isEmpty) || (n == 0x110 && h.late.any (!·.isVector)) || ((n == 0x138 || n == 0x139) && !h.late.isEmpty)

/-- A write that has waited is performed. -/
def State.writeNow (s : State) (n : Nat) (v : Word) : State :=
  match ({ s with h := { s.h with wait := .none } } : State).srWriteInstr n v id with
  | .next t => t
  | _ => s

end Sys2Proof.Machine
end

