-- ==== Sys2Proof/Machine/Sched.lean ====
section
/-! DEFINITION. The scheduler (R257 to R274, R313, R330, R354): record checks, eligibility, one placement a step, making
room, completion and cancelling. -/

namespace Sys2Proof.Machine

/-! ### Record checks (R257, R354) -/

/-- The failures of `REASON` 1. -/
def Record.malformed (r : Record) (linked : Bool) (first : Nat) : Bool :=
  field r.ctl 48 16 != 0 || field r.ctl 39 1 != 0 || field r.ctl 23 1 != 0 || (r.evt &&& ~~~0x01FF01FF01FF01FF) != 0 ||
  field r.grove 15 49 != 0 || r.ngang == 0 || decide (64 < r.spad) || decide (64 < r.nbar) || field r.entry 0 1 != 0 ||
  field r.done 0 3 != 0 || field r.tvec 0 2 != 0 || field r.save 0 6 != 0 || r.save == 0 || r.groveN == 1 ||
  decide (64 < r.groveN) || decide (r.groveN < field r.grove 8 7) ||
  (if linked then r.groveN == 0 || decide (r.groveN < first + r.ngang) else r.groveN != 0 && r.groveN != r.ngang) ||
  (r.pack && decide (8 < r.ngrp * min r.nhart 4))

/-- Whether some cluster could hold one gang if it were empty (`REASON` 2). -/
def State.couldHold (s : State) (l : Launch) : Bool :=
  ((upFrom 0 4).filter fun d => d == l.die || natBits l.record.dies d 1 == 1).any fun d =>
    (upFrom 0 16).any fun c => ((s.emptyView d c).seats l.record (upFrom 0 l.record.nhart)).isSome

/-- A launch with nothing read yet. -/
def Launch.blank (id die q seq : Nat) (ql : QLine) (rec : Nat) : Launch :=
  ⟨id, die, q, ⟨BitVec.ofNat 64 rec, 0, 0, 0, 0, 0, 0, 0, 0⟩, BitVec.ofNat 64 seq, ql.prio, 0, 0, 0, false, [], 0, 0, false, none, ql.glink, false⟩

/-- Reads a launch record. -/
def readRecord (c : Ctx) (a : Word) : M Record := do
  let ws := ((chunks 8 8 (← agentLoad c a 64)).map ofBytes).map (BitVec.ofNat 64)
  return ⟨a, nth ws 0 0, nth ws 1 0, nth ws 2 0, nth ws 3 0, nth ws 4 0, nth ws 5 0, nth ws 6 0, nth ws 7 0⟩

/-- Reads and checks the launch at ring entry `i` of a queue (R257, R276): its `reason` is 0 where it may run. -/
def State.readLaunch (s : State) (die q seq : Nat) (ql : QLine) (i : Nat) : Launch × State :=
  let (rec, s1) := s.devGet die (ql.ring + 8 * (i % 2 ^ ql.log))
  let (qas, s2) := s1.devGets die (field (s1.die die).qasbase 10 54 * 1024 + 16 * q) 2
  let l := Launch.blank s2.nextId die q seq ql (rec.getD 0)
  let s3 : State := { s2 with nextId := s2.nextId + 1 }
  match rec, qas with
  | some rec, some [root, asid] =>
    if natBits root 12 30 = 0 ∨ natBits root 0 12 ≠ 0 ∨ 2 ^ 42 ≤ root ∨ 2 ^ 16 ≤ asid then ({ l with reason := 1 }, s3)
    else
      let l : Launch := { l with ptroot := BitVec.ofNat 64 root, asid := BitVec.ofNat 16 asid }
      match (readRecord (l.ctx die) (BitVec.ofNat 64 rec)).on s3 with
      | (.error _, s4) => ({ l with reason := 3 }, s4)
      | (.ok r, s4) =>
        let l : Launch := { l with record := r }
        if r.malformed ql.linked ql.first then ({ l with reason := 1 }, s4)
        else if !s4.couldHold l then ({ l with reason := 2 }, s4)
        else (l, s4)
  | _, _ => ({ l with reason := 3 }, s3)

/-! ### The heads of the queues -/

/-- A journal number marked as cancelled while it waits in its ring. -/
def cancelledMark : Nat := 2 ^ 63

/-- Checks the record that has come to a queue's head; a failing one ends and leaves the queue (R257). -/
def State.loadHead (s : State) (die q : Nat) (ql : QLine) : State :=
  match (s.die die).waiting q, ((s.die die).headLaunch[q]?).getD none with
  | seq :: _, none =>
    if cancelledMark ≤ seq then s.advanceHead die q
    else if ql.tail ≤ ql.head then s
    else
      let (l, s1) := s.readLaunch die q seq ql ql.head
      let s2 : State := { s1 with launches := s1.launches ++ [l] }
      if l.reason ≠ 0 then s2.advanceHead die q
      else s2.setDie die fun d => { d with headLaunch := d.headLaunch.setIfInBounds q (some l.id) }
  | _, _ => s

/-- The next gang of a launch to place: those that have left unplaced are skipped. -/
def Launch.nextGang (l : Launch) : Option Nat :=
  (upFrom l.next (l.record.ngang - l.next)).find? fun g => !l.left.any fun p => p.1 == g

/-- The launch at a queue's head. -/
def State.headOf (s : State) (die q : Nat) : Option Launch := ((s.die die).headLaunch[q]?).getD none |>.bind s.launchOf

/-- A launch with nothing left to place leaves its queue's head (R262). -/
def State.retireHead (s : State) (die q : Nat) : State :=
  match s.headOf die q with
  | some l => if l.nextGang.isNone then s.advanceHead die q else s
  | none => s

/-- An event counter. -/
def Die.eventCount (d : Die) (e : Nat) : Nat := ((d.events[e]?).getD 0).toNat

/-- Whether a launch forms a grove at this package's ballot unit. -/
def Launch.formsGrove (l : Launch) : Bool := l.record.groveN != 0 && (natBits l.glink 63 1 == 0 || natBits l.glink 62 1 == 1)

/-- Whether a queue takes part: its die has a journal, its line is enabled, and `HEAD` is below `TAIL` (R262, R331). -/
def State.queueOn (s : State) (die q : Nat) : Bool :=
  (s.die die).journal.isSome && (match (s.qline die q).1 with
    | some l => l.en && !s.badQueue die q l && decide (l.head < l.tail)
    | none => false)

/-- Whether the head of a queue is eligible (R262, R313). -/
def State.eligible (s : State) (l : Launch) : Bool :=
  l.nextGang.isSome && s.queueOn l.die l.queue &&
  (l.placedAny ||
    ((l.record.waits.all fun e => decide (l.record.waits.count e ≤ (s.die l.die).eventCount e)) &&
     (!l.formsGrove || decide (s.groves.length < 256))))

/-! ### Groves at a launch's first placement (R313, R354) -/

/-- The lowest free grove slot. -/
def State.freeSlot (s : State) : Nat := ((upFrom 0 256).find? fun i => (s.groveAt i).isNone).getD 0

/-- Forms a launch's grove. -/
def State.formGrove (s : State) (l : Launch) : State :=
  let slot := s.freeSlot
  let first := if natBits l.glink 63 1 = 1 then natBits l.glink 16 6 else 0
  let g : Grove := ⟨slot, l.id, l.record.groveN, l.record.quorum, List.replicate l.record.groveN ⟨none, false, false, none, false, none, false, false⟩,
    [], 0, none, false, [], none, 0, 0, 0, 0, 0, 0⟩
  let s1 : State := { s with groves := s.groves ++ [g] }
  let s2 := s1.setLaunch l.id fun l => { l with grove := some (s.pkg, slot, first) }
  if natBits l.glink 63 1 = 1 then
    s2.devPut l.die ((s2.die l.die).lineAddr l.queue + 48) (setField (BitVec.ofNat 64 l.glink) 32 8 slot).toNat
  else s2

/-- Joins a linked grove: false where its home says that it is not open (log 18 for another package). -/
def State.joinGrove (s : State) (l : Launch) : Bool × State :=
  let hp := natBits l.glink 48 11
  let slot := natBits l.glink 32 8
  let first := natBits l.glink 16 6
  let (isOpen, s1) : Bool × State :=
    if hp = s.pkg then ((s.groveAt slot).isSome, s)
    else if s.unreachable.contains hp then (false, s)
    else ((Config.remoteReply s.freeCount).getLsbD 0, { s with freeCount := s.freeCount + 1 })
  (isOpen, if isOpen then s1.setLaunch l.id fun l => { l with grove := some (hp, slot, first) } else s1)

/-- What a launch's first placement does: waits consumed, grove formed or joined, journal at RUNNING (R262, R313, R332).
False where the launch ends instead. -/
def State.beginLaunch (s : State) (l : Launch) : Bool × State :=
  let (ok, s1) : Bool × State := if l.record.groveN = 0 then (true, s) else if l.formsGrove then (true, s.formGrove l) else s.joinGrove l
  if !ok then (false, (s1.setLaunch l.id fun l => { l with reason := 1 }).advanceHead l.die l.queue)
  else
    let s2 : State := l.record.waits.foldl (fun s e =>
      s.setDie l.die fun d => { d with events := d.events.setIfInBounds e (((d.events[e]?).getD 0) - 1) }) s1
    (true, (s2.setLaunch l.id fun l => { l with placedAny := true }).journalSet l.die l.queue l.seq.toNat 6 0 0)

/-- Whether a member is in its grove's felled set: as the ballot unit here holds it, or as the home elsewhere has sent it (R354). -/
def State.memberFelled (s : State) : Option (Nat × Nat × Nat) → Bool
  | some (hp, slot, i) =>
    if hp = s.pkg then (match s.groveAt slot with
      | some g => g.felled.contains i
      | none => false)
    else s.felledAway.any fun f => f.1 == hp && f.2.1 == slot && f.2.2.contains i
  | none => false

/-- The grove place of gang `idx` of a launch. -/
def Launch.memberOf (l : Launch) (idx : Nat) : Option (Nat × Nat × Nat) := l.grove.map fun (hp, slot, first) => (hp, slot, first + idx)

/-- Takes the next gang of the head of a queue to a place; a member already felled is never placed (R320, R321). -/
def State.placeNext (s : State) (l : Launch) (f : Fit) : State :=
  let (ok, s1) := if l.placedAny then (true, s) else s.beginLaunch l
  if !ok then s1
  else match s1.launchOf l.id, l.nextGang with
    | some l1, some idx =>
      let who := l1.memberOf idx
      let s2 : State :=
        if s1.memberFelled who then
          let s2 := s1.setLaunch l.id fun l => { l with left := l.left ++ [(idx, Leave.felled)] }
          match who with
          | some (hp, slot, i) => if hp = s2.pkg then s2.setGrove slot (·.markGone i .felled) else s2
          | none => s2
        else s1.startGang l1 idx who f
      (s2.setLaunch l.id fun l => { l with next := idx + 1 }).retireHead l.die l.queue
    | _, _ => s1

/-! ### One step (R263 to R265) -/

/-- A candidate: a stopped gang, or the head of a queue. -/
inductive Cand where
  | gang (id : Nat)
  | head (q launch : Nat)
deriving DecidableEq, Repr

/-- A candidate's key among those passed over: gangs and launches take their numbers from one count. -/
def Cand.key : Cand → Nat
  | .gang id => id
  | .head _ l => l

/-- Queues after a pointer, in turn. -/
def turnOrder (p : Nat) : List Nat := (upFrom 1 64).map fun i => (p + i) % 64

/-- Candidates of one priority: stopped gangs, then heads from the pointer on. -/
def State.candidatesAt (s : State) (die p : Nat) : List Cand :=
  ((s.gangs.filter fun g => !g.resident && (match s.launchOf g.launch with
    | some l => l.die == die && l.prio == p && !l.cancelled
    | none => false)).map fun g => Cand.gang g.id) ++
  ((turnOrder (((s.die die).pointers[p]?).getD 63)).filterMap fun q => match s.headOf die q with
    | some l => if l.prio = p ∧ s.eligible l then some (Cand.head q l.id) else none
    | none => none)

/-- All candidates in the order they are tried. -/
def State.candidates (s : State) (die : Nat) : List Cand := [7, 6, 5, 4, 3, 2, 1, 0].flatMap (s.candidatesAt die)

/-- The launch of a candidate. -/
def State.candLaunch (s : State) : Cand → Option Launch
  | .gang id => (s.gangOf id).bind fun g => s.launchOf g.launch
  | .head _ l => s.launchOf l

/-- Priority of a candidate. -/
def State.candPrio (s : State) (c : Cand) : Nat := match s.candLaunch c with
  | some l => l.prio
  | none => 0

/-- Places a candidate where it fits; copying partitions out only where nothing else fits (R269). -/
def State.tryCand (s : State) (c : Cand) : Option State :=
  match c with
  | .gang id =>
    match s.gangOf id, s.candLaunch c with
    | some g, some l => (((s.resumeFit l g false).orElse fun _ => s.resumeFit l g true)).map (s.resumeGang l g)
    | _, _ => none
  | .head _ lid =>
    match s.launchOf lid with
    | some l =>
      let ms := upFrom 0 l.record.nhart
      (((s.findFit l l.record.cls ms false).orElse fun _ => s.findFit l l.record.cls ms true)).map (s.placeNext l)
    | none => none

/-- Sets wake requests (R255). -/
def State.wakeCluster (s : State) (die clu : Nat) : State := s.setCwake die ((s.die die).cwake ||| BitVec.ofNat 16 (2 ^ clu))

/-- Wake requests for the clusters of gangs that have become eligible to resume with their partition live, once for each stop (R255). -/
def State.wakeStopped (s : State) (die : Nat) : State :=
  (s.gangs.filter fun g => !g.resident && !g.deadSpad && !g.woken && (match s.launchOf g.launch with
    | some l => l.die == die && !l.cancelled
    | none => false)).foldl (fun s g => (s.wakeCluster g.die g.clu).setGang g.id ({ · with woken := true })) s

/-- Wake requests of a launch that found no room: the closed clusters of its dies (R255). -/
def State.wakeFor (s : State) (c : Cand) : State :=
  match c, s.candLaunch c with
  | .head _ _, some l =>
    ((s.launchDies l).flatMap fun d => ((upFrom 0 16).filter fun c => (s.cluster d c).close).map fun c => (d, c)).foldl
      (fun s p => s.wakeCluster p.1 p.2) s
  | _, _ => s

/-- Tries candidates in order: the one placed, those passed over, and the state. -/
def State.tryAll (s : State) : List Cand → Option Cand × List Cand × State
  | [] => (none, [], s)
  | c :: t =>
    match s.tryCand c with
    | some u => (some c, [], u)
    | none =>
      let (p, tried, u) := State.tryAll (s.wakeFor c) t
      (p, c :: tried, u)

/-- Gangs resident on a flue. -/
def State.gangsOnFlue (s : State) (die clu f : Nat) : List Nat :=
  dedup ((upFrom (4 * f) 4).flatMap fun c => (s.busyOn (coreKey die clu c) []).filterMap (·.gang))

/-- Whether a candidate would fit on a cluster once some gangs had stopped. -/
def State.wouldFit (s : State) (c : Cand) (l : Launch) (gone : List Nat) (die clu : Nat) : Bool :=
  match c with
  | .gang id =>
    match s.gangOf id with
    | some g =>
      if g.deadSpad then (s.fitOn l g.cls (((s.members id).filter (·.run == .stopped)).map (·.member)) gone true die clu).isSome
      else g.die == die && g.clu == clu && (s.homeFit l g gone true).isSome
    | none => false
  | .head _ _ => (s.fitOn l l.record.cls (upFrom 0 l.record.nhart) gone true die clu).isSome

/-- The choices of `n` elements of a list, earlier elements first. -/
def chosen : Nat → List Nat → List (List Nat)
  | 0, _ => [[]]
  | _ + 1, [] => []
  | n + 1, x :: t => (chosen n t).map (x :: ·) ++ chosen (n + 1) t

/-- The gangs to stop on a cluster for a candidate (R265): those of as few flues as free room, in ascending order, out of the flues
that hold only gangs of priority `low`. -/
def State.clearFlues (s : State) (c : Cand) (l : Launch) (low die clu : Nat) : Option (List Nat) :=
  let mine := (upFrom 0 12).filter fun f =>
    let gs := s.gangsOnFlue die clu f
    !gs.isEmpty && gs.all fun id => match s.gangOf id with
      | some g => s.prioOf g == low
      | none => false
  ((upFrom 1 mine.length).flatMap fun n => chosen n mine).findSome? fun fs =>
    let gone := dedup (fs.flatMap (s.gangsOnFlue die clu))
    if s.wouldFit c l gone die clu then some gone else none

/-- The gangs to stop so that a candidate fits: of the lowest priority resident, below the candidate's (R265). -/
def State.roomFor (s : State) (c : Cand) : List Nat :=
  match s.candLaunch c with
  | none => []
  | some l =>
    let dies := s.launchDies l
    let below := (s.gangs.filter fun g => g.resident && dies.contains g.die).map s.prioOf |>.filter (· < l.prio)
    match below with
    | [] => []
    | p :: ps =>
      let low := ps.foldl min p
      ((dies.flatMap fun d => (upFrom 0 16).map fun c => (d, c)).findSome? fun p => s.clearFlues c l low p.1 p.2).getD []

/-- Withdraws this die's requests to YIELD-mode gangs that are no longer needed (R267). -/
def State.withdrawUnneeded (s : State) (die : Nat) (needed : List Nat) : State :=
  s.withdrawStop fun g => g.resident && g.askedBy == some die && !needed.contains g.id && (s.members g.id).any (·.yld)

/-- Times a candidate was passed over. -/
def Die.passedOver (d : Die) (c : Cand) : Nat := assoc d.passed c.key 0

/-- Orders candidates under a reservation: the reserved one first among its own priority and below (R264). -/
def State.ordered (s : State) (die : Nat) (cs : List Cand) : List Cand :=
  match cs.find? (fun c => decide (1024 ≤ (s.die die).passedOver c)) with
  | some r => cs.filter fun c => c == r || decide (s.candPrio r < s.candPrio c)
  | none => cs

/-! ### Completion (R271 to R273) -/

/-- Whether a launch's last gang has left. -/
def State.allLeft (s : State) (l : Launch) : Bool :=
  if l.reason ≠ 0 then true
  else if l.cancelled then !s.gangs.any (·.launch == l.id)
  else l.left.length == l.record.ngang

/-- Whether a launch's grove is still open: at its home, which may be another package (R324, R354); one that no longer answers closes
nothing. -/
def State.groveOpen (s : State) (l : Launch) : Bool :=
  !l.closed && (match l.grove with
    | some (hp, _, _) => !s.unreachable.contains hp
    | none => false)

/-- Whether engines still work for a launch: the completion word follows their stores (R272). -/
def State.enginesBusy (s : State) (l : Launch) : Bool := s.cmds.any fun c => c.launch == some l.id && c.eng != 5 && c.record.isNone

/-- Whether a launch may complete: its last gang has left, its engines are done, and its grove has closed (R272, R324, R354). -/
def State.finished (s : State) (l : Launch) : Bool :=
  s.allLeft l && !s.enginesBusy l && !s.groveOpen l

/-- Counts gangs by how they left. -/
def Launch.count (l : Launch) (p : Leave → Bool) : Nat := (l.left.filter fun x => p x.2).length

/-- How a launch ended: `STATE` and `REASON` (R273). -/
def Launch.result (l : Launch) : Nat × Nat :=
  let fails := l.left.filterMap fun x => match x.2 with
    | .failed r => some (x.1, r)
    | _ => none
  if l.reason ≠ 0 then (3, l.reason)
  else match fails with
    | p :: ps => (3, (ps.foldl (fun a b => if b.1 < a.1 then b else a) p).2)
    | [] => if l.left.any (·.2 == .killed) then (2, 5) else if l.cancelled then (4, 0) else (1, 0)

/-- The completion word (R273). -/
def Launch.word (l : Launch) : Word :=
  let (st, r) := l.result
  let nfail := l.count fun x => match x with
    | .failed _ => true
    | .killed => true
    | _ => false
  BitVec.ofNat 64 (nfail * 2 ^ 48 + l.count (· == .felled) * 2 ^ 32 + l.count (· == .ended) * 2 ^ 16 + r * 2 ^ 11 + st * 2 ^ 8 + l.flags.toNat)

/-- The retired bitmap (R272). -/
def Launch.bitmap (l : Launch) : List Byte :=
  toBytes (8 * ceilDiv l.record.ngang 64)
    ((l.left.filter fun x => x.2 == .ended || x.2 == .felled).foldl (fun a x => a + 2 ^ x.1) 0)

/-- The steps of R272; nothing before the last gang has left. -/
def State.complete (s : State) (lid : Nat) : State :=
  match s.launchOf lid with
  | none => s
  | some l =>
    if !s.finished l then s
    else
      let c := l.ctx l.die
      let (st, r) := l.result
      let writable := l.ptroot != 0
      let (ok1, s1) : Bool × State :=
        if l.reason = 3 ∨ st = 1 ∨ l.bitmap.isEmpty then (true, s)
        else if writable ∧ l.record.save.toNat % 64 = 0 then s.tries (agentStore c l.record.save l.bitmap) else (false, s)
      let (ok2, s2) : Bool × State :=
        if l.reason = 3 then (true, s1)
        else if writable ∧ l.record.done.toNat % 8 = 0 then s1.tries (agentStore c l.record.done (toBytes 8 l.word.toNat)) else (false, s1)
      let s3 : State := if st = 1 then l.record.signals.foldl (fun s e =>
          s.setDie l.die fun d => { d with events := d.events.setIfInBounds e (BitVec.ofNat 32 (min (d.eventCount e + 1) (2 ^ 32 - 1))) }) s2
        else s2
      let s4 := s3.journalSet l.die l.queue l.seq.toNat st r (b2n (!ok1 || !ok2))
      { s4 with
        launches := s4.launches.filter (·.id != lid)
        clusters := s4.clusters.map fun p =>
          (p.1, { p.2 with counters := p.2.counters.map fun x => if x.owner == some lid then ⟨0, 0, 0, none⟩ else x }) }

/-! ### Cancelling (R330) -/

/-- Ends a launch's gangs: stopped ones are dropped, resident harts end at their next boundary, the others are never placed. -/
def State.cancelGangs (s : State) (l : Launch) : State :=
  let s1 : State := s.setLaunch l.id fun l => { l with cancelled := true }
  let s2 : State := match l.grove with
    | some (hp, slot, first) =>
      if hp = s.pkg then
        ((upFrom l.next (l.record.ngang - l.next)).filter fun g => !l.left.any fun p => p.1 == g).foldl
          (fun s g => s.ballot slot (·.markGone (first + g) .cancelled)) s1
      else s1
    | none => s1
  let s3 : State := (s2.gangs.filter fun g => g.launch == l.id && !g.resident).foldl (fun s g => s.leaveGang g.id .cancelled) s2
  { s3 with gangs := s3.gangs.map fun g => if g.launch == l.id then { g with leave := some (g.leave.getD .cancelled) } else g }

/-- Cancelled entries that have come to a queue's head leave it. -/
def State.dropCancelled (s : State) (die q : Nat) : State :=
  (((s.die die).waiting q).takeWhile (cancelledMark ≤ ·)).foldl (fun s _ => s.advanceHead die q) s

/-- Serves a cancel request (R330). One whose journal entry has no room yet waits, with `REQ` set (R332). -/
def State.serveCancel (s : State) (die q seq : Nat) : State :=
  if (s.die die).journal.isNone then s
  else
    let a := (s.die die).lineAddr q
    let s0 := s.devPut die (a + 40) (seq % 2 ^ 63)
    let live := s0.launches.find? fun l => l.die == die && l.queue == q && l.seq.toNat == seq && !s0.allLeft l
    let (found, s1) : Bool × State := match live with
      | some l =>
        let s1 := s0.cancelGangs l
        (true, if (s1.headOf die q).map (·.id) = some l.id then s1.advanceHead die q else s1)
      | none =>
        match ((s0.die die).waiting q).findIdx? (· == seq), s0.qline die q with
        | some i, (some ql, s1) =>
          let (l, s2) := s1.readLaunch die q seq ql (ql.head + i)
          let s3 := s2.setWaiting die q (((s2.die die).waiting q).map fun x => if x = seq then cancelledMark + seq else x)
          (true, ({ s3 with launches := s3.launches ++ [{ l with cancelled := true }] } : State).dropCancelled die q)
        | _, _ => (false, s0)
    match s1.journalAdd die a (entryWord q die 1 0 2 (b2n (!found)) 0) with
    | some (_, t) => t
    | none => s

/-- Serves the cancel request of a queue's line, enabled or not (R330); nothing while the die has no journal (R331). -/
def State.lookCancel (s : State) (die q : Nat) : State :=
  if (s.die die).journal.isNone then s
  else match s.qline die q with
  | (some l, t) => if natBits l.cancel 63 1 = 1 then t.serveCancel die q (l.cancel % 2 ^ 63) else s
  | (none, _) => s

/-- The scheduler looks at a queue: acceptance, bad lines, cancel requests, the record at its head (R257, R260, R262, R330,
R332). -/
def State.lookAt (s : State) (die q : Nat) : State :=
  match s.scan die q with
  | (some _, t) =>
    let t1 := t.lookCancel die q
    match t1.qline die q with
    | (some l1, t2) => (t2.loadHead die q l1).retireHead die q
    | (none, t2) => t2
  | (none, t) => t.lookCancel die q

/-- The scheduler's step (R263): at most one gang is placed. -/
def State.schedulerStep (s : State) (die : Nat) : State :=
  let s0 := ((upFrom 0 64).foldl (fun s q => s.lookAt die q) s).wakeStopped die
  let cs := s0.ordered die (s0.candidates die)
  let (placed, tried, s1) := s0.tryAll cs
  let needed := match tried with
    | c :: _ => s0.roomFor c
    | [] => []
  let s2 : State := (needed.filter fun id => match s1.gangOf id with
    | some g => g.resident && !g.preempt && !g.felled
    | none => false).foldl (fun s id => s.requestStop id (some die)) s1
  let s3 := s2.withdrawUnneeded die needed
  match placed with
  | none => s3
  | some c =>
    let kept := (s3.die die).passed.filter fun p =>
      decide (1024 ≤ p.2) && p.1 != c.key && !tried.any (·.key == p.1) &&
        (s3.gangs.any (·.id == p.1) || s3.launches.any (·.id == p.1))
    let s4 : State := s3.setDie die fun d =>
      { d with passed := tried.map (fun x => (x.key, d.passedOver x + 1)) ++ kept }
    match c with
    | .head q _ => s4.setDie die fun d => { d with pointers := d.pointers.setIfInBounds (s0.candPrio c) q }
    | .gang _ => s4

end Sys2Proof.Machine
end

