-- ==== Sys2Proof/Machine/Boundary.lean ====
section
/-! DEFINITION. What comes before an instruction: felling, cancellation, a stop, an event trap, or the queue's entry (R34,
R100, R103, R169, R177, R267, R321, R322, R330). -/

namespace Sys2Proof.Machine

/-- A dispatched entry of a hart that ends completes; a trap it would raise is discarded (R322). Poison that it meets is read once
more (R186). -/
def State.complete1 (s : State) (e : VEntry) : State :=
  let s : State := s.account e.tally
  let u : State := { s with h := s.h.seenBy e.st }
  let (r, t) := match u.runVector e.op e.look with
    | (.again _ ps, _) => ((replaySources ps).on (u.setCore (coreOf s.h.key) fun c => { c with pois := c.pois + 1 })).2.runVector e.op .again
    | x => x
  match r with
  | .done c =>
    let t : State := { t with h := { t.h with vsi := 0, vsr := 0, vsp := 0 } }
    if c.units.isEmpty then t else t.seedStep
  | .exact _ _ => t
  | _ => s

/-- The current hart ends without `END` (R322, R330): what has committed is performed, undispatched work is discarded, dispatched
work completes. -/
def State.fellHere (s : State) (felled : Bool) : State :=
  let s : State := s.settled
  let sent := s.h.viq.takeWhile (·.dispatched)
  let s1 : State := sent.foldl State.complete1 s
  let s2 : State := if felled then s1.countDiscards (s.h.viq.length - sent.length) else s1
  s2.endHart s2.h.key felled

/-- Whether a cancelled launch ends the current hart at any boundary (R330). -/
def State.amCancelled (s : State) : Bool := match s.myGang with
  | some g => g.leave == some .cancelled
  | none => false

/-- Whether the current hart's gang has been asked to stop (R267). -/
def State.amAsked (s : State) : Bool := match s.myGang with
  | some g => g.preempt
  | none => false

/-- Whether the current hart stops at this boundary: ANY mode, asked to stop, in no trap handler (R267). -/
def State.stopsNow (s : State) : Bool := s.amAsked && !s.h.yld && !s.h.inHandler

/-- Whether an event trap is due (R34). -/
def Hart.eventDue (h : Hart) : Bool := !h.priv && h.event &&& h.evmask != 0

/-- An ANY-mode stop: committed accesses are performed, and every row is saved (R169, R268). -/
def State.stopAny (s : State) : State :=
  let s : State := s.settled
  ({ s with h := { s.h with viq := [], front := none } } : State).stopHere (BitVec.allOnes 32)

/-- Whether the hart stands at the boundary P of R169: nothing dispatched is left, and no scalar instruction before the oldest
undispatched entry. -/
def Hart.atBoundary (h : Hart) : Bool := h.viq.isEmpty || (match h.head with
  | some e => !e.dispatched
  | none => false)

/-- A stop inside a dispatched instruction, after its first `n` elements (R157, R169): it is the only one dispatched, and every
older one has completed. -/
def State.stopInside (s : State) (n : Nat) : State :=
  match s.h.viq with
  | [] => s
  | e :: rest =>
    if s.h.head.isSome && e.dispatched && !rest.any (·.dispatched) && decide (0 < n) then
      let u : State := s.settled
      match (cutEffect u.vctx e.op n).on u with
      | (.ok true, t) => t.stopAny
      | _ => s
    else s

/-- The hart stops at its `HALT` (R103); its gang ends as failed. -/
def State.haltHere (s : State) : State := s.stopGang s.h (.failed 4)

/-- Whether the front end has met a `HALT` and everything before it has completed. -/
def Hart.haltDue (h : Hart) : Bool := match h.front with
  | some f => f.halted && f.window.isEmpty && h.viq.isEmpty
  | none => false

/-- Whether a word is a `BCHK` or a `YIELDPT` (R63, R315). -/
def fellingWord (w : BitVec 32) : Bool :=
  w == encSR 49 3 (w.extractLsb' 8 5) 0 0 0 || w == encSYS 9 0 (w.extractLsb' 13 5) (0#8 ++ w.extractLsb' 23 1)

/-- Whether a felled hart of a YIELD-mode gang stands at a `YIELDPT` or `BCHK`, where felling comes before a due event trap (R321). -/
def State.atFellingPoint (s : State) : Bool :=
  s.h.run == .running && s.amFelled && s.h.yld && s.h.eventDue && s.h.viq.isEmpty && (match fetchBytes.on s with
    | (.ok bytes, _) => bytes.length == 4 && fellingWord (BitVec.ofNat 32 (ofBytes bytes))
    | (.error _, _) => false)

/-- A waiting `WFE` completes (R100). -/
def State.wakeWfe (s : State) (d : Reg) : State := (s.wr d (s.h.event.setWidth 64)).passWait

/-- What happens at the boundary instead of the instruction at the program counter, if anything. While an older instruction is
dispatched, or scalar ones stand before the queue's head, the hart goes on towards the boundary P of R169. -/
def State.boundary (s : State) : Option State :=
  if s.h.run ≠ .running then some s
  else if s.amCancelled then some (s.fellHere false)
  else if s.amFelled && !s.h.yld then some (s.fellHere true)
  else match s.h.head with
    | some e =>
      if e.dispatched then some (s.resumeEntry e)
      else if s.stopsNow then some s.stopAny
      else if s.h.eventDue then some s.eventTrap
      else some (s.resumeEntry e)
    | none =>
      if !s.h.viq.isEmpty then none
      else if s.stopsNow then some s.stopAny
      else if s.h.haltDue then some s.settled.haltHere
      else match s.h.wait with
        | .wfe d => some (if s.h.event = 0 then s else s.wakeWfe d)
        | .write n v => some (s.writeNow n v)
        | _ => if s.h.eventDue then some s.eventTrap else none

end Sys2Proof.Machine
end

