-- ==== Sys2Proof/Machine/Alu.lean ====
section
/-! DEFINITION. Integer register and immediate operations (R80 to R84). -/

namespace Sys2Proof.Machine

/-- Writes a result to a scalar register and goes on after the 32-bit form (R80). -/
def State.result (s : State) (d : Reg) (v : Word) : Out := .next ((s.wr d v).adv 4)

/-- 1 or 0. -/
def truth (c : Bool) : Word := if c then 1 else 0

/-- A shift amount in a register: bits 5:0 (R82). -/
def shamt (b : Word) : Nat := b.toNat % 64

/-- The high doubleword of a signed product. -/
def mulHigh (a b : Word) : Word := (a.signExtend 128 * b.signExtend 128).extractLsb' 64 64

/-- The high doubleword of an unsigned product. -/
def mulHighU (a b : Word) : Word := (a.setWidth 128 * b.setWidth 128).extractLsb' 64 64

/-- The low 32 bits of a word, sign-extended. -/
def sextW (x : Word) : Word := (x.setWidth 32).signExtend 64

/-- Division and remainder (R83): `zero` is the result for a divisor of 0, which sets `DZ` or raises DIVZ under `DZT`. -/
def State.divide (s : State) (d : Reg) (zero quo : Word) (b : Word) : Out :=
  if b = 0 then
    if s.h.dzt then .next (s.trapHere Cause.divz 0 1) else (s.flag Fl.dz).result d zero
  else s.result d quo

/-- R82. -/
def execAdd (d a b : Reg) (s : State) : Out := s.result d (s.rd a + s.rd b)
/-- R82. -/
def execSub (d a b : Reg) (s : State) : Out := s.result d (s.rd a - s.rd b)
/-- R82. -/
def execAnd (d a b : Reg) (s : State) : Out := s.result d (s.rd a &&& s.rd b)
/-- R82. -/
def execOr (d a b : Reg) (s : State) : Out := s.result d (s.rd a ||| s.rd b)
/-- R82. -/
def execXor (d a b : Reg) (s : State) : Out := s.result d (s.rd a ^^^ s.rd b)
/-- R82. -/
def execAndn (d a b : Reg) (s : State) : Out := s.result d (s.rd a &&& ~~~s.rd b)
/-- R82. -/
def execSll (d a b : Reg) (s : State) : Out := s.result d (s.rd a <<< shamt (s.rd b))
/-- R82. -/
def execSrl (d a b : Reg) (s : State) : Out := s.result d (s.rd a >>> shamt (s.rd b))
/-- R82. -/
def execSra (d a b : Reg) (s : State) : Out := s.result d ((s.rd a).sshiftRight (shamt (s.rd b)))
/-- R82. -/
def execSlt (d a b : Reg) (s : State) : Out := s.result d (truth ((s.rd a).slt (s.rd b)))
/-- R82. -/
def execSltu (d a b : Reg) (s : State) : Out := s.result d (truth ((s.rd a).ult (s.rd b)))
/-- R82. -/
def execMin (d a b : Reg) (s : State) : Out := s.result d (if (s.rd a).slt (s.rd b) then s.rd a else s.rd b)
/-- R82. -/
def execMax (d a b : Reg) (s : State) : Out := s.result d (if (s.rd a).slt (s.rd b) then s.rd b else s.rd a)
/-- R82. -/
def execMinu (d a b : Reg) (s : State) : Out := s.result d (if (s.rd a).ult (s.rd b) then s.rd a else s.rd b)
/-- R82. -/
def execMaxu (d a b : Reg) (s : State) : Out := s.result d (if (s.rd a).ult (s.rd b) then s.rd b else s.rd a)
/-- R82. -/
def execMul (d a b : Reg) (s : State) : Out := s.result d (s.rd a * s.rd b)
/-- R82. -/
def execMulh (d a b : Reg) (s : State) : Out := s.result d (mulHigh (s.rd a) (s.rd b))
/-- R82. -/
def execMulhu (d a b : Reg) (s : State) : Out := s.result d (mulHighU (s.rd a) (s.rd b))
/-- R82, R83. -/
def execDiv (d a b : Reg) (s : State) : Out := s.divide d (BitVec.allOnes 64) ((s.rd a).sdiv (s.rd b)) (s.rd b)
/-- R82, R83. -/
def execDivu (d a b : Reg) (s : State) : Out := s.divide d (BitVec.allOnes 64) (s.rd a / s.rd b) (s.rd b)
/-- R82, R83. -/
def execRem (d a b : Reg) (s : State) : Out := s.divide d (s.rd a) ((s.rd a).srem (s.rd b)) (s.rd b)
/-- R82, R83. -/
def execRemu (d a b : Reg) (s : State) : Out := s.divide d (s.rd a) (s.rd a % s.rd b) (s.rd b)
/-- R82. -/
def execClz (d a : Reg) (s : State) : Out := s.result d (BitVec.ofNat 64 (clzNat 64 (s.rd a).toNat))
/-- R82. -/
def execCtz (d a : Reg) (s : State) : Out := s.result d (BitVec.ofNat 64 (ctzNat 64 (s.rd a).toNat))
/-- R82. -/
def execPopc (d a : Reg) (s : State) : Out := s.result d (BitVec.ofNat 64 (popNat 64 (s.rd a).toNat))
/-- R82. -/
def execAddw (d a b : Reg) (s : State) : Out := s.result d (sextW (s.rd a + s.rd b))
/-- R82. -/
def execSubw (d a b : Reg) (s : State) : Out := s.result d (sextW (s.rd a - s.rd b))

/-! ### Immediates (R84) -/

/-- R84. -/
def execAddi (d a : Reg) (i : BitVec 14) (s : State) : Out := s.result d (s.rd a + i.signExtend 64)
/-- R84. -/
def execAndi (d a : Reg) (i : BitVec 14) (s : State) : Out := s.result d (s.rd a &&& i.signExtend 64)
/-- R84. -/
def execOri (d a : Reg) (i : BitVec 14) (s : State) : Out := s.result d (s.rd a ||| i.signExtend 64)
/-- R84. -/
def execXori (d a : Reg) (i : BitVec 14) (s : State) : Out := s.result d (s.rd a ^^^ i.signExtend 64)
/-- R84. -/
def execSlli (d a : Reg) (sh : BitVec 6) (s : State) : Out := s.result d (s.rd a <<< sh.toNat)
/-- R84. -/
def execSrli (d a : Reg) (sh : BitVec 6) (s : State) : Out := s.result d (s.rd a >>> sh.toNat)
/-- R84. -/
def execSrai (d a : Reg) (sh : BitVec 6) (s : State) : Out := s.result d ((s.rd a).sshiftRight sh.toNat)
/-- R84. -/
def execSlti (d a : Reg) (i : BitVec 14) (s : State) : Out := s.result d (truth ((s.rd a).slt (i.signExtend 64)))
/-- R84. -/
def execLui (d : Reg) (i : BitVec 19) (s : State) : Out := s.result d (i.signExtend 64 <<< 13)
/-- R84. -/
def execAddpc (d : Reg) (i : BitVec 19) (s : State) : Out := s.result d (s.h.pc + (i.signExtend 64 <<< 13))

end Sys2Proof.Machine
end

