-- ==== Sys2Proof/Machine/Ballot.lean ====
section
/-! DEFINITION. The BALLOT major (R315 to R318) at this package's ballot unit. -/

namespace Sys2Proof.Machine

/-- The ballot word of R318 for a member. -/
def Grove.word (g : Grove) (i : Nat) : Word :=
  let out := match g.members[i]? with
    | some m => m.left
    | none => false
  let (dec, widx, cnt) := match g.winner with
    | some (_, c, first, _) => (1, first, c)
    | none => match leading g.posts with
      | some (_, c, _) => (0, 0, c)
      | none => (0, 0, 0)
  BitVec.ofNat 64 (dec * 2 ^ 63 + b2n (g.felled.contains i) * 2 ^ 62 + b2n out * 2 ^ 61 + widx * 2 ^ 32 + g.doneCount * 2 ^ 16 +
    g.tot * 2 ^ 8 + cnt)

/-- Posts of a hash. -/
def Grove.count (g : Grove) (hash : Word) : Nat := match g.posts.find? (·.1 == hash) with
  | some p => p.2.1
  | none => 0

/-- Whether a member has posted. -/
def Grove.hasPosted (g : Grove) (i : Nat) : Bool := match g.members[i]? with
  | some m => m.posted.isSome
  | none => false

/-- Whether a member has left (R318). -/
def Grove.hasLeft (g : Grove) (i : Nat) : Bool := match g.members[i]? with
  | some m => m.left
  | none => false

/-- Whether a post of a member would be counted (R317). -/
def Grove.counts (g : Grove) (i : Nat) : Bool := g.winner.isNone && !g.hasPosted i && !g.hasLeft i

/-- A post: what `BPOST` writes, and the grove after it (R317, R319). -/
def Grove.bpost (g : Grove) (i : Nat) (hash : Word) : Word × Grove :=
  if g.counts i then
    let g' := g.post i hash
    (BitVec.ofNat 64 (b2n g'.winner.isSome * 2 ^ 63 + g'.count hash), g')
  else
    (BitVec.ofNat 64 (b2n g.winner.isSome * 2 ^ 62 + b2n (g.hasPosted i) * 2 ^ 61 + b2n (g.hasLeft i) * 2 ^ 60), g)

/-- A leave of a member: nothing after the decision (R318). -/
def Grove.bleave (g : Grove) (i : Nat) : Grove :=
  if g.winner.isSome then g else (g.setMember i fun m => { m with left := true }).decide

/-- Registers a page list: what `BJOIN` writes, and the grove after it (R316). -/
def Grove.bjoin (g : Grove) (i : Nat) (shared : Bool) (a : Word) : Word × Grove :=
  if g.hasLeft i then (2, g)
  else if shared then (if g.shared.isSome then 1 else 0, { g with shared := some (i, a) })
  else
    let old := match g.members[i]? with
      | some m => m.priv.isSome
      | none => false
    (if old then 1 else 0, g.setMember i fun m => { m with priv := some a, returned := false })

/-- The home, slot and member index of the current hart's gang. -/
def State.myGrove (s : State) : Option (Nat × Nat × Nat) := s.myGang.bind (·.grove)

/-- LINK where the home ballot unit does not answer (R355): the faulting address is no address of the hart's. -/
def State.ballotLink (s : State) : Out :=
  .next (({ s with freeCount := s.freeCount + 1 } : State).linkKill (Config.remoteReply s.freeCount))

/-- What a ballot unit of another package answers: `reply` shapes what is open of it into the form that the instruction's rule gives
(R316 to R318, R354, log 18). -/
def State.remoteBallot (s : State) (d : Reg) (reply : Word → Word) : Out :=
  if s.unreachable.contains ((s.myGrove.getD (0, 0, 0)).1) then s.ballotLink
  else ({ s with freeCount := s.freeCount + 1 } : State).result d (reply (Config.remoteReply s.freeCount))

/-- A post's answer (R317): counted, with at least this one post of its hash, or one or more of `LATE`, `DUP` and `OUT`. The post of a
felled gang comes after the decision, and the gang had not left. -/
def postReply (felled : Bool) (r : Word) : Word :=
  if felled then BitVec.ofNat 64 (2 ^ 62 + field r 61 1 * 2 ^ 61)
  else if field r 60 3 = 0 then BitVec.ofNat 64 (field r 63 1 * 2 ^ 63 + field r 0 6 + 1)
  else BitVec.ofNat 64 (field r 60 3 * 2 ^ 60)

/-- A ballot word (R318) for a gang that has been felled or not, and for one that takes itself out: felling follows a decision and
keeps the gang in the grove, a leave before a decision is `OUT` and counts in `DONE`, and `WIDX` is 0 before a decision. -/
def pollReply (felled leaves : Bool) (r : Word) : Word :=
  let dec := felled || field r 63 1 == 1
  let out := !felled && ((leaves && !dec) || field r 61 1 == 1)
  BitVec.ofNat 64 (b2n dec * 2 ^ 63 + b2n felled * 2 ^ 62 + b2n out * 2 ^ 61 + (if dec then field r 32 6 * 2 ^ 32 else 0) +
    (if out && field r 16 7 == 0 then 1 else field r 16 7) * 2 ^ 16 + field r 8 7 * 2 ^ 8 + field r 0 7)

/-- Serves a BALLOT instruction: ILLOP on the die manager core, `alone` in no grove, the home's answer otherwise. -/
def State.ballotOp (s : State) (d : Reg) (enc : Word) (alone : Out) (reply : Word → Word) (f : Grove → Nat → Word × Grove) : Out :=
  if s.h.key.dm then s.illop enc
  else match s.myGrove with
    | none => alone
    | some (hp, slot, i) =>
      if hp ≠ s.pkg then s.remoteBallot d reply
      else match s.groveAt slot with
        | none => s.result d 0
        | some g => (s.ballot slot fun _ => (f g i).2).result d (f g i).1

/-- Lists that members standing here have registered with a ballot unit elsewhere: one private list a member, one shared list. -/
def RemoteList.same (r q : RemoteList) : Bool :=
  r.hpkg == q.hpkg && r.slot == q.slot && r.shared == q.shared && (r.shared || r.member == q.member)

/-- A `BJOIN` at a ballot unit elsewhere (R316, R354): the list returns from this package, which keeps it. The answer is 2 where the
home says that the gang has left; else it tells whether an earlier list was replaced, which this package knows of its own ones. -/
def State.remoteJoin (s : State) (d : Reg) (place : Nat × Nat × Nat) (shared : Bool) (a : Word) : Out :=
  let r := Config.remoteReply s.freeCount
  match s.myGang with
  | none => s.remoteBallot d id
  | some g =>
    let x : RemoteList := ⟨place.1, place.2.1, place.2.2, shared, a, g.id, g.launch, false⟩
    let old := s.remoteLists.any (·.same x) || (shared && r.getLsbD 1)
    if s.unreachable.contains place.1 || r.getLsbD 0 then s.remoteBallot d fun _ => 2
    else ({ s with remoteLists := s.remoteLists.filter (!·.same x) ++ [x] } : State).remoteBallot d fun _ => if old then 1 else 0

/-- R316. -/
def execBjoin (d a b : Reg) (s : State) : Out :=
  let enc : Word := (encSR 49#6 0#5 d a b 0#4).setWidth 64
  let shared := field (s.rd b) 0 1 == 1
  match s.myGrove with
  | none => s.illop enc
  | some place =>
    if s.h.key.dm then s.illop enc
    else if !canonical (s.rd a) || (s.rd a).toNat % 64 != 0 then s.opnd (s.rd a) 1
    else if field (s.rd b) 1 63 ≠ 0 then s.opnd (s.rd b) 2
    else if place.1 ≠ s.pkg then s.remoteJoin d place shared (s.rd a)
    else s.ballotOp d enc (s.illop enc) id fun g i => g.bjoin i shared (s.rd a)

/-- R317, R319. -/
def execBpost (d a : Reg) (s : State) : Out :=
  let enc : Word := (encSR 49#6 1#5 d a 0#5 0#4).setWidth 64
  if s.h.key.dm || s.myGrove.isNone then s.illop enc
  else s.acked 10 true true (s.ballotOp d enc (s.illop enc) (postReply s.amFelled) fun g i => g.bpost i (s.rd a))

/-- R318. -/
def execBpoll (d : Reg) (s : State) : Out :=
  s.ballotOp d ((encSR 49#6 2#5 d 0#5 0#5 0#4).setWidth 64) (s.result d 0) (pollReply s.amFelled false) fun g i => (g.word i, g)

/-- R318, R321: a cancellation point. -/
def execBchk (d : Reg) (s : State) : Out :=
  if s.amFelled then .next (s.fellHere true)
  else s.ballotOp d ((encSR 49#6 3#5 d 0#5 0#5 0#4).setWidth 64) (s.result d 0) (pollReply false false) fun g i => (g.word i, g)

/-- R318. -/
def execBleave (d : Reg) (s : State) : Out :=
  let enc : Word := (encSR 49#6 4#5 d 0#5 0#5 0#4).setWidth 64
  s.ballotOp d enc (s.illop enc) (pollReply s.amFelled true) fun g i => ((g.bleave i).word i, g.bleave i)

end Sys2Proof.Machine
end

