-- ==== Sys2Proof/Machine/Barrier.lean ====
section
/-! DEFINITION. The BAR major: the gang barrier and the named counters (R225 to R228). -/

namespace Sys2Proof.Machine

/-- The pending arrival is over: D receives `LAST` (R226). -/
def State.barrierDone (s : State) (g : Gang) (d : Reg) : State :=
  (({ s with h := { s.h with pv := false } } : State).wr d g.last).passWait

/-- `gbarv(D, v)` of R226. -/
def State.barrier (s : State) (d : Reg) (v : Word) : Out :=
  match s.myGang with
  | none => .next s.passWait
  | some g =>
    if s.h.pv && s.h.pg != g.gen then .next (s.barrierDone g d)
    else
      let g1 : Gang := if s.h.pv then g
        else { g with arr := g.arr ||| BitVec.ofNat 16 (2 ^ s.h.member), sum := g.sum + v }
      let g2 := g1.release s.h.gangSize
      let t : State := ({ s with h := { s.h with pv := true, pg := g.gen } } : State).setGang g.id fun _ => g2
      if g2.gen != g.gen then .next (t.barrierDone g2 d) else t.waitAt (.gangBarrier d)

/-- R226. -/
def execGbar (s : State) : Out :=
  if s.h.key.dm || s.h.priv then s.illop ((encSR 47#6 0#5 0#5 0#5 0#5 0#4).setWidth 64) else s.barrier 0 0

/-- R226. -/
def execGbarv (d a : Reg) (s : State) : Out :=
  if s.h.key.dm || s.h.priv then s.illop ((encSR 47#6 1#5 d a 0#5 0#4).setWidth 64) else s.barrier d (s.rd a)

/-- R226. -/
def execGbarw (d : Reg) (s : State) : Out :=
  if s.h.key.dm then s.illop ((encSR 47#6 2#5 d 0#5 0#5 0#4).setWidth 64)
  else
    let w := match s.myGang with
      | some g => g.gen.toNat * 2 ^ 32 + g.arr.toNat * 2 ^ 16 + (s.h.gangSize - 1)
      | none => 0
    s.result d (BitVec.ofNat 64 w)

/-- A named counter of the hart's cluster. -/
def State.counter (s : State) (i : Nat) : Counter := ((s.cluster s.h.key.die s.h.key.clu).counters[i]?).getD ⟨0, 0, 0, none⟩

/-- Changes a named counter of the hart's cluster. -/
def State.setCounter (s : State) (i : Nat) (f : Counter → Counter) : State :=
  s.setCluster s.h.key.die s.h.key.clu fun c => { c with counters := c.counters.setIfInBounds i (f (s.counter i)) }

/-- One arrival of expectation `e` (R228). -/
def Counter.arrive (c : Counter) (e : Nat) : Counter :=
  let tgt := if c.cnt = 0 then e else c.tgt
  if c.cnt + 1 = tgt then ⟨0, tgt, c.gen + 1, c.owner⟩ else ⟨c.cnt + 1, tgt, c.gen, c.owner⟩

/-- R228. -/
def execBarrive (d a : Reg) (s : State) : Out :=
  let v := s.rd a
  let i := field v 0 6
  if s.h.key.dm then s.illop ((encSR 47#6 3#5 d a 0#5 0#4).setWidth 64)
  else if field v 6 2 ≠ 0 ∨ field v 24 40 ≠ 0 ∨ field v 8 16 = 0 ∨ field s.h.nbar i 1 = 0 then s.opnd v 1
  else (s.setCounter i (·.arrive (field v 8 16))).result d ((s.counter i).gen.setWidth 64)

/-- R228. -/
def execBwait (d a b : Reg) (s : State) : Out :=
  let v := s.rd a
  let i := field v 0 6
  if s.h.key.dm then s.illop ((encSR 47#6 4#5 d a b 0#4).setWidth 64)
  else if field v 6 58 ≠ 0 ∨ field s.h.nbar i 1 = 0 then s.opnd v 1
  else if (s.counter i).gen = (s.rd b).setWidth 32 then s.waitAt .counter
  else .next ((s.wr d ((s.counter i).gen.setWidth 64)).passWait)

end Sys2Proof.Machine
end

