-- ==== Sys2Proof/Machine/Engine.lean ====
section
/-! DEFINITION. The ENG major (R191, R192): the engine FIFOs of a hart. -/

namespace Sys2Proof.Machine

/-- A hart's FIFO to an engine. -/
def Hart.fifo (h : Hart) (x : Nat) : EngineFifo := (h.eng[x]?).getD ⟨0, 0, []⟩

/-- Changes a FIFO of the current hart. -/
def State.setFifo (s : State) (x : Nat) (f : EngineFifo → EngineFifo) : State :=
  { s with h := { s.h with eng := s.h.eng.setIfInBounds x (f (s.h.fifo x)) } }

/-- The place a command is sent from; a die manager core's copy engine is that of the cluster `FLSEL` names (log 24). -/
def State.cmdKey (s : State) (x : Nat) : HartKey :=
  if s.h.key.dm && x == 1 then { s.h.key with clu := field (s.die s.h.key.die).flsel 8 4 } else s.h.key

/-- Whether an engine has a command of an opcode (R291, R309, R335, R350); the mailbox answers every message (R338). -/
def knownOpc (eng opc : Nat) : Bool := match eng with
  | 1 => decide (1 ≤ opc) && decide (opc ≤ 7)
  | 3 => decide (1 ≤ opc) && decide (opc ≤ 4)
  | 5 => true
  | _ => opc == 1 || opc == 2

/-- The record of a command whose opcode its engine does not have: BADCMD at once, since the engine makes no access for it; a copy
engine that is stopped gives none (R254). -/
def State.refusal (s : State) (x : Nat) (ticket : BitVec 16) (w0 : Word) : Option Word :=
  let k := s.cmdKey x
  if knownOpc x (field w0 0 8) || (x == 1 && (s.cluster k.die k.clu).clock != .on) then none
  else some (recordWord (Config.openDetail s.freeCount).toNat x 1 ticket)

/-- A copy engine that has its clock again gives the records it owes. -/
def State.refuseOwed (s : State) (c : Cmd) : State :=
  { s with
    freeCount := s.freeCount + 1
    cmds := s.cmds.map fun y =>
      if y == c then { y with record := some (recordWord (Config.openDetail s.freeCount).toNat 1 1 y.ticket) } else y }

/-- The command a push sends, with what it runs under (R292, R310). -/
def State.cmdOf (s : State) (x : Nat) (two : Bool) (w0 w1 : Word) : Cmd :=
  let t := (s.h.fifo x).ticket
  ⟨s.h.uid, x, t, two, w0, w1, s.h.ptroot, s.h.asid, s.h.priv, s.h.sppart, s.h.gang, s.myGang.map (·.launch), s.cmdKey x, s.refusal x t w0, false⟩

/-- The mailbox takes a message (R338, R340). -/
def State.takeMessage (s : State) (c : Cmd) : State :=
  (s.setDie s.h.key.die fun d => { d with messages := d.messages ++
    [⟨0, BitVec.ofNat 32 (hartidWord s.pkg s.h.key).toNat, c.uid, c.ticket, c.word0, c.word1, c.priv, none, false⟩] }).inboxFill s.h.key.die

/-- Whether an engine accepts a command: the mailbox does not while it has no inbox (R340). -/
def State.accepts (s : State) (x : Nat) : Bool := x != 5 || (s.die s.h.key.die).inbox.isSome

/-- Whether an engine is out of reach: the mailbox on a die manager core (R338). -/
def State.noEngine (s : State) (x : Nat) : Bool := s.h.key.dm && x == 5

/-- A push (R191): nothing where eight commands are outstanding, a wait where the engine does not accept. -/
def State.push (s : State) (x : Nat) (d : Reg) (two : Bool) (w0 w1 : Word) : Out :=
  let f := s.h.fifo x
  if f.out = 8 then .next ((s.wr d (BitVec.allOnes 64)).passWait)
  else s.acked (if x = 3 then 7 else 0) true true <|
    if !s.accepts x then s.waitAt (.engine x)
    else
      let c := s.cmdOf x two w0 w1
      let t : State := { s with cmds := s.cmds ++ [c], freeCount := s.freeCount + b2n c.record.isSome }
      let u : State := if x = 5 then t.takeMessage c else t
      let r := u.setFifo x fun q => { q with ticket := q.ticket + 1, out := q.out + 1 }
      .next ((r.wr d (f.ticket.setWidth 64)).passWait)

/-- R191. -/
def execEpush (d a : Reg) (x : BitVec 4) (s : State) : Out :=
  if s.noEngine x.toNat then s.illop ((encSR 43#6 0#5 d a 0#5 x).setWidth 64)
  else s.push x.toNat d false (s.rd a) 0

/-- R191. -/
def execEpush2 (d a b : Reg) (x : BitVec 4) (s : State) : Out :=
  if s.noEngine x.toNat then s.illop ((encSR 43#6 3#5 d a b x).setWidth 64)
  else s.push x.toNat d true (s.rd a) (s.rd b)

/-- The ticket of the oldest outstanding command. -/
def EngineFifo.oldest (f : EngineFifo) : BitVec 16 := f.ticket - BitVec.ofNat 16 f.out

/-- The record of the oldest outstanding command, where it has arrived. -/
def EngineFifo.head (f : EngineFifo) : Option Word := f.ready.find? fun r => r.setWidth 16 == f.oldest

/-- R191: records pop in push order. -/
def execEpop (d : Reg) (x : BitVec 4) (s : State) : Out :=
  let f := s.h.fifo x.toNat
  if s.noEngine x.toNat then s.illop ((encSR 43#6 1#5 d 0#5 0#5 x).setWidth 64)
  else if f.out = 0 then .next ((s.wr d (recordWord 0 x.toNat 0xFF f.ticket)).passWait)
  else match f.head with
    | none => s.waitAt (.engine x.toNat)
    | some r =>
      let t := s.setFifo x.toNat fun q => { q with out := q.out - 1, ready := q.ready.erase r }
      .next ((t.wr d r).passWait)

/-- R192. -/
def execEstat (d : Reg) (x : BitVec 4) (s : State) : Out :=
  let f := s.h.fifo x.toNat
  if s.noEngine x.toNat then s.illop ((encSR 43#6 2#5 d 0#5 0#5 x).setWidth 64)
  else s.result d (BitVec.ofNat 64 (f.ticket.toNat * 2 ^ 16 + b2n (f.out == 8) * 2 ^ 8 + f.ready.length * 2 ^ 4 + f.out))

end Sys2Proof.Machine
end

