-- ==== Sys2Proof/Machine/EngineRun.lean ====
section
/-! DEFINITION. How an engine runs a command (R191, R192, R292, R311): which command is next, its descriptor, its accesses,
its completion record. -/

namespace Sys2Proof.Machine

/-- How a command ends: `STATUS`, `DETAIL` and the address written to `FADDR`, if any. -/
structure Verdict where
  status : Nat
  detail : Nat
  faddr : Option Word
deriving DecidableEq, Repr

/-- A command's run: it may end early, and what it wrote stays written. -/
abbrev EM := ExceptT Verdict (StateM State)

/-- Runs to the verdict. -/
def EM.on (m : EM Verdict) (s : State) : Verdict × State :=
  match (ExceptT.run m).run s with
  | (.ok v, t) => (v, t)
  | (.error v, t) => (v, t)

/-- Saturation of `DETAIL` (R292). -/
def sat32 (n : Nat) : Nat := min n 0xFFFFFFFF

/-- The `STATUS` of a stop (R192); an element that is not aligned is BADCMD (R311). -/
def Stop.status : Stop → Nat
  | .link _ => 6
  | .reread _ => 7
  | .trap c _ _ =>
    if c = Cause.align then 1 else if c = Cause.page then 2 else if c = Cause.sealedPage then 3
    else if c = Cause.block then 4 else if c = Cause.sev2 then 5 else 7

/-- The address of a stop. -/
def Stop.addr : Stop → Word
  | .link a => a
  | .trap _ a _ => a
  | .reread _ => 0

/-- Accesses of a command that has completed `done` units: a stop ends it (R292). -/
def accessing {α : Type} (done : Nat) (m : M α) : EM α := ExceptT.mk do
  match ← ExceptT.run m with
  | .ok a => return .ok a
  | .error e => return .error ⟨e.status, sat32 done, some e.addr⟩

/-- Ends with a `STATUS` to whose `DETAIL` the manual gives no value (log 26). -/
def endOpen {α : Type} (status : Nat) (faddr : Option Word := none) : EM α := do
  let s ← get
  set { s with freeCount := s.freeCount + 1 }
  throw ⟨status, (Config.openDetail s.freeCount).toNat, faddr⟩

/-- BADCMD before any access. -/
def badCmd {α : Type} : EM α := endOpen 1

/-- BADCMD where a check fails. -/
def need (b : Bool) : EM Unit := if b then return () else badCmd

/-! ### Accesses -/

/-- The context of a command (R292, R310): a die manager's copy engine reaches the scratchpads of its cluster (log 24). -/
def Cmd.ctx (c : Cmd) : Ctx := ⟨c.key.die, c.key.clu, c.key.dm, c.ptroot, c.asid, c.priv, c.sppart, !c.key.dm || c.eng == 1, none⟩

/-- Reads bytes of one line that an access landed in: LINK and SEV2 stop (R292, R311). Bytes and severity. -/
def fetchLine (c : Ctx) (va : Word) (x : Xlat) (n src : Nat) : M (List Byte × Nat) := do
  if !(← get).reachable c.die x.key then throw (.link va)
  let (bs, sev) ← readTwice x.key n src
  if sev = 2 then raise Cause.sev2 va 0
  return (bs, sev)

/-- Reads `n` bytes as source `src` of R306, line by line: bytes, and whether a read delivered SEV1 data. Structural on the lines
left. -/
def readChecked (c : Ctx) (src : Nat) : Nat → Word → Nat → M (List Byte × Bool)
  | 0, _, _ => return ([], false)
  | f + 1, va, n => do
    if n = 0 then return ([], false)
    let m := min n (64 - va.toNat % 64)
    let (x, _) ← resolve c va .load 0
    let (bs, sev) ← fetchLine c va x m src
    let (cs, b) ← readChecked c src f (va + BitVec.ofNat 64 m) (n - m)
    return (bs ++ cs, b || sev == 1)

/-- Reads `n` bytes over at most `f` lines. -/
def readBytes (c : Ctx) (f : Nat) (va : Word) (n : Nat) : M (List Byte) := do return (← readChecked c 0 f va n).1

/-- Writes bytes, line by line. Structural on the lines left. -/
def writeBytes (c : Ctx) : Nat → Word → List Byte → M Unit
  | 0, _, _ => return ()
  | f + 1, va, bs => do
    if bs.isEmpty then return ()
    let m := 64 - va.toNat % 64
    let (x, t) ← resolve c va .store 0
    dirtyM c va t
    storeAt c va x (bs.take m)
    writeBytes c f (va + BitVec.ofNat 64 m) (bs.drop m)

/-- Whether a physical key is HBM or second-tier memory of this package. -/
def State.ownMemory (s : State) (k : Nat) : Bool := decide (k < spadBase) && pkgOf k == s.pkg && inMemory (k % 2 ^ 42)

/-- Bytes of a sealed page go to sealed pages of this package's memory only (R284, R293, R311). -/
def sealCheck (src : Word) (x y : Xlat) : M Unit := do
  if x.isSealed && !(y.isSealed && (← get).ownMemory y.key) then raise Cause.sealedPage src 0

/-! ### Commands -/

/-- Whether a command was sent from a place. -/
def Cmd.from (c : Cmd) (h : HartKey) : Bool := c.key == h || (h.dm && c.key.dm && c.key.die == h.die)

/-- A command's opcode (R191). -/
def Cmd.opc (c : Cmd) : Nat := field c.word0 0 8

/-- A hart's oldest command to an engine that has not run. -/
def State.oldestOf (s : State) (uid eng : Nat) : Option Cmd := s.cmds.find? fun c => c.uid == uid && c.eng == eng && c.record.isNone

/-- The command of an opcode that an engine runs next for a place: commands of a hart run in push order (R292, R311). -/
def State.nextCmd (s : State) (h : HartKey) (eng opc : Nat) : Option Cmd :=
  s.cmds.find? fun c => c.from h && c.eng == eng && c.record.isNone && c.opc == opc && s.oldestOf c.uid eng == some c

/-- Gives a command its completion record (R192). -/
def State.giveRecord (s : State) (c : Cmd) (status detail : Nat) : State :=
  { s with cmds := s.cmds.map fun y => if y == c then { y with record := some (recordWord detail c.eng status c.ticket) } else y }

/-- `FADDR` of the descriptor, where it can be written (R292). -/
def State.putFaddr (s : State) (c : Cmd) (a : Word) : State := ((writeBytes c.ctx 1 (c.word1 + 56) (toBytes 8 a.toNat)).on s).2

/-- Runs a command to its record. -/
def State.runCmd (s : State) (c : Cmd) (body : EM Verdict) : State :=
  let (v, t) := body.on s
  let u := match v.faddr with
    | some a => t.putFaddr c a
    | none => t
  u.giveRecord c v.status v.detail

/-- Whether everything a command needs has its clock (R254). A copy engine stops with its cluster. So do the scratchpads: a command
of another engine runs then where it would run alike with no partition to reach. -/
def State.clocked (s : State) (c : Cmd) (body : Cmd → EM Verdict) : Bool :=
  (s.cluster c.key.die c.key.clu).clock == .on ||
    (c.eng != 1 && (body c).on s == (body { c with sppart := 0 }).on s)

/-- One step of an engine: the next command of an opcode for a place, if there is one. -/
def State.engineStep (s : State) (h : HartKey) (eng opc : Nat) (body : Cmd → EM Verdict) : Out :=
  .next (match s.nextCmd h eng opc with
    | some c => if s.clocked c body then s.runCmd c (body c) else s
    | none => s)

/-- What reads of an engine count as in the fault queue (R306): 3 for the gather unit. -/
def Cmd.source (c : Cmd) : Nat := if c.eng = 2 then 3 else 0

/-- The eight words of a descriptor (R191) and whether it read SEV1: PAGE with all ones where it cannot be read. -/
def readDescriptor (c : Cmd) : EM (List Nat × Bool) := ExceptT.mk do
  match ← ExceptT.run (readChecked c.ctx c.source 1 c.word1 64) with
  | .ok (bs, b) => return .ok ((chunks 8 8 bs).map ofBytes, b)
  | .error _ => return .error ⟨2, 0xFFFFFFFF, none⟩

/-- A command of two words with a descriptor (R191): the checks of word 0 come before the descriptor is read. `body` also sees
whether the descriptor read SEV1. -/
def withSource (c : Cmd) (word0 : Bool) (body : List Nat → Bool → EM Verdict) : EM Verdict := do
  need (c.two && c.word1.toNat % 64 == 0 && word0)
  let (d, b) ← readDescriptor c
  body d b

/-- A command of two words with a descriptor. -/
def withDescriptor (c : Cmd) (word0 : Bool) (body : List Nat → EM Verdict) : EM Verdict := withSource c word0 fun d _ => body d

/-- A word of a descriptor. -/
def dword (d : List Nat) (i : Nat) : Word := BitVec.ofNat 64 (nth d i 0)

/-- The start of a row: base plus row times pitch. -/
def rowAt (base pitch : Word) (j : Nat) : Word := base + BitVec.ofNat 64 j * pitch

/-- Records of harts that no longer run at a place are dropped. -/
def State.dropRecords (s : State) (h : HartKey) (eng : Nat) : State :=
  { s with cmds := s.cmds.filter fun c => !(c.from h && c.eng == eng && c.record.isSome && s.harts.all fun x => x.uid != c.uid || x.run == .ended) }

/-- A hart's oldest command to an engine whose record has not been delivered. -/
def State.firstOf (s : State) (uid eng : Nat) : Option Cmd := s.cmds.find? fun c => c.uid == uid && c.eng == eng

/-- Moves the record of a hart's oldest command into its FIFO once the command has run (R191, R192). -/
def State.deliver (s : State) (uid eng : Nat) : State :=
  match s.firstOf uid eng with
  | some c => match c.record with
    | some r =>
      ({ s with cmds := s.cmds.erase c } : State).mapHarts (fun h => h.uid == uid) fun h =>
        { h with eng := h.eng.setIfInBounds eng { h.fifo eng with ready := (h.fifo eng).ready ++ [r] } }
    | none => s
  | none => s

/-- R192. -/
def execEngineRecordArrival (h : HartKey) (eng : Nat) (s : State) : Out :=
  .next (match s.hartAt h with
    | some x => s.deliver x.uid eng
    | none => s.dropRecords h eng)

end Sys2Proof.Machine
end

