-- ==== Sys2Proof/Machine/Collective.lean ====
section
/-! DEFINITION. The collective engine (R350 to R353, R355): joining, and the four commands. -/

namespace Sys2Proof.Machine

/-- A command's fields. -/
structure Coll where
  c : Ctx
  opc : Nat
  count : Nat
  rm : RMode
  op : Nat
  /-- Format, where the command has one. -/
  fmt : Option Fmt
  src : Word
  dst : Word
  list : Word
  n : Nat
  root : Nat
  tag : Word
deriving DecidableEq, Repr

/-- Formats of `ALLRED` (R350). -/
def collFmt : Nat → Option Fmt
  | 2 => some (.int 32)
  | 3 => some (.int 64)
  | 6 => some (.nat 32)
  | 7 => some (.nat 64)
  | 8 => some (.flt fmtF32)
  | 9 => some (.flt fmtBF16)
  | 10 => some (.flt fmtF16)
  | _ => none

/-- Whether a format is a float's. -/
def Fmt.isFlt : Fmt → Bool
  | .flt _ => true
  | _ => false

/-- The fields of a command and its descriptor. -/
def collOf (c : Cmd) (d : List Nat) : Coll :=
  let w := c.word0
  ⟨c.ctx, c.opc, field w 32 32, rmodeOf (field w 16 2), field w 13 3, if c.opc = 1 then collFmt (field w 8 5) else none,
    dword d 0, dword d 1, dword d 2, natBits (nth d 3 0) 0 11, natBits (nth d 3 0) 16 11, dword d 4⟩

/-- Checks of word 0 (R350, R351). -/
def collWordOk (w : Word) : Bool :=
  let opc := field w 0 8
  let op := field w 13 3
  field w 18 14 == 0 &&
  (match opc, collFmt (field w 8 5) with
    | 1, some f => decide (op ≤ 4) && (!f.isFlt || decide (op ≤ 2)) && (f.isFlt || field w 16 2 == 0)
    | 1, none => false
    | o, _ => field w 8 10 == 0 && (o != 4 || field w 32 32 == 0))

/-- Checks of the descriptor (R350, R351). -/
def collDescOk (q : Coll) (d : List Nat) : Bool :=
  natBits (nth d 3 0) 11 5 == 0 && natBits (nth d 3 0) 27 37 == 0 && nth d 5 0 == 0 && nth d 6 0 == 0 &&
  decide (2 ≤ q.n) && decide (q.n ≤ 1152) && decide (q.root < q.n) && (q.opc == 2 || q.root == 0) &&
  (q.opc != 4 || (q.src == 0 && q.dst == 0))

/-- Checks of the participants (R351). -/
def collListOk (own : Nat) (l : List Nat) : Bool := l.all (· < 1152) && decide l.Nodup && l.contains own

/-- The open command of a tag (R351). -/
def State.openJoin (s : State) (tag : Word) : Option Join := s.joins.find? fun j => j.own.isSome && j.tag == tag

/-- Bytes of one element. -/
def Coll.elem (q : Coll) : Nat := match q.fmt with
  | some f => f.width / 8
  | none => 1

/-- Bytes that each rank gives. -/
def Coll.srcLen (q : Coll) : Nat := if q.opc = 4 then 0 else q.count * q.elem

/-- Bytes written on each rank. -/
def Coll.dstLen (q : Coll) : Nat := if q.opc = 3 then q.n * q.count else q.srcLen

/-- Every byte homes in this package's memory (R351); a sealed source is refused. Structural on the lines left. -/
def collAddrs (c : Ctx) (kind : Kind) : Nat → Word → Nat → M Unit
  | 0, _, _ => return ()
  | f + 1, va, n => do
    if n = 0 then return ()
    let m := min n (64 - va.toNat % 64)
    let (x, _) ← resolve c va kind 0
    if !(← get).ownMemory x.key then raise Cause.page va 0
    if kind == .load && x.isSealed then raise Cause.sealedPage va 0
    collAddrs c kind f (va + BitVec.ofNat 64 m) (n - m)

/-- A stop of a collective: the address goes to `FADDR`, `DETAIL` has no value in the manual (log 26). -/
def accessingColl {α : Type} (m : M α) : EM α := do
  match ← (ExceptT.mk do return .ok (← ExceptT.run m) : EM (Except Stop α)) with
  | .ok a => return a
  | .error e => endOpen e.status (some e.addr)

/-- Participants of a command. -/
def readList (q : Coll) : EM (List Nat) := do
  let bs ← accessingColl (readBytes q.c (2 * q.n) q.list (2 * q.n))
  return (chunks 2 q.n bs).map ofBytes

/-! ### Results (R352) -/

/-- One rank's bytes, filled up where another module sent too few. -/
def Coll.bytesOf (q : Coll) (bs : List Byte) : List Byte := padTo 0 q.srcLen bs

/-- Two elements combined under `OP` (R42, R352). -/
def Coll.pair (q : Coll) (f : Fmt) (x y : Nat × Flags) : Nat × Flags :=
  let w := f.width
  let i (o : IntOp) : Nat × Flags := (intOp o w x.1 y.1 0)
  let r : Nat × Flags := match f with
    | .flt p => if q.op = 0 then p.fadd ⟨q.rm, 0⟩ x.1 y.1 else p.fminmax (q.op == 2) 0 x.1 y.1
    | .nat _ => if q.op = 0 then i .add else if q.op = 1 then i .minu else if q.op = 2 then i .maxu else if q.op = 3 then i .and else i .or
    | _ => if q.op = 0 then i .add else if q.op = 1 then i .min else if q.op = 2 then i .max else if q.op = 3 then i .and else i .or
  (r.1, if f.isFlt then x.2 ||| y.2 ||| r.2 else 0)

/-- One element of every rank combined: the tree of R56 with rank in place of lane position. -/
def Coll.combine (q : Coll) (f : Fmt) (xs : List Nat) : Nat × Flags :=
  (pairAll (q.pair f) xs.length (xs.map fun x => some (x, 0))).getD (0, 0)

/-- The bytes and flags of `ALLRED` over the ranks' bytes. Structural on the elements left. -/
def Coll.reduce (q : Coll) (f : Fmt) : Nat → List (List Byte) → List Byte × Flags
  | 0, _ => ([], 0)
  | n + 1, rs =>
    let e := f.width / 8
    let (x, fl) := q.combine f (rs.map fun bs => ofBytes (bs.take e))
    let (bs, gl) := q.reduce f n (rs.map fun bs => bs.drop e)
    (toBytes e x ++ bs, fl ||| gl)

/-- What every rank writes, and `DETAIL` (R352). -/
def Coll.result (q : Coll) (ranks : List (List Byte)) : List Byte × Nat :=
  match q.opc, q.fmt with
  | 1, some f => let (bs, fl) := q.reduce f q.count ranks; (bs, fl.toNat)
  | 2, _ => (nth ranks q.root [], 0)
  | 3, _ => (ranks.flatten, 0)
  | _, _ => ([], 0)

/-! ### Joining (R351) -/

/-- Whether two joins agree in everything that must be equal. -/
def Join.agrees (a b : Join) : Bool := a.word0 == b.word0 && a.n == b.n && a.root == b.root && a.list == b.list

/-- The lowest rank on a package that does not answer (R355). -/
def State.lostRank (s : State) (j : Join) : Option Nat := (upFrom 0 j.list.length).find? fun r => s.unreachable.contains (nth j.list r 0)

/-- Checks a command and joins (R351): its own entry among the joins. -/
def collJoin (c : Cmd) : EM Join := do
  need (c.two && c.word1.toNat % 64 == 0 && collWordOk c.word0)
  let (d, _) ← readDescriptor c
  let q := collOf c d
  need (collDescOk q d && ((← get).openJoin q.tag).isNone)
  let l ← readList q
  need (collListOk (← get).pkg l)
  accessingColl (do
    collAddrs q.c .load q.srcLen q.src q.srcLen
    collAddrs q.c .store q.dstLen q.dst q.dstLen)
  return ⟨q.tag, l.idxOf (← get).pkg, c.word0, q.n, q.root, l, [], some (c.uid, c.ticket, q.src, q.dst)⟩

/-- The fields of a joined command. -/
def joinedColl (c : Cmd) (j : Join) : Coll :=
  let (src, dst) := match j.own with
    | some (_, _, a, b) => (a, b)
    | none => (0, 0)
  ⟨c.ctx, c.opc, field c.word0 32 32, rmodeOf (field c.word0 16 2), field c.word0 13 3, if c.opc = 1 then collFmt (field c.word0 8 5) else none,
    src, dst, 0, j.n, j.root, j.tag⟩

/-- The other ranks' joins of a tag's open command: the first that each has sent (R351). -/
def firstJoins (tag : Word) : List Nat → List Join → List Join
  | _, [] => []
  | seen, j :: t => if j.tag == tag && j.own.isNone && !seen.contains j.rank then j :: firstJoins tag (j.rank :: seen) t else firstJoins tag seen t

/-- Closes a tag: the joins of its open command go, later ones that use the tag again stay. -/
def State.closeTag (s : State) (tag : Word) : State :=
  { s with joins := (firstJoins tag [] s.joins).foldl (fun js j => js.erase j) (s.joins.filter fun j => !(j.tag == tag && j.own.isSome)) }

/-- What an unreachable rank leaves of the destination, byte by byte (R355; log 28). Structural on the bytes left. -/
def tearDst (c : Ctx) : Word → Nat → M Unit
  | _, 0 => return ()
  | va, n + 1 => do
    let s ← get
    set { s with freeCount := s.freeCount + 1 }
    match Config.tornByte s.freeCount with
    | some b => writeBytes c 1 va [b]
    | none => pure ()
    tearDst c (va + 1) n

/-- Data moves once every rank has joined alike (R351, R352). -/
def collData (q : Coll) (j : Join) (ranks : List Join) : EM Verdict := do
  if q.opc = 4 || q.count = 0 then return ⟨0, 0, none⟩
  let own ← if q.opc = 2 && j.rank ≠ q.root then pure [] else accessingColl (readBytes q.c q.srcLen q.src q.srcLen)
  let bytes := (upFrom 0 j.n).map fun r =>
    if r = j.rank then own else q.bytesOf (((ranks.find? (·.rank == r)).map (·.data)).getD [])
  let (out, detail) := q.result bytes
  accessingColl (writeBytes q.c out.length q.dst out)
  return ⟨0, detail, none⟩

/-- What becomes of a joined command now (R351, R355): none while a rank is missing. -/
def State.collNow (s : State) (c : Cmd) (j : Join) : Option (EM Verdict) :=
  let q := joinedColl c j
  let others := firstJoins j.tag [] s.joins
  match s.lostRank j with
  | some r => some do
    accessingColl (tearDst q.c q.dst q.dstLen)
    return ⟨6, r, none⟩
  | none =>
    if others.any fun x => !j.agrees x then some (endOpen 9)
    else if (upFrom 0 j.n).all fun r => r == j.rank || others.any (·.rank == r) then some (collData q j others)
    else none

/-- Runs a joined command to its record where it can end. -/
def State.collEnd (s : State) (c : Cmd) (j : Join) : State :=
  match s.collNow c j with
  | some m => (s.runCmd c m).closeTag j.tag
  | none => s

/-- A hart's oldest command that has not joined (R353). -/
def State.unjoined (s : State) (uid : Nat) : Option Cmd := s.cmds.find? fun c => c.uid == uid && c.eng == 3 && c.record.isNone && !c.joined

/-- A command joins, or ends at its checks. -/
def State.collBegin (s : State) (c : Cmd) : State :=
  match (ExceptT.run (collJoin c)).run s with
  | (.error v, t) => t.runCmd c (throw v)
  | (.ok j, t) => { t with joins := t.joins ++ [j], cmds := t.cmds.map fun y => if y == c then { y with joined := true } else y }

/-- Own commands of a place and an opcode that have joined, with their joins. -/
def State.joinedOf (s : State) (h : HartKey) (opc : Nat) : List (Cmd × Join) :=
  (s.cmds.filter fun c => c.from h && c.eng == 3 && c.record.isNone && c.joined && c.opc == opc).filterMap fun c =>
    (s.joins.find? fun j => match j.own with | some (u, t, _) => u == c.uid && t == c.ticket | none => false).map fun j => (c, j)

/-- One step of the collective engine for a place and an opcode: the hart's next command begins if it has this opcode, and
the joined ones end where they can. -/
def State.collStep (s : State) (h : HartKey) (opc : Nat) : Out :=
  let s1 : State := match s.cmds.find? fun c => c.from h && c.eng == 3 && c.opc == opc && s.unjoined c.uid == some c with
    | some c => s.collBegin c
    | none => s
  .next ((s1.joinedOf h opc).foldl (fun s p => s.collEnd p.1 p.2) s1)

/-- R352. -/
def execAllred (h : HartKey) (s : State) : Out := s.collStep h 1

/-- R352. -/
def execBcast (h : HartKey) (s : State) : Out := s.collStep h 2

/-- R352. -/
def execAllgath (h : HartKey) (s : State) : Out := s.collStep h 3

/-- R353. -/
def execDbar (h : HartKey) (s : State) : Out := s.collStep h 4

end Sys2Proof.Machine
end

