-- ==== Sys2Proof/Machine/Compressed.lean ====
section
/-! DEFINITION. The compressed forms (R65): each acts as the 32-bit form it expands to, two bytes long. -/

namespace Sys2Proof.Machine

/-- Goes on `2 * off` bytes from the parcel where a condition holds, after it otherwise. -/
def State.branch2 (s : State) (c : Bool) (off : Word) : Out :=
  .next (if c then s.goto (s.h.pc + (off <<< 1)) else s.adv 2)

/-- The frame address of `n.ldf` and `n.stf`. -/
def State.frame (s : State) (p : BitVec 7) : Word := s.rd 2 + (p.setWidth 64 <<< 3)

/-- R65: `addi D, D, p`. -/
def execNInc (d : Reg) (p : BitVec 7) (s : State) : Out := .next ((s.wr d (s.rd d + p.signExtend 64)).adv 2)
/-- R65: `add D, S, s0`. -/
def execNCopy (d : Reg) (sh : BitVec 5) (s : State) : Out := .next ((s.wr d (s.rd sh)).adv 2)
/-- R65: `ld D, [s2+offset]`. -/
def execNLdf (d : Reg) (p : BitVec 7) (s : State) : Out :=
  s.run do
    let x ← loadScalar (s.frame p) 3
    wrM d (BitVec.ofNat 64 x)
    advM 2
/-- R65: `sd D, [s2+offset]`. -/
def execNStf (d : Reg) (p : BitVec 7) (s : State) : Out :=
  s.run do
    storeScalar (s.frame p) 3 (s.rd d).toNat
    advM 2
/-- R65: `beq A, s0, p`. -/
def execNBrz (a : Reg) (p : BitVec 7) (s : State) : Out := s.branch2 (s.rd a == 0) (p.signExtend 64)
/-- R65: `bne A, s0, p`. -/
def execNBrnz (a : Reg) (p : BitVec 7) (s : State) : Out := s.branch2 (s.rd a != 0) (p.signExtend 64)
/-- R65: `jal s0, p`. -/
def execNGo (p : BitVec 12) (s : State) : Out := s.branch2 true (p.signExtend 64)
/-- R65: `add D, D, S`. -/
def execNAcc (d : Reg) (sh : BitVec 5) (s : State) : Out := .next ((s.wr d (s.rd d + s.rd sh)).adv 2)

end Sys2Proof.Machine
end

