-- ==== Sys2Proof/Machine/Control.lean ====
section
/-! DEFINITION. Branches and jumps (R85, R86). -/

namespace Sys2Proof.Machine

/-- Goes on `2 * off` bytes from the instruction where a condition holds, after it otherwise (R85). -/
def State.branch (s : State) (c : Bool) (off : BitVec 14) : Out :=
  .next (if c then s.goto (s.h.pc + (off.signExtend 64 <<< 1)) else s.adv 4)

/-- R85. -/
def execBeq (a b : Reg) (o : BitVec 14) (s : State) : Out := s.branch (s.rd a == s.rd b) o
/-- R85. -/
def execBne (a b : Reg) (o : BitVec 14) (s : State) : Out := s.branch (s.rd a != s.rd b) o
/-- R85. -/
def execBlt (a b : Reg) (o : BitVec 14) (s : State) : Out := s.branch ((s.rd a).slt (s.rd b)) o
/-- R85. -/
def execBge (a b : Reg) (o : BitVec 14) (s : State) : Out := s.branch (!(s.rd a).slt (s.rd b)) o
/-- R85. -/
def execBltu (a b : Reg) (o : BitVec 14) (s : State) : Out := s.branch ((s.rd a).ult (s.rd b)) o
/-- R85. -/
def execBgeu (a b : Reg) (o : BitVec 14) (s : State) : Out := s.branch (!(s.rd a).ult (s.rd b)) o
/-- R86. -/
def execJal (d : Reg) (o : BitVec 19) (s : State) : Out :=
  .next ((s.wr d (s.h.pc + 4)).goto (s.h.pc + (o.signExtend 64 <<< 1)))
/-- R86: the target is read before the link is written, and its bit 0 is cleared. -/
def execJalr (d a : Reg) (i : BitVec 14) (s : State) : Out :=
  .next ((s.wr d (s.h.pc + 4)).goto ((s.rd a + i.signExtend 64) &&& ~~~1))

end Sys2Proof.Machine
end

