-- ==== Sys2Proof/Machine/Scratchpad.lean ====
section
/-! DEFINITION. The SPAD major (R222 to R224). -/

namespace Sys2Proof.Machine

/-- The key of an address: bits 56:8 (R222). -/
def tagKey (a : Word) : Nat := field a 8 49

/-- The set of an address (R222). -/
def tagSet (a : Word) : Nat := field a 8 8

/-- A gang's entry for an address's block on a core; an address that is not canonical misses. -/
def State.tagOf (s : State) (c : CoreKey) (gang : Nat) (a : Word) : Option TagEntry :=
  if canonical a then (s.core c).tags.find? fun t => t.gang == gang && t.set == tagSet a && t.key == tagKey a else none

/-- Ways of a set that hold no entry, the lowest first. -/
def CoreSt.freeWays (c : CoreSt) (set : Nat) : List Nat :=
  (upFrom 0 4).filter fun w => !c.tags.any fun t => t.set == set && t.way == w

/-- Installs a key (R223): 1 moved, 0 filled, all ones where the set is full. -/
def State.tagInstall (s : State) (c : CoreKey) (gang : Nat) (a : Word) (slot : Nat) : Word × State :=
  match s.tagOf c gang a with
  | some e => (1, s.setCore c fun x => { x with tags := x.tags.map fun t => if t == e then { t with slot := slot } else t })
  | none =>
    match (s.core c).freeWays (tagSet a) with
    | w :: _ => (0, s.setCore c fun x => { x with tags := x.tags ++ [⟨tagSet a, w, gang, tagKey a, slot⟩] })
    | [] => (BitVec.allOnes 64, s)

/-- The entry of the current hart's gang on its own core. -/
def State.ownTag (s : State) (a : Word) : Option TagEntry := s.h.gang.bind fun g => s.tagOf (coreOf s.h.key) g a

/-- R223. -/
def execSplook (d a : Reg) (s : State) : Out :=
  if s.h.key.dm then s.illop ((encSR 46#6 0#5 d a 0#5 0#4).setWidth 64)
  else match s.ownTag (s.rd a) with
    | some e => s.result d (windowAddr s.h.key.core (e.slot + field (s.rd a) 0 8))
    | none => s.result d 0

/-- Whether a slot operand of `SPINST` is refused (R223). -/
def Hart.badSlot (h : Hart) (b : Word) : Bool :=
  !inWindow b || windowCore b != h.key.core || field b 0 8 != 0 || !inPartition h.sppart (windowCore b) (windowOff b)

/-- R223. -/
def execSpinst (d a b : Reg) (s : State) : Out :=
  if s.h.key.dm then s.illop ((encSR 46#6 1#5 d a b 0#4).setWidth 64)
  else if !canonical (s.rd a) then s.opnd (s.rd a) 1
  else if s.h.badSlot (s.rd b) then s.opnd (s.rd b) 2
  else
    let (r, t) := s.tagInstall (coreOf s.h.key) (s.h.gang.getD 0) (s.rd a) (windowOff (s.rd b))
    t.result d r

/-- R223. -/
def execSpdrop (d a : Reg) (s : State) : Out :=
  if s.h.key.dm then s.illop ((encSR 46#6 2#5 d a 0#5 0#4).setWidth 64)
  else match s.ownTag (s.rd a) with
    | some e =>
      (s.setCore (coreOf s.h.key) fun x => { x with tags := x.tags.filter (· != e) }).result d (windowAddr s.h.key.core e.slot)
    | none => s.result d 0

/-- The lowest address of `n` bytes in 64-byte steps that fails R217 or R220. Structural on the steps. -/
def checkRange (c : Ctx) (va : Word) : Nat → M Unit
  | 0 => return ()
  | n + 1 => do
    let _ ← translate c va .store 3
    checkRange c (va + 64) n

/-- Writes zero to 64-byte pieces of a scratchpad. -/
def zeroRange (c : Ctx) (va : Word) : Nat → M Unit
  | 0 => return ()
  | n + 1 => do
    let x ← translate c va .store 3
    storeAt c va x (List.replicate 64 0)
    zeroRange c (va + 64) n

/-- R223. -/
def execSpzero (a b : Reg) (s : State) : Out :=
  let va := s.rd a
  let n := (s.rd b).toNat
  if s.h.key.dm then s.illop ((encSR 46#6 3#5 0#5 a b 0#4).setWidth 64)
  else if n % 64 ≠ 0 ∨ (inWindow va ∧ 2 ^ 18 < windowOff va + n) then s.opnd (s.rd b) 2
  else if va.toNat % 64 ≠ 0 then .next (s.trapHere Cause.align va (accessInfo .store 3 0))
  else if n = 0 then .next (s.adv 4)
  else if !inWindow va then .next (s.trapHere Cause.page va (accessInfo .store 3 2))
  else s.run do
    checkRange s.h.ctx va (n / 64)
    zeroRange s.h.ctx va (n / 64)
    advM 4

end Sys2Proof.Machine
end

