-- ==== Sys2Proof/Machine/CopyEngine.lean ====
section
/-! DEFINITION. The copy-and-convert engine (R229, R291 to R296). -/

namespace Sys2Proof.Machine

/-! ### Command words (R291) -/

/-- A command's fields. -/
structure Ce where
  c : Ctx
  gang : Option Nat
  count : Nat
  src : Word
  dst : Word
  dst2 : Word
  rows : Nat
  spitch : Word
  dpitch : Word
  epitch : Word
deriving DecidableEq, Repr

/-- The fields of a command and its descriptor. -/
def ceOf (c : Cmd) (d : List Nat) : Ce :=
  ⟨c.ctx, c.gang, field c.word0 32 32, dword d 0, dword d 1, dword d 2, natBits (nth d 3 0) 0 32, dword d 4, dword d 5, dword d 6⟩

/-- Whether the upper half of `ROWS` is zero. -/
def rowsOk (d : List Nat) : Bool := natBits (nth d 3 0) 32 32 == 0

/-- Whether a command has no element: nothing is accessed, and nothing is misaligned (R291). -/
def Ce.empty (k : Ce) : Bool := k.rows == 0 || k.count == 0

/-- Runs `f` for rows from `j` on. Structural on the rows left. -/
def eachRow (f : Nat → EM Unit) : Nat → Nat → EM Unit
  | _, 0 => return ()
  | j, n + 1 => do
    f j
    eachRow f (j + 1) n

/-- DONE. -/
def done0 (detail : Nat) : EM Verdict := return ⟨0, detail, none⟩

/-! ### COPY, FILL, SPFILL (R294) -/

/-- Copies bytes that lie in one line on both sides: read, checked, written (R293). -/
def copyPiece (c : Ctx) (src dst : Word) (n : Nat) : M Unit := do
  let (x, _) ← resolve c src .load 0
  let (bs, _) ← fetchLine c src x n 0
  let (y, t) ← resolve c dst .store 0
  sealCheck src x y
  dirtyM c dst t
  storeAt c dst y bs

/-- Copies `n` bytes in ascending order after `done` others. Structural on the pieces left. -/
def copyBytes (c : Ctx) : Nat → Nat → Word → Word → Nat → EM Unit
  | 0, _, _, _, _ => return ()
  | f + 1, done, src, dst, n => do
    if n = 0 then return ()
    let m := min n (min (64 - src.toNat % 64) (64 - dst.toNat % 64))
    accessing done (copyPiece c src dst m)
    copyBytes c f (done + m) (src + BitVec.ofNat 64 m) (dst + BitVec.ofNat 64 m) (n - m)

/-- Whether two ranges of `n` bytes share a byte. -/
def wrapsMeet (n : Nat) (a b : Word) : Bool := decide ((b - a).toNat < n) || decide ((a - b).toNat < n)

/-- Whether a source byte of the command is a destination byte, by virtual address (log 29). -/
def Ce.overlaps (k : Ce) : Bool :=
  (upFrom 0 k.rows).any fun i => (upFrom 0 k.rows).any fun j => wrapsMeet k.count (rowAt k.src k.spitch i) (rowAt k.dst k.dpitch j)

/-- R294. -/
def ceCopy (c : Cmd) : EM Verdict :=
  withDescriptor c (field c.word0 8 24 == 0) fun d => do
    let k := ceOf c d
    need (rowsOk d && k.dst2 == 0 && k.epitch == 0 && !k.overlaps)
    eachRow (fun j => copyBytes k.c k.count (j * k.count) (rowAt k.src k.spitch j) (rowAt k.dst k.dpitch j) k.count) 0 k.rows
    done0 0

/-- R294. -/
def execCopy (h : HartKey) (s : State) : Out := s.engineStep h 1 1 ceCopy

/-- The bytes of a fill: the byte at address `y` is byte `y` mod 8 of the pattern. -/
def fillBytes (pattern dst : Word) (n : Nat) : List Byte :=
  (upFrom 0 n).map fun i => BitVec.ofNat 8 (field pattern (8 * ((dst.toNat + i) % 8)) 8)

/-- Fills bytes of one line. -/
def fillPiece (c : Ctx) (pattern dst : Word) (n : Nat) : M Unit := do
  let (y, t) ← resolve c dst .store 0
  dirtyM c dst t
  storeAt c dst y (fillBytes pattern dst n)

/-- Fills `n` bytes in ascending order after `done` others. Structural on the pieces left. -/
def fillRow (c : Ctx) (pattern : Word) : Nat → Nat → Word → Nat → EM Unit
  | 0, _, _, _ => return ()
  | f + 1, done, dst, n => do
    if n = 0 then return ()
    let m := min n (64 - dst.toNat % 64)
    accessing done (fillPiece c pattern dst m)
    fillRow c pattern f (done + m) (dst + BitVec.ofNat 64 m) (n - m)

/-- R294. -/
def ceFill (c : Cmd) : EM Verdict :=
  withDescriptor c (field c.word0 8 24 == 0) fun d => do
    let k := ceOf c d
    need (rowsOk d && k.dst2 == 0 && k.spitch == 0 && k.epitch == 0)
    eachRow (fun j => fillRow k.c k.src k.count (j * k.count) (rowAt k.dst k.dpitch j) k.count) 0 k.rows
    done0 0

/-- R294. -/
def execFill (h : HartKey) (s : State) : Out := s.engineStep h 1 6 ceFill

/-- Whether `SPINST` would take a key and a slot for the pushing gang (R223), which may be stopped while its partition stays live
(R269, R356). -/
def Ce.installs (k : Ce) (s : State) (a slot : Word) : Option Nat :=
  match k.gang.bind s.gangOf with
  | some g =>
    let live := g.die == k.c.die && g.clu == k.c.clu && !g.deadSpad && !g.copied && (s.members g.id).any (·.sppart == k.c.sppart)
    if live && canonical a && inPartition k.c.sppart (windowCore slot) (windowOff slot) then some g.id else none
  | none => none

/-- Installs a block's key: installed blocks and whether a set was full, after it. -/
def installBlock (k : Ce) (a slot : Word) (acc : Nat × Bool) : EM (Nat × Bool) := do
  let s ← get
  match k.installs s a slot with
  | none => return acc
  | some g =>
    let (r, t) := s.tagInstall ⟨false, k.c.die, k.c.clu, windowCore slot⟩ g a (windowOff slot)
    set t
    if r = BitVec.allOnes 64 then return (acc.1, true) else return (acc.1 + 1, acc.2)

/-- Copies and installs blocks of 256 bytes from `b` on. Structural on the blocks left. -/
def fillBlocks (k : Ce) : Nat → Nat → Nat × Bool → EM (Nat × Bool)
  | _, 0, acc => return acc
  | b, n + 1, acc => do
    let src := k.src + BitVec.ofNat 64 (256 * b)
    let dst := k.dst + BitVec.ofNat 64 (256 * b)
    copyBytes k.c 256 (256 * b) src dst 256
    fillBlocks k (b + 1) n (← installBlock k src dst acc)

/-- Whether addresses and count suit `SPFILL`. -/
def Ce.spOk (k : Ce) : Bool :=
  k.src.toNat % 256 == 0 && k.dst.toNat % 256 == 0 && k.count % 256 == 0 && inWindow k.dst && decide (windowCore k.dst < 48)

/-- R294. -/
def ceSpfill (c : Cmd) : EM Verdict :=
  withDescriptor c (field c.word0 8 24 == 0) fun d => do
    let k := ceOf c d
    need (rowsOk d && k.dst2 == 0 && k.epitch == 0 && decide (k.rows ≤ 1) && k.spOk && !k.overlaps)
    let (n, full) ← fillBlocks k 0 (k.rows * (k.count / 256)) (0, false)
    return ⟨if full then 9 else 0, sat32 n, none⟩

/-- R294. -/
def execSpfill (h : HartKey) (s : State) : Out := s.engineStep h 1 7 ceSpfill

/-! ### CONV and CONVEF (R294, R295) -/

/-- The address of element `i` of a row of `w`-bit elements. -/
def convAddr (w : Nat) (base : Word) (i : Nat) : Word := base + BitVec.ofNat 64 (i * w / 8)

/-- Whether every element of the rows is naturally aligned. -/
def elemsAligned (w : Nat) (base pitch : Word) (rows : Nat) : Bool :=
  base.toNat % max 1 (w / 8) == 0 && (decide (rows ≤ 1) || pitch.toNat % max 1 (w / 8) == 0)

/-- Reads an element: its pattern, its address and where it lies. -/
def readElem (c : Ctx) (w : Nat) (base : Word) (i : Nat) : M (Nat × Word × Xlat) := do
  let a := convAddr w base i
  let (x, _) ← resolve c a .load 0
  let (bs, _) ← fetchLine c a x (max 1 (w / 8)) 0
  return (if w = 4 then natBits (ofBytes bs) (4 * (i % 2)) 4 else ofBytes bs, a, x)

/-- Checks a write against every source it holds bytes of (R293). -/
def sealChecks (y : Xlat) : List (Word × Xlat) → M Unit
  | [] => return ()
  | (a, x) :: t => do
    sealCheck a x y
    sealChecks y t

/-- A nibble put into its byte; the last odd one leaves zero above it (R38). -/
def putNibble (old : Nat) (i : Nat) (last : Bool) (x : Nat) : Nat :=
  if i % 2 = 1 then old % 16 + x % 16 * 16 else x % 16 + (if last then 0 else old / 16 % 16 * 16)

/-- Writes element `i`. -/
def writeElem (c : Ctx) (w : Nat) (base : Word) (i : Nat) (last : Bool) (x : Nat) (srcs : List (Word × Xlat)) : M Unit := do
  let a := convAddr w base i
  let (y, t) ← resolve c a .store 0
  sealChecks y srcs
  dirtyM c a t
  if w = 4 then
    let (bs, _, s) := (← get).readAt y.key 1 2
    set s
    storeAt c a y (toBytes 1 (putNibble (ofBytes bs) i last x))
  else storeAt c a y (toBytes (w / 8) x)

/-- What a conversion command converts. -/
structure Conv where
  k : Ce
  rc : RCtx
  src : Fmt
  dst : Fmt
  /-- Residue format and whether the stored residue is added first (R295). -/
  res : Option (FmtP × Bool)
deriving DecidableEq, Repr

/-- The residue of a converted value (R295): pattern and flags. -/
def residue (rc : RCtx) (p : FmtP) (dst : Fmt) (v : FV) (n : Nat) : Nat × Flags :=
  match v with
  | .fin _ _ _ => match dst.read 0 n with
    | some y =>
      let (e, f) := FV.add rc.rm v y.neg
      let (x, g) := p.round rc.rm 0 e
      (x, f ||| g)
    | none => (0, 0)
  | _ => (0, 0)

/-- The value to convert: with the stored residue added where asked for, and the sources it came from. DESIGN CHOICE (log 63): with a
residue added, an element of an integer format saturates by the row of R53 for a float source, with NV. -/
def sourceValue (q : Conv) (j i : Nat) : M (FV × Flags × Bool × List (Word × Xlat)) := do
  let (x, a, xl) ← readElem q.k.c q.src.width (rowAt q.k.src q.k.spitch j) i
  match q.src.read q.rc.fz x with
  | none => raise Cause.rescode a 0
  | some v =>
    match q.res with
    | some (p, true) =>
      let (r, b, yl) ← readElem q.k.c p.width (rowAt q.k.dst2 q.k.epitch j) i
      let (w, f) := FV.add q.rc.rm v (p.read r)
      return (w, f, false, [(a, xl), (b, yl)])
    | _ => return (v, 0, q.src.isInt, [(a, xl)])

/-- One element (R294, R295): flags, and whether a NaN became zero. -/
def convOne (q : Conv) (j i : Nat) : M (Flags × Bool) := do
  let last := decide (i + 1 = q.k.count)
  let (v, f, fromInt, srcs) ← sourceValue q j i
  let r := q.dst.convert q.rc fromInt v
  writeElem q.k.c q.dst.width (rowAt q.k.dst q.k.dpitch j) i last r.bits srcs
  match q.res with
  | none => return (f ||| r.flags, r.entry)
  | some (p, _) =>
    let (e, g) := residue q.rc p q.dst v r.bits
    writeElem q.k.c p.width (rowAt q.k.dst2 q.k.epitch j) i last e srcs
    return (f ||| r.flags ||| g, r.entry)

/-- Elements of row `j` from `i` on: flags and zeroed NaNs. Structural on the elements left. -/
def convRow (q : Conv) (j : Nat) : Nat → Nat → Flags × Nat → EM (Flags × Nat)
  | _, 0, acc => return acc
  | i, n + 1, acc => do
    let (f, z) ← accessing (j * q.k.count + i) (convOne q j i)
    convRow q j (i + 1) n (acc.1 ||| f, acc.2 + b2n z)

/-- Rows from `j` on. Structural on the rows left. -/
def convRows (q : Conv) : Nat → Nat → Flags × Nat → EM (Flags × Nat)
  | _, 0, acc => return acc
  | j, n + 1, acc => do convRows q (j + 1) n (← convRow q j 0 q.k.count acc)

/-- Whether every element of a conversion is aligned. -/
def Conv.aligned (q : Conv) : Bool :=
  elemsAligned q.src.width q.k.src q.k.spitch q.k.rows && elemsAligned q.dst.width q.k.dst q.k.dpitch q.k.rows &&
  (match q.res with | some (p, _) => elemsAligned p.width q.k.dst2 q.k.epitch q.k.rows | none => true)

/-- Runs a conversion. -/
def runConv (q : Conv) : EM Verdict := do
  need (q.k.empty || q.aligned)
  let (f, z) ← convRows q 0 q.k.rows (0, 0)
  done0 (f.toNat + sat16 z * 2 ^ 16)

/-- The rounding of a conversion word. -/
def convRctx (w : Word) : RCtx := ⟨rmodeOf (field w 23 2), field w 25 2⟩

/-- R294. -/
def ceConv (c : Cmd) : EM Verdict :=
  let w := c.word0
  match Fmt.ofCode (field w 8 5), Fmt.ofCode (field w 13 5) with
  | some src, some dst =>
    withDescriptor c (field w 18 5 == 0 && field w 27 5 == 0 && field w 25 2 != 3) fun d => do
      let k := ceOf c d
      need (rowsOk d && k.dst2 == 0 && k.epitch == 0)
      runConv ⟨k, convRctx w, src, dst, none⟩
  | _, _ => badCmd

/-- R294. -/
def execConv (h : HartKey) (s : State) : Out := s.engineStep h 1 2 ceConv

/-- A residue format (R294): 9 to 12. -/
def residueFmt (code : Nat) : Option FmtP := match code with
  | 9 => some fmtBF16
  | 10 => some fmtF16
  | 11 => some fmtE4M3
  | 12 => some fmtE5M2
  | _ => none

/-- R295. -/
def ceConvef (c : Cmd) : EM Verdict :=
  let w := c.word0
  match Fmt.ofCode (field w 8 5), Fmt.ofCode (field w 13 5), residueFmt (field w 18 5) with
  | some src, some dst, some p =>
    withDescriptor c (field w 28 4 == 0 && field w 25 2 != 3) fun d => do
      need (rowsOk d)
      runConv ⟨ceOf c d, convRctx w, src, dst, some (p, field w 27 1 == 1)⟩
  | _, _, _ => badCmd

/-- R295. -/
def execConvef (h : HartKey) (s : State) : Out := s.engineStep h 1 3 ceConvef

/-! ### COMP and DECOMP (R294) -/

/-- Whether a block command's fields suit: only `COUNT`, `WC` and the two addresses are used. -/
def Ce.blockOk (k : Ce) (d : List Nat) : Bool :=
  rowsOk d && k.dst2 == 0 && k.spitch == 0 && k.dpitch == 0 && k.epitch == 0 && decide (k.rows ≤ 1)

/-- Reads raw bytes of a block command, line by line; a sealed page is refused (R293). Structural on the lines left. -/
def readRaw (c : Ctx) : Nat → Word → Nat → M (List Byte)
  | 0, _, _ => return []
  | f + 1, va, n => do
    if n = 0 then return []
    let m := min n (64 - va.toNat % 64)
    let (x, _) ← resolve c va .load 0
    if x.isSealed then raise Cause.sealedPage va 0
    let (bs, _) ← fetchLine c va x m 0
    return bs ++ (← readRaw c f (va + BitVec.ofNat 64 m) (n - m))

/-- The first address of the page of a translation that an address lies in. -/
def pageBase (va : Word) (t : Option TlbEntry) : Word :=
  let lg := match t with
    | some t => if t.stride.isSome then 12 else t.lg
    | none => 12
  BitVec.ofNat 64 (va.toNat / 2 ^ lg * 2 ^ lg)

/-- Checks the pages that a block is written to, line by line (R294). Structural on the lines left. -/
def checkBlockPages (c : Ctx) : Nat → Word → Nat → M Unit
  | 0, _, _ => return ()
  | f + 1, va, n => do
    if n = 0 then return ()
    let m := min n (64 - va.toNat % 64)
    let (x, t) ← resolve c va .store 0
    if x.isSealed then raise Cause.sealedPage va 0
    if x.nl ≠ 11 then raise Cause.page (pageBase va t) 0
    checkBlockPages c f (va + BitVec.ofNat 64 m) (n - m)

/-- Encodes and writes one block: its bytes. -/
def compBlock (k : Ce) (wc i m : Nat) (dst : Word) : M Nat := do
  let bs ← readRaw k.c (m * 2 ^ wc) (k.src + BitVec.ofNat 64 (i * 2 ^ wc)) (m * 2 ^ wc)
  let out := encodeBlock wc ((chunks (2 ^ wc) m bs).map ofBytes)
  checkBlockPages k.c out.length dst out.length
  writeBytes k.c out.length dst out
  return out.length

/-- Blocks from element `i` on, `w` bytes written so far. Structural on the blocks left. -/
def compBlocks (k : Ce) (wc : Nat) : Nat → Nat → Nat → EM Nat
  | 0, _, w => return w
  | f + 1, i, w => do
    let n ← accessing w (compBlock k wc i (min 256 (k.count - i)) (k.dst + BitVec.ofNat 64 w))
    compBlocks k wc f (i + 256) (w + n)

/-- R294. -/
def ceComp (c : Cmd) : EM Verdict :=
  let wc := field c.word0 28 2
  withDescriptor c (field c.word0 8 20 == 0 && field c.word0 30 2 == 0) fun d => do
    let k := ceOf c d
    need (k.blockOk d && (k.empty || (elemsAligned (8 * 2 ^ wc) k.src 0 1 && k.dst.toNat % 16 == 0)))
    done0 (sat32 (← compBlocks k wc (k.rows * ceilDiv k.count 256) 0 0))

/-- R294. -/
def execComp (h : HartKey) (s : State) : Out := s.engineStep h 1 4 ceComp

/-- Reads bytes of a stream, line by line: sealed pages and pages of another layout are refused. Structural on the lines. -/
def readBlockBytes (c : Ctx) : Nat → Word → Nat → M (List Byte)
  | 0, _, _ => return []
  | f + 1, va, n => do
    if n = 0 then return []
    let m := min n (64 - va.toNat % 64)
    let (x, _) ← resolve c va .load 0
    blockPage .load va 0 x
    let (bs, _) ← fetchLine c va x m 0
    return bs ++ (← readBlockBytes c f (va + BitVec.ofNat 64 m) (n - m))

/-- Decodes the block at an address: its elements and the bytes to the next block. -/
def ceBlock (c : Ctx) (wc : Nat) (va : Word) : M (List Nat × Nat) := do
  let b := BlockHead.ofWord (ofBytes (← readBlockBytes c 1 va 8))
  if b.broken then raise Cause.block va 0
  let bs ← readBlockBytes c b.body (va + 8) b.body
  if (b.failure (some wc) bs).isSome then raise Cause.block va 0
  return ((b.row bs).elems (8 * 2 ^ wc), b.stride)

/-- Writes raw elements in ascending order after `done` others; a sealed page is refused. -/
def writeRaw (c : Ctx) (wc : Nat) (dst : Word) : Nat → List Nat → EM Unit
  | _, [] => return ()
  | done, x :: t => do
    accessing done (do
      let a := dst + BitVec.ofNat 64 (done * 2 ^ wc)
      let (y, e) ← resolve c a .store 0
      if y.isSealed then raise Cause.sealedPage a 0
      dirtyM c a e
      storeAt c a y (toBytes (2 ^ wc) x))
    writeRaw c wc dst (done + 1) t

/-- Decodes until `count` elements are out: stream bytes consumed. Structural on the elements left. -/
def decompBlocks (k : Ce) (wc : Nat) : Nat → Nat → Nat → EM Nat
  | 0, _, used => return used
  | f + 1, done, used => do
    if k.count ≤ done then return used
    let (els, n) ← accessing done (ceBlock k.c wc (k.src + BitVec.ofNat 64 used))
    let out := els.take (k.count - done)
    writeRaw k.c wc k.dst done out
    decompBlocks k wc f (done + out.length) (used + n)

/-- R294. -/
def ceDecomp (c : Cmd) : EM Verdict :=
  let wc := field c.word0 28 2
  withDescriptor c (field c.word0 8 20 == 0 && field c.word0 30 2 == 0) fun d => do
    let k := ceOf c d
    need (k.blockOk d && (k.empty || (elemsAligned (8 * 2 ^ wc) k.dst 0 1 && k.src.toNat % 16 == 0)))
    done0 (sat32 (← decompBlocks k wc (k.rows * k.count) 0 0))

/-- R294. -/
def execDecomp (h : HartKey) (s : State) : Out := s.engineStep h 1 5 ceDecomp

end Sys2Proof.Machine
end

