-- ==== Sys2Proof/Machine/Flue.lean ====
section
/-! DEFINITION. The ends of lane cycles and windows as events, rail steps and cluster clocks (R183, R233, R242, R253, R254). -/

namespace Sys2Proof.Machine

/-- R183: time passes to the next lane cycle, in which every bucket leaks. -/
def execDispatchGateCycle (_ : CoreKey) (s : State) : Out := .next (s.elapse s.toCycle)

/-- R234: time passes to the end of the window, which is common to every flue (R233). -/
def execFlueWindowEnd (_ : FlueKey) (s : State) : Out := .next (s.elapse s.toWindow)

/-- A rail step ends; the next one begins where more is requested (R242). Off the rail the controller is held in reset and
keeps its reset values until the flue reaches ON (R253). -/
def FlueSt.stepDone (f : FlueSt) : FlueSt :=
  match f.railTo with
  | none => f
  | some t =>
    let g : FlueSt :=
      if t = 2 then { FlueSt.reset with cls := f.cls, railReq := f.railReq, railState := 2, held := true }
      else { f with railState := t, railTo := none, held := f.held && t != 0 }
    g.request g.railReq

/-- Windows that have ended since module reset (R233). -/
def State.windows (s : State) : Nat := s.ticks / 128

/-- R242, R253: the measured class counts windows anew from ON (R243). -/
def State.railStepDone (s : State) (f : FlueKey) : State :=
  s.setFlue f fun x => if x.railTo = some 0 then { x.stepDone with since := s.windows } else x.stepDone

/-- R242. -/
def execFlrailStepDone (f : FlueKey) (s : State) : Out := .next (s.railStepDone f)

/-- R254. -/
def execClusterClockStopDone (die clu : Nat) (s : State) : Out :=
  .next (s.setCluster die clu fun k => if k.clock = .stopping then { k with clock := .off } else k)

/-- The clocks of a cluster run again: every bucket reads 0, and its copy engine goes on (R254). -/
def State.clockOn (s : State) (die clu : Nat) : State :=
  if (s.cluster die clu).clock = .starting then
    let s1 : State := s.setCluster die clu fun k => { k with clock := .on }
    let s2 : State := { s1 with cores := s1.cores.map fun p =>
        if !p.1.dm && p.1.die == die && p.1.clu == clu then (p.1, { p.2 with level := 0 }) else p }
    (s2.cmds.filter fun c => c.eng == 1 && c.key.die == die && c.key.clu == clu && c.record.isNone &&
      !knownOpc 1 (field c.word0 0 8)).foldl State.refuseOwed s2
  else s

/-- R254. -/
def execClusterClockRestartDone (die clu : Nat) (s : State) : Out := .next (s.clockOn die clu)

end Sys2Proof.Machine
end

