-- ==== Sys2Proof/Machine/CoreMajor.lean ====
section
/-! DEFINITION. The CORE major (R181, R187, R244). -/

namespace Sys2Proof.Machine

/-- A scalar instruction's wait in a token FIFO's stream (R187). -/
def State.waitToken (s : State) (f : Nat) : Out := s.waitAt (.token f)

/-- R187: the scalar producer posts at once, waiting while its FIFO is full; the others go through the queue. -/
def execTkpost (a : Reg) (s : State) : Out :=
  if a = 0 ∨ a = 1 then
    if s.h.token a.toNat = 15 then s.waitToken a.toNat
    else .next (s.setToken a.toNat (s.h.token a.toNat + 1)).passWait
  else s.issue ((encSR 42#6 0#5 0#5 a 0#5 0#4).setWidth 64) (.tkpost a)

/-- R187: the scalar consumer waits for a token; the others go through the queue. -/
def execTkwait (a : Reg) (s : State) : Out :=
  if a = 2 ∨ a = 4 then
    if s.h.token a.toNat = 0 then s.waitToken a.toNat
    else .next (s.take a.toNat).passWait
  else s.issue ((encSR 42#6 1#5 0#5 a 0#5 0#4).setWidth 64) (.tkwait a)

/-- R181. -/
def execLpinfo (d : Reg) (s : State) : Out :=
  let c := s.core (coreOf s.h.key)
  s.result d (c.lprNext ++ c.lprCur)

/-- Where member `m` of the current hart's gang stands; its own place for a hart of no gang (log 3). -/
def State.memberKey (s : State) (m : Nat) : HartKey :=
  match s.h.gang with
  | some g => match (s.members g).find? (·.member == m) with
    | some h => h.key
    | none => s.h.key
  | none => s.h.key

/-- R181. -/
def execGangid (d a : Reg) (s : State) : Out :=
  let m := field (s.rd a) 0 4
  if field (s.rd a) 4 60 ≠ 0 ∨ s.h.gangSize - 1 < m then s.opnd (s.rd a) 1
  else s.result d (hartidWord s.pkg (s.memberKey m))

/-- Whether position `c` of a flue receives embers. -/
def State.embers (s : State) (f : FlueKey) (dm : Bool) (c : Nat) : Bool :=
  (s.core ⟨dm, f.die, f.clu, 4 * f.flue + c⟩).emberRate != 0

/-- R244. -/
def execFluest (d : Reg) (s : State) : Out :=
  let f := s.ownFlue s.h
  let w := (s.flue f).read 0x120
  let emb := (upFrom 0 4).foldl (fun a c => a + b2n (s.embers f false c) * 2 ^ (36 + c)) 0
  s.result d (BitVec.ofNat 64 (natBits w 0 32 + natBits w 40 1 * 2 ^ 32 + emb))

/-- The measured class of a core (R243): its mean non-ember draw over the windows, at most 16, that have ended since module reset
or since its flue last reached ON. -/
def State.measured (s : State) (k : CoreKey) : Nat :=
  let n := min 16 (s.windows - (if k.dm then 0 else (s.flue (flueOf k)).since))
  if n = 0 then 0 else min 7 (((s.core k).history.take n).sum / (64 * 24 * (n : Rat))).floor.toNat

/-- R244. -/
def execCurcls (d a : Reg) (s : State) : Out :=
  let r := field (s.rd a) 0 4
  if field (s.rd a) 4 60 ≠ 0 ∨ (8 ≤ r ∧ r ≤ 14) then s.opnd (s.rd a) 1
  else
    let t : State := match s.h.gang with
      | some g => if r < 8 then s.setGang g fun x => { x with cls := r } else s
      | none => s
    let cls := match t.myGang with
      | some g => g.cls
      | none => Config.noGangClass.toNat
    t.result d (BitVec.ofNat 64 (cls + s.measured (coreOf s.h.key) * 2 ^ 8))

end Sys2Proof.Machine
end

