-- ==== Sys2Proof/Machine/Events.lean ====
section
/-! DEFINITION. Steps of one hart that no word encodes (R34, R60, R69, R100, R169, R177, R184, R226, R322). -/

namespace Sys2Proof.Machine

/-- Whether a `WFE` waits. -/
def Hart.inWfe (h : Hart) : Bool := match h.wait with
  | .wfe _ => true
  | _ => false

/-- Whether the current hart stands at a boundary where only an event could come before its next instruction. -/
def State.quiet (s : State) : Bool :=
  s.h.run == .running && !s.amCancelled && !(s.amFelled && !s.h.yld) && !s.stopsNow && s.h.atBoundary && !s.h.inWfe

/-- R34. -/
def execEventTrap (s : State) : Out := .next (if s.quiet && s.h.eventDue && !s.atFellingPoint then s.eventTrap else s)

/-- R34. -/
def execTimerCompare (s : State) : Out := .next s.timerCheck

/-- The current hart's `WFE` completes where an event is set. -/
def State.tryWake (s : State) : State := match s.h.wait with
  | .wfe d => if s.h.event = 0 then s else s.wakeWfe d
  | _ => s

/-- R100. -/
def execWfeWake (h : HartKey) (s : State) : Out := .next (s.onHart h State.tryWake)

/-- The current hart's barrier wait ends where its generation is over. -/
def State.tryRelease (s : State) : State := match s.h.wait, s.myGang with
  | .gangBarrier d, some g => if s.h.pv && s.h.pg != g.gen then s.barrierDone g d else s
  | _, _ => s

/-- R226. -/
def execGangBarrierRelease (h : HartKey) (s : State) : Out := .next (s.onHart h State.tryRelease)

/-- R177. -/
def execViqDispatch (h : HartKey) (s : State) : Out := .next (s.onHart h fun s => s.settled.dispatchNext)

/-- The current hart's oldest entry retires where it is dispatched; a post of its stream holds it no more. -/
def State.tryRetire (s : State) : State := match s.h.head with
  | some e => if e.dispatched then s.finish e true else s
  | none => s

/-- R184, R185: the lane named, if any, computed its unit wrong. -/
def execVectorRetire (h : HartKey) (mismatch : Option (BitVec 6)) (s : State) : Out :=
  .next (s.onHart h fun s => match mismatch with
    | none => s.settled.tryRetire
    | some lane => s.settled.laneError lane)

/-- The current hart stops where it was asked to. -/
def State.tryStop (s : State) : State :=
  if s.stopsNow && !s.amCancelled && !s.amFelled && s.h.atBoundary then s.stopAny else s

/-- R169, R267. -/
def execHartStop (h : HartKey) (s : State) : Out := .next (s.onHart h State.tryStop)

/-- Whether a felled hart ends at this boundary: any in ANY mode, a `YIELDPT` in EXPLICIT mode (R321, R322). -/
def Hart.canFell (h : Hart) : Bool := !h.yld || (match h.wait with
  | .yieldpt _ _ => true
  | _ => false)

/-- R322. -/
def execHartFelled (h : HartKey) (s : State) : Out :=
  .next (s.onHart h fun s => if s.amFelled && s.h.canFell then s.fellHere true else s)

/-- R69. -/
def execEncodingNotInstruction (w : Word) (s : State) : Out := s.illop w

/-- R60: `TVAL` holds the first parcel that could not be fetched. -/
def execInstructionFetchFault (addr tinfo : Word) (s : State) : Out := .next (s.trapHere Cause.page addr tinfo)

end Sys2Proof.Machine
end

