-- ==== Sys2Proof/Machine/GroveClose.lean ====
section
/-! DEFINITION. Returning page lists and closing a grove (R323 to R326). -/

namespace Sys2Proof.Machine

/-- Reads one doubleword for the ballot unit. -/
def agentWord (c : Ctx) (a : Word) : M Nat := do return ofBytes (← agentLoad c a 8)

/-- Reads a list's header: pool and count; stops where it cannot be read or `COUNT` is malformed (R316, R323). -/
def listHeader (c : Ctx) (a : Word) : M (Word × Nat) := do
  let pool ← agentWord c a
  let n ← agentWord c (a + 8)
  if 512 < n then throw (.link a)
  return (BitVec.ofNat 64 pool, n)

/-- Whether a pool homes on this package (R354). -/
def poolHere (c : Ctx) (pool : Word) : M Bool := do
  let x ← agentXlat c pool .load 3
  return pkgOf x.key == (← get).pkg

/-- Returns one entry; false where the pool is full, a stop where the entry or the pool is unreadable or malformed (R323). -/
def returnEntry (c : Ctx) (pool a : Word) (linked : Bool) : M Bool := do
  let page ← agentWord c a
  if page % 4096 ≠ 0 then throw (.link a)
  if linked && !(← poolHere c pool) then throw (.link pool)
  let tail ← agentWord c pool
  let head ← agentWord c (pool + 8)
  let ring ← agentWord c (pool + 16)
  let lg ← agentWord c (pool + 24)
  if lg < 3 ∨ 20 < lg ∨ ring % 64 ≠ 0 then throw (.link pool)
  if 2 ^ lg ≤ (tail + 2 ^ 64 - head) % 2 ^ 64 then return false
  agentStore c (BitVec.ofNat 64 (ring + 8 * (tail % 2 ^ lg))) (toBytes 8 page)
  agentStore c pool (toBytes 8 (tail + 1))
  return true

/-- Returns entries from `e` on: those returned and those kept. Structural on how many are left. -/
def State.returnEntries (s : State) (c : Ctx) (pool list : Word) (linked : Bool) (e : Nat) : Nat → (Nat × Nat) × State
  | 0 => ((0, 0), s)
  | n + 1 =>
    match (returnEntry c pool (list + BitVec.ofNat 64 (16 + 8 * e)) linked).on s with
    | (.error _, t) => ((0, n + 1), t)
    | (.ok ok, t) =>
      let (r, u) := State.returnEntries t c pool list linked (e + 1) n
      ((r.1 + b2n ok, r.2 + b2n (!ok)), u)

/-- Returns a page list of a member of a launch (R323): entries returned and kept. -/
def State.returnPages (s : State) (l : Launch) (a : Word) : (Nat × Nat) × State :=
  let c := l.ctx l.die
  match (listHeader c a).on s with
  | (.error _, t) => ((0, 0), t)
  | (.ok (pool, n), t) => t.returnEntries c pool a (natBits l.glink 63 1 == 1) 0 n

/-- Returns a page list, counting in a grove homed here (R323). -/
def State.returnList (s : State) (l : Launch) (slot : Nat) (a : Word) : State :=
  let (r, u) := s.returnPages l a
  u.setGrove slot fun g => { g with returned := g.returned + r.1, notReturned := g.notReturned + r.2 }

/-- The launch on this package that holds member `i` of a grove homed here. -/
def State.launchWith (s : State) (slot i : Nat) : Option Launch :=
  s.launches.find? fun l => match l.grove with
    | some (hp, sl, first) => hp == s.pkg && sl == slot && decide (first ≤ i) && decide (i < first + l.record.ngang)
    | none => false

/-- Returns a member's private list. -/
def State.returnPrivate (s : State) (slot i : Nat) : State :=
  match s.groveAt slot with
  | none => s
  | some g =>
    match g.members[i]? with
    | some m =>
      match m.priv, s.launchWith slot i with
      | some a, some l =>
        if m.returned then s
        else (s.returnList l slot a).setGrove slot (·.setMember i fun m => { m with returned := true })
      | _, _ => s
    | none => s

/-- Whether engines still work for a gang. -/
def State.gangEngines (s : State) (g : Option Nat) : Bool := s.cmds.any fun c => c.gang.isSome && c.gang == g && c.record.isNone

/-- Whether a felled member's list may return: its gang has left by felling and its engine commands have ended (R323). -/
def State.mayReturn (s : State) (slot i : Nat) : Bool :=
  match s.groveAt slot with
  | none => false
  | some g => match g.members[i]? with
    | some m => m.felled && m.gone && !s.gangEngines m.gang
    | none => false

/-- Felled members whose private lists this package's ballot unit has still to return. -/
def State.listsDue (s : State) (g : Grove) : List Nat :=
  (g.indices fun m => m.felled && m.priv.isSome && !m.returned).filter fun i => (s.launchWith g.slot i).isSome

/-- Returns a list that a member standing here registered with a ballot unit elsewhere; the counts travel to it (R354). -/
def State.returnRemote (s : State) (r : RemoteList) : State :=
  let s1 : State := { s with remoteLists := s.remoteLists.filter (· != r) }
  match s.launchOf r.launch with
  | some l => (s1.returnPages l r.addr).2
  | none => s1

/-- Private lists of felled members that stand here of groves homed elsewhere, ready to return. -/
def State.remoteDue (s : State) (slot i : Nat) : List RemoteList :=
  s.remoteLists.filter fun r => r.slot == slot && r.member == i && !r.shared && r.felled && !s.gangEngines (some r.gang)

/-- R323: by the ballot unit of the package where the member stands (R354). -/
def execPageListReturn (slot member : Nat) (s : State) : Out :=
  .next (if s.mayReturn slot member then s.returnPrivate slot member else (s.remoteDue slot member).foldl State.returnRemote s)

/-- A grove homed elsewhere closes (R324, R354): the lists still registered here return in ascending member index, the shared one last
where it is the last of its kind, and the launches may complete. -/
def State.closeAway (s : State) (hpkg slot : Nat) (shared : Bool) : State :=
  let mine := s.remoteLists.filter fun r => r.hpkg == hpkg && r.slot == slot
  let order := ((upFrom 0 64).flatMap fun i => mine.filter fun r => !r.shared && r.member == i) ++ mine.filter fun r => r.shared && shared
  let s1 : State := order.foldl State.returnRemote s
  { s1 with
    remoteLists := s1.remoteLists.filter fun r => !(r.hpkg == hpkg && r.slot == slot)
    felledAway := s1.felledAway.filter fun f => !(f.1 == hpkg && f.2.1 == slot)
    launches := s1.launches.map fun l => match l.grove with
      | some (hp, sl, _) => if hp == hpkg && sl == slot then { l with closed := true } else l
      | none => l }

/-- The grove record from byte 8 of the save area on (R325, R326). -/
def Grove.record (g : Grove) : List Byte :=
  let cap (n x : Nat) : Nat := min x (2 ^ n - 1)
  let (hash, how) := match g.winner with
    | some (h, _, _, how) => (h.toNat, how)
    | none => (0, 0)
  let felled := (g.indices (·.felled)).foldl (fun a i => a + 2 ^ i) 0
  toBytes 8 hash ++ toBytes 8 ((g.word g.n).toNat + how * 2 ^ 56) ++ toBytes 8 felled ++ toBytes 8 (cap 64 g.units) ++
    toBytes 8 (cap 64 g.lcyc) ++ toBytes 8 (cap 64 (g.charge * 5 / 2048)) ++
    toBytes 8 (cap 32 g.discarded + cap 16 g.returned * 2 ^ 32 + cap 16 g.notReturned * 2 ^ 48)

/-- A slot is free again, and the grove's launches here may complete. -/
def State.freeSlotOf (s : State) (slot : Nat) : State :=
  { s with
    groves := s.groves.filter (·.slot != slot)
    launches := s.launches.map fun l => match l.grove with
      | some (hp, sl, _) => if hp == s.pkg && sl == slot then { l with closed := true } else l
      | none => l }

/-- The steps of R324: the returns under way end first; then the remaining private lists, the shared list, the record; and the slot is
free. -/
def State.closeGrove (s : State) (g : Grove) : State :=
  let s0 : State := (s.listsDue g).foldl (fun s i => s.returnPrivate g.slot i) s
  let s1 : State := (upFrom 0 g.n).foldl (fun s i => s.returnPrivate g.slot i) s0
  match s1.launchOf g.launch with
  | none => s1.freeSlotOf g.slot
  | some l =>
    let s2 : State := match g.shared with
      | some (i, a) => match s1.launchWith g.slot i with
        | some l => s1.returnList l g.slot a
        | none => s1
      | none => s1
    let g2 := (s2.groveAt g.slot).getD g
    (s2.tries (agentStore (l.ctx l.die) (l.record.save + 8) g2.record)).2.freeSlotOf g.slot

/-- Whether a member is done with its grove: its gang has left, or it is felled and belongs to a launch not yet taken (R354). -/
def State.memberDone (s : State) (g : Grove) (i : Nat) : Bool :=
  match g.members[i]? with
  | some m => m.gone || (g.felled.contains i && !m.taken && (s.launchWith g.slot i).isNone)
  | none => true

/-- R324, R354: once every member has left or been felled, and every return under R323 can be made. -/
def execGroveClose (slot : Nat) (s : State) : Out :=
  .next (match s.groveAt slot with
    | some g => if (upFrom 0 g.n).all (s.memberDone g) && (s.listsDue g).all (s.mayReturn slot) then s.closeGrove g else s
    | none => s)

end Sys2Proof.Machine
end

