-- ==== Sys2Proof/Machine/LoadStore.lean ====
section
/-! DEFINITION. Scalar loads and stores, atomics, acquire and release accesses, fences (R87 to R93). Acquire and release
order nothing more than the steps do: what commits before its accesses are performed is in `Late` (R139, log 10). -/

namespace Sys2Proof.Machine

/-- A load: `f` widens what was read (R87). -/
def State.loadTo (s : State) (d : Reg) (va : Word) (lg : Nat) (f : Nat → Word) : Out :=
  s.run do
    let x ← loadScalar va lg
    wrM d (f x)
    advM 4

/-- A store of a register's low bytes (R87). -/
def State.storeFrom (s : State) (va : Word) (lg : Nat) (v : Word) : Out :=
  s.run do
    storeScalar va lg (v.toNat % 2 ^ (8 * 2 ^ lg))
    advM 4

/-- The address of an SM form (R87). -/
def State.ea (s : State) (a : Reg) (i : BitVec 11) : Word := s.rd a + i.signExtend 64

/-- A value read as `w` bits, sign-extended. -/
def sextTo (w x : Nat) : Word := (BitVec.ofNat w x).signExtend 64

/-- R87. -/
def execLb (d a : Reg) (i : BitVec 11) (s : State) : Out := s.loadTo d (s.ea a i) 0 (sextTo 8)
/-- R87. -/
def execLh (d a : Reg) (i : BitVec 11) (s : State) : Out := s.loadTo d (s.ea a i) 1 (sextTo 16)
/-- R87. -/
def execLw (d a : Reg) (i : BitVec 11) (s : State) : Out := s.loadTo d (s.ea a i) 2 (sextTo 32)
/-- R87. -/
def execLd (d a : Reg) (i : BitVec 11) (s : State) : Out := s.loadTo d (s.ea a i) 3 (BitVec.ofNat 64)
/-- R87. -/
def execLbz (d a : Reg) (i : BitVec 11) (s : State) : Out := s.loadTo d (s.ea a i) 0 (BitVec.ofNat 64)
/-- R87. -/
def execLhz (d a : Reg) (i : BitVec 11) (s : State) : Out := s.loadTo d (s.ea a i) 1 (BitVec.ofNat 64)
/-- R87. -/
def execLwz (d a : Reg) (i : BitVec 11) (s : State) : Out := s.loadTo d (s.ea a i) 2 (BitVec.ofNat 64)
/-- R87. -/
def execSb (d a : Reg) (i : BitVec 11) (s : State) : Out := s.storeFrom (s.ea a i) 0 (s.rd d)
/-- R87. -/
def execSh (d a : Reg) (i : BitVec 11) (s : State) : Out := s.storeFrom (s.ea a i) 1 (s.rd d)
/-- R87. -/
def execSw (d a : Reg) (i : BitVec 11) (s : State) : Out := s.storeFrom (s.ea a i) 2 (s.rd d)
/-- R87. -/
def execSd (d a : Reg) (i : BitVec 11) (s : State) : Out := s.storeFrom (s.ea a i) 3 (s.rd d)

/-! ### Atomics (R90, R91) -/

/-- Operations of R90 on `w`-bit patterns: old value, operand, compare value; none where nothing is written. -/
def amoOp (op w : Nat) (x b cmp : Nat) : Option Nat :=
  match op with
  | 0 => some b
  | 1 => some ((x + b) % 2 ^ w)
  | 2 => some (x &&& b)
  | 3 => some (x ||| b)
  | 4 => some (x ^^^ b)
  | 5 => some (if sext x w ≤ sext b w then x else b)
  | 6 => some (if sext x w ≤ sext b w then b else x)
  | _ => if x = cmp then some b else none

/-- A 64-bit atomic with order bits `o` at scope `c`: bit 1 is the release (R90, R91). -/
def State.amo (s : State) (op : Nat) (d a b : Reg) (c : BitVec 4) (o : BitVec 2) : Out :=
  s.acked c.toNat (o.getLsbD 1) false <| s.run do
    let x ← atomicScalar (s.rd a) 3 fun x => amoOp op 64 x (s.rd b).toNat (s.rd d).toNat
    wrM d (BitVec.ofNat 64 x)
    advM 4

/-- A 32-bit atomic on the low halves. -/
def State.amow (s : State) (op : Nat) (d a b : Reg) (c : BitVec 4) (o : BitVec 2) : Out :=
  s.acked c.toNat (o.getLsbD 1) false <| s.run do
    let x ← atomicScalar (s.rd a) 2 fun x => amoOp op 32 x ((s.rd b).toNat % 2 ^ 32) ((s.rd d).toNat % 2 ^ 32)
    wrM d (sextTo 32 x)
    advM 4

/-- R90. -/
def execAmoswap (d a b : Reg) (c : BitVec 4) (o : BitVec 2) (s : State) : Out := s.amo 0 d a b c o
/-- R90. -/
def execAmoadd (d a b : Reg) (c : BitVec 4) (o : BitVec 2) (s : State) : Out := s.amo 1 d a b c o
/-- R90. -/
def execAmoand (d a b : Reg) (c : BitVec 4) (o : BitVec 2) (s : State) : Out := s.amo 2 d a b c o
/-- R90. -/
def execAmoor (d a b : Reg) (c : BitVec 4) (o : BitVec 2) (s : State) : Out := s.amo 3 d a b c o
/-- R90. -/
def execAmoxor (d a b : Reg) (c : BitVec 4) (o : BitVec 2) (s : State) : Out := s.amo 4 d a b c o
/-- R90. -/
def execAmomin (d a b : Reg) (c : BitVec 4) (o : BitVec 2) (s : State) : Out := s.amo 5 d a b c o
/-- R90. -/
def execAmomax (d a b : Reg) (c : BitVec 4) (o : BitVec 2) (s : State) : Out := s.amo 6 d a b c o
/-- R90. -/
def execAmocas (d a b : Reg) (c : BitVec 4) (o : BitVec 2) (s : State) : Out := s.amo 7 d a b c o
/-- R90. -/
def execAmowswap (d a b : Reg) (c : BitVec 4) (o : BitVec 2) (s : State) : Out := s.amow 0 d a b c o
/-- R90. -/
def execAmowadd (d a b : Reg) (c : BitVec 4) (o : BitVec 2) (s : State) : Out := s.amow 1 d a b c o
/-- R90. -/
def execAmowand (d a b : Reg) (c : BitVec 4) (o : BitVec 2) (s : State) : Out := s.amow 2 d a b c o
/-- R90. -/
def execAmowor (d a b : Reg) (c : BitVec 4) (o : BitVec 2) (s : State) : Out := s.amow 3 d a b c o
/-- R90. -/
def execAmowxor (d a b : Reg) (c : BitVec 4) (o : BitVec 2) (s : State) : Out := s.amow 4 d a b c o
/-- R90. -/
def execAmowmin (d a b : Reg) (c : BitVec 4) (o : BitVec 2) (s : State) : Out := s.amow 5 d a b c o
/-- R90. -/
def execAmowmax (d a b : Reg) (c : BitVec 4) (o : BitVec 2) (s : State) : Out := s.amow 6 d a b c o
/-- R90. -/
def execAmowcas (d a b : Reg) (c : BitVec 4) (o : BitVec 2) (s : State) : Out := s.amow 7 d a b c o

/-! ### Acquire, release, fences (R92, R93) -/

/-- R92. -/
def execLda (d a : Reg) (_ : BitVec 4) (s : State) : Out := s.loadTo d (s.rd a) 3 (BitVec.ofNat 64)
/-- R92. -/
def execLwa (d a : Reg) (_ : BitVec 4) (s : State) : Out := s.loadTo d (s.rd a) 2 (sextTo 32)
/-- R92. -/
def execStl (a b : Reg) (c : BitVec 4) (s : State) : Out := s.acked c.toNat true false (s.storeFrom (s.rd a) 3 (s.rd b))
/-- R92. -/
def execSwl (a b : Reg) (c : BitVec 4) (s : State) : Out := s.acked c.toNat true false (s.storeFrom (s.rd a) 2 (s.rd b))
/-- R93: a fence is no instruction that passes an access, so every earlier one is performed as it runs. -/
def execFence (c : BitVec 4) (s : State) : Out := s.acked c.toNat true true (.next (s.adv 4))
/-- R93. -/
def execFenceSV (c : BitVec 4) (s : State) : Out := s.acked c.toNat true false (.next (s.adv 4))
/-- R93. -/
def execFenceVS (c : BitVec 4) (s : State) : Out := s.acked c.toNat false true (.next (s.adv 4))
/-- R93. -/
def execFenceVV (c : BitVec 4) (s : State) : Out := s.acked c.toNat false true (.next (s.adv 4))
/-- R93. -/
def execFenceSS (c : BitVec 4) (s : State) : Out := s.acked c.toNat true false (.next (s.adv 4))
/-- R93: each instruction is fetched as it runs, so nothing fetched before is held. -/
def execFenceI (s : State) : Out := .next (s.adv 4)

end Sys2Proof.Machine
end

