-- ==== Sys2Proof/Machine/Storage.lean ====
section
/-! DEFINITION. Host writes of device memory, module reset, scrubbing, temperature, SRAM monitors and bit errors (R302 to
R308, R343). -/

namespace Sys2Proof.Machine

/-! ### Host writes (R303, R328) -/

/-- A host write of device memory that meets a queue's `TAIL` (R260, R329). -/
def State.hostTail (s : State) (a n die q : Nat) : State :=
  let t := (s.die die).lineAddr q
  if t + 8 ≤ a ∨ a + n ≤ t then s else s.hostWroteTail die q

/-- A host write of device memory at a local address, coded under each line's tag (R303). -/
def State.hostWrite (s : State) (a : Nat) (bytes : List Byte) : State :=
  let s1 : State := s.writeAt (s.localKey a) bytes none
  ((upFrom 0 4).flatMap fun d => (upFrom 0 64).map fun q => (d, q)).foldl (fun s p => s.hostTail a bytes.length p.1 p.2) s1

/-- R303, R328: HBM and the second tier are what the host's decoders cover. -/
def execHostMemWrite (pa : Nat) (bytes : List Byte) (s : State) : Out :=
  .next (if s.cxl256 && !bytes.isEmpty && inMemory pa && inMemory (pa + bytes.length - 1) then s.hostWrite pa bytes else s)

/-! ### Reset -/

/-- Whether a key belongs to what a reset leaves alone: the host window and other packages. -/
def State.outsideKey (s : State) (k : Nat) : Bool := decide (k < spadBase) && (pkgOf k != s.pkg || inHostWindow (k % 2 ^ 42))

/-- Memory after a reset: every line of this package zero under UNIFORM (R303). -/
def State.clearMemory (s : State) : Mem :=
  ⟨s.mem.cells.filter fun c => s.outsideKey c.1, s.mem.lines.filter fun l => s.outsideKey (l.1 * 64)⟩

/-- The module reset: the state of `State.reset`, but for what stands outside it or in flash, what link training gave it, and
the model's own counters (log 5). -/
def State.moduleReset (s : State) : State :=
  { State.reset with
    mem := s.clearMemory
    badPages := s.badPages
    caphead := s.caphead
    pkg := s.pkg
    fabSize := s.fabSize
    agenda := s.agenda
    nextId := max s.nextId 4
    freeCount := s.freeCount }

/-- R303. -/
def execModuleReset (s : State) : Out := .next s.moduleReset

/-! ### Scrubbing and bit errors -/

/-- Whether a line is of this package's memory. -/
def State.ownLine (s : State) (line : Nat) : Bool := pkgOf (line * 64) == s.pkg && inMemory (line * 64 % 2 ^ 42)

/-- A scrub of a line: the read's correction or queueing, then the count since the last scrub is 0 (R304). -/
def State.scrubLine (s : State) (line : Nat) : State :=
  let t := s.readEffect line 1
  { t with mem := t.mem.setLine line { t.mem.line line with corr := 0 } }

/-- R304. -/
def execScrub (line : Nat) (s : State) : Out := .next (if s.ownLine line then s.scrubLine line else s)

/-- Whether a line is one of this module's scratchpads (R218). -/
def scratchpadLine (line : Nat) : Bool :=
  let k := line * 64 - spadBase
  decide (spadBase ≤ line * 64) && decide (k < 4 * 16 * 64 * 2 ^ 18) && decide (k / 2 ^ 18 % 64 < 48)

/-- One stored bit flips: a data bit in the stored bytes, and the record of what differs from the coded line (R301). -/
def Mem.flipStored (m : Mem) (line b : Nat) : Mem :=
  let l := m.line line
  let m1 : Mem := if b < 512 then m.store (line * 64) (flipBit (m.bytes (line * 64) 64) b) else m
  if 544 + parityBits l.tag ≤ b then m else m1.setLine line { l with flips := if l.flips.contains b then l.flips.erase b else l.flips ++ [b] }

/-- R218, R302: a bit the line's coding does not have flips nothing. -/
def execStorageBitError (line : Nat) (bits : List Nat) (s : State) : Out :=
  .next (if s.ownLine line || scratchpadLine line then { s with mem := bits.foldl (fun m b => m.flipStored line b) s.mem } else s)

/-! ### Temperature and voltage -/

/-- `MTHERM.STATE` after a sample (R308): it rises at a threshold and falls a step 3 °C below the one that raised it. -/
def thermState (st temp : Nat) : Nat :=
  if 95 ≤ temp then 2
  else if st = 2 then (if temp ≤ 92 then 1 else 2)
  else if 85 ≤ temp then 1
  else if st = 1 ∧ 82 < temp then 1
  else 0

/-- A sample of a stack's hottest layer; at 105 °C the module shuts down and memory is lost (R308). -/
def State.thermal (s : State) (stack layer temp : Nat) : State :=
  let t : State := s.setCtl (stack / 3) (stack % 3) fun c => { c with tState := thermState c.tState temp, tLayer := layer, tTemp := temp }
  if 105 ≤ temp then { t with shut := true, mem := t.clearMemory } else t

/-- R308: a sample of a layer or a temperature that the register cannot show is none. -/
def execThermalSample (stack layer temp : Nat) (s : State) : Out :=
  .next (if stack < 12 ∧ layer ≤ 20 ∧ temp < 256 then s.thermal stack layer temp else s)

/-- R343: bit `dom` of `UVPIN`, 16 for the die's other SRAM. -/
def execSramMonitorCrossing (die dom : Nat) (s : State) : Out :=
  .next (s.setDie die fun d =>
    let v := (d.sram[dom]?).getD 0 + 1
    { d with uvpin := d.uvpin ||| BitVec.ofNat 17 (2 ^ dom), sram := d.sram.setIfInBounds dom v, pinned := d.pinned.setIfInBounds dom v })

end Sys2Proof.Machine
end

