-- ==== Sys2Proof/Machine/Fabric.lean ====
section
/-! DEFINITION. Links and requests of other modules (R274, R328, R345, R347, R349, R351, R354, R355). -/

namespace Sys2Proof.Machine

/-! ### Links -/

/-- R355: the port leaves `FABSTAT.UP`. -/
def execPortLinkFail (port : Nat) (s : State) : Out := .next { s with fabUp := s.fabUp &&& ~~~BitVec.ofNat 18 (2 ^ port) }

/-- R345: the port enters `FABSTAT.UP`. -/
def execFabricPortTrained (port : Nat) (s : State) : Out := .next { s with fabUp := s.fabUp ||| BitVec.ofNat 18 (2 ^ port) }

/-- R328. -/
def execCxlLinkTrained (flits256 : Bool) (s : State) : Out := .next { s with cxl256 := flits256 }

/-- Whether a launch of this package holds member `i` of a grove homed here. -/
def State.holdsMember (s : State) (slot i : Nat) : Bool :=
  s.launches.any fun l => match l.grove with
    | some (hp, sl, first) => hp == s.pkg && sl == slot && decide (first ≤ i) && decide (i < first + l.record.ngang)
    | none => false

/-- Members of a grove homed here that stand on a package (log 23). -/
def State.membersOn (s : State) (g : Grove) (p : Nat) : List Nat :=
  (upFrom 0 g.n).filter fun i => !s.holdsMember g.slot i && Config.memberPackage g.slot i == p

/-- A package becomes unreachable: members of groves homed here that stand on it count as left (R355). -/
def State.loseBallots (s : State) (p : Nat) : State :=
  s.groves.foldl (fun s g => (s.membersOn g p).foldl (fun s i => s.ballot g.slot (·.markGone i .killed)) s) s

/-- R355. -/
def execPackageUnreachable (p : Nat) (s : State) : Out :=
  .next (if p = s.pkg then s
    else ({ s with unreachable := s.unreachable.filter (· != p) ++ [p] } : State).loseBallots p)

/-- R355. -/
def execPathAnswersAgain (p : Nat) (s : State) : Out := .next { s with unreachable := s.unreachable.filter (· != p) }

/-- Whether a gang stands across a link from the die of its launch's queue. -/
def State.across (s : State) (d e : Nat) (g : Gang) : Bool := match s.launchOf g.launch with
  | some l => (l.die == d && g.die == e) || (l.die == e && g.die == d)
  | none => false

/-- The link between two dies fails (R274): a gang across it counts as killed however it ends; one stopped there with its
partition live can never be restored and is killed at once (log 25). -/
def State.dieLinkFail (s : State) (d e : Nat) : State :=
  let s1 : State := { s with
    deadLinks := (s.deadLinks.filter (· != (min d e, max d e))) ++ [(min d e, max d e)]
    gangs := s.gangs.map fun g => if s.across d e g && (g.resident || !g.deadSpad) then { g with leave := some .killed } else g }
  (s1.gangs.filter fun g => s1.across d e g && !g.resident && !g.deadSpad).foldl (fun s g => s.leaveGang g.id .killed) s1

/-- R274. -/
def execDieLinkFail (d e : Nat) (s : State) : Out :=
  .next (if d < 4 ∧ e < 4 ∧ d ≠ e then s.dieLinkFail d e else s)

/-! ### Requests of other modules -/

/-- A remote atomic at its home (R91, R347): on a line read SEV2 it changes no memory (R89). -/
def State.remoteAtomic (s : State) (op : BitVec 3) (addr width : Nat) (operand compare : Word) (nl : Nat) : State :=
  let w := 8 * width
  let (bs, sev, t) := s.readAt (s.localKey addr) width
  if sev = 2 then t
  else match amoOp op.toNat w (ofBytes bs) (operand.toNat % 2 ^ w) (compare.toNat % 2 ^ w) with
  | some y => t.writeAt (s.localKey addr) (toBytes width y) (some nl)
  | none => t

/-- A remote scatter-add update at its home (R151, R152, R347): a poisoned line or sum leaves it poisoned. -/
def State.remoteUpdate (s : State) (addr width : Nat) (sum : Word) (float : Option (BitVec 2 × BitVec 2)) (nl : Nat) (poison : Bool) : State :=
  let (bs, sev, t) := s.readAt (s.localKey addr) width
  let y := match float with
    | some (rm, fz) => ((if width = 2 then fmtF16 else fmtF32).fadd ⟨rmodeOf rm.toNat, fz.toNat⟩ (ofBytes bs) sum.toNat).1
    | none => (ofBytes bs + sum.toNat) % 2 ^ (8 * width)
  t.writeAt (s.localKey addr) (toBytes width y) (some nl) (poison || sev == 2)

/-- Adds the counts that another package gathered for a grove homed here (R354). -/
def Grove.addCounts (g : Grove) (c : GroveCounts) : Grove :=
  { g with
    units := g.units + c.units, lcyc := g.lcyc + c.lcyc, charge := g.charge + c.charge
    discarded := g.discarded + c.discarded, returned := g.returned + c.returned, notReturned := g.notReturned + c.kept }

/-- A home elsewhere sends felling (R354): it strikes the members that stand here, and is kept for those that join later. -/
def State.felledFrom (s : State) (hpkg gid : Nat) (felled : List Nat) : State :=
  ({ s with felledAway := s.felledAway.filter (fun f => !(f.1 == hpkg && f.2.1 == gid)) ++ [(hpkg, gid, felled)] } : State).applyFelling
    hpkg gid felled

/-- Performs a request at this home. -/
def State.serveRequest (s : State) : FabricRequest → State
  | .read addr len => (s.readAt (s.localKey addr) len).2.2
  | .write addr bytes nl poison => s.writeAt (s.localKey addr) bytes (some nl.toNat) poison
  | .atomic op addr width operand compare nl => s.remoteAtomic op addr width operand compare nl.toNat
  | .update addr width sum float nl poison => s.remoteUpdate addr width sum float nl.toNat poison
  | .ask slot first n => s.setGrove slot fun g => (upFrom first n).foldl (fun g i => g.setMember i ({ · with taken := true })) g
  | .bjoin slot i shared a => s.ballot slot fun g => (g.bjoin i shared a).2
  | .closed hpkg gid shared => if hpkg = s.pkg then s else s.closeAway hpkg gid shared
  | .post slot i hash => s.ballot slot fun g => (g.bpost i hash).2
  | .leave slot i => s.ballot slot (·.bleave i)
  | .gone slot i felled c => (s.ballot slot (·.markGone i (if felled then .felled else .ended))).setGrove slot (·.addCounts c)
  | .fell hpkg gid felled => if hpkg = s.pkg then s else s.felledFrom hpkg gid felled
  | .join tag rank word0 n root list data => { s with joins := s.joins ++ [⟨tag, rank, word0, n, root, list, data, none⟩] }

/-- Whether a request names memory of this package. -/
def lands : FabricRequest → Bool
  | .read a n => inMemory a && inMemory (a + n - 1)
  | .write a bs _ _ => inMemory a && inMemory (a + bs.length - 1)
  | .atomic _ a w _ _ _ => inMemory a && (w == 4 || w == 8) && a % w == 0
  | .update a w _ fl _ _ => inMemory a && [1, 2, 4, 8].contains w && a % w == 0 && (fl.isNone || w == 2 || w == 4)
  | _ => true

/-- R347. -/
def execFabricRequestArrival (r : FabricRequest) (s : State) : Out := .next (if lands r then s.serveRequest r else s)

end Sys2Proof.Machine
end

