-- ==== Sys2Proof/Machine/Gather.lean ====
section
/-! DEFINITION. The gather units (R309 to R311): probe of every unit, then the data in ascending unit order. -/

namespace Sys2Proof.Machine

/-- Bytes that lie in one line on both sides: the source, absent for zero padding, and the destination. -/
structure Piece where
  src : Option (Word × Xlat)
  dst : Word
  y : Xlat
  t : Option TlbEntry
  n : Nat
deriving DecidableEq, Repr

/-- Whether both homes of a destination answer (R311, R349). -/
def State.writable (s : State) (c : Ctx) (y : Xlat) : Bool :=
  s.reachable c.die y.key && !(y.mir && s.unreachable.contains (s.pkg ^^^ 1))

/-- Probes a destination. -/
def probeDst (c : Ctx) (dst : Word) : M (Xlat × Option TlbEntry) := do
  let (y, t) ← resolve c dst .store 0
  if !(← get).writable c y then throw (.link dst)
  return (y, t)

/-- Probes a source, never a scratchpad (R310). -/
def probeSrc (c : Ctx) (src : Word) : M Xlat := do
  if inWindow src then raise Cause.page src 0
  let (x, _) ← resolve c src .load 0
  if !(← get).reachable c.die x.key then throw (.link src)
  return x

/-- Probes a copy of `n` bytes. Structural on the pieces left. -/
def probeCopy (c : Ctx) : Nat → Word → Word → Nat → M (List Piece)
  | 0, _, _, _ => return []
  | f + 1, src, dst, n => do
    if n = 0 then return []
    let m := min n (min (64 - src.toNat % 64) (64 - dst.toNat % 64))
    let x ← probeSrc c src
    let (y, t) ← probeDst c dst
    sealCheck src x y
    return ⟨some (src, x), dst, y, t, m⟩ :: (← probeCopy c f (src + BitVec.ofNat 64 m) (dst + BitVec.ofNat 64 m) (n - m))

/-- Probes `n` bytes of zero padding. Structural on the pieces left. -/
def probeZero (c : Ctx) : Nat → Word → Nat → M (List Piece)
  | 0, _, _ => return []
  | f + 1, dst, n => do
    if n = 0 then return []
    let m := min n (64 - dst.toNat % 64)
    let (y, t) ← probeDst c dst
    return ⟨none, dst, y, t, m⟩ :: (← probeZero c f (dst + BitVec.ofNat 64 m) (n - m))

/-- Probes units in ascending order (R311): the lowest failing one ends the command. Structural on the units left. -/
def probeUnits (f : Nat → M (List Piece × Bool)) : Nat → Nat → EM (List (List Piece × Bool))
  | _, 0 => return []
  | u, n + 1 => do
    let ps ← accessing u (f u)
    return ps :: (← probeUnits f (u + 1) n)

/-- Lines that one group of units has read. -/
abbrev Seen := List (Nat × List Byte × Nat)

/-- Reads a line for an address in it, or takes it from those read for the same group (R312). -/
def seenLine (c : Ctx) (src : Nat) (a : Word) (x : Xlat) (seen : Seen) : M (List Byte × Nat × Seen) := do
  match seen.find? (·.1 == x.key / 64) with
  | some (_, bs, sev) => return (bs, sev, seen)
  | none => do
    let (bs, sev) ← fetchLine c a { x with key := x.key / 64 * 64 } 64 src
    return (bs, sev, (x.key / 64, bs, sev) :: seen)

/-- Reads a unit's pieces from source `src` of R306: bytes, whether a read delivered SEV1 data, and the lines read. -/
def readPieces (c : Ctx) (src : Nat) : Seen → List Piece → M (List (List Byte) × Bool × Seen)
  | seen, [] => return ([], false, seen)
  | seen, p :: t => match p.src with
    | none => do
      let (cs, b, seen) ← readPieces c src seen t
      return (List.replicate p.n 0 :: cs, b, seen)
    | some (a, x) => do
      let (bs, sev, seen) ← seenLine c src a x seen
      let (cs, b, seen) ← readPieces c src seen t
      return ((bs.drop (x.key % 64)).take p.n :: cs, b || sev == 1, seen)

/-- Writes a unit's pieces. -/
def putPieces (c : Ctx) : List (Piece × List Byte) → M Unit
  | [] => return ()
  | (p, bs) :: t => do
    dirtyM c p.dst p.t
    storeAt c p.dst p.y bs
    putPieces c t

/-- Moves one unit. -/
def moveUnit (c : Ctx) (seen : Seen) (ps : List Piece) : M (Bool × Seen) := do
  let (bs, b, seen) ← readPieces c 3 seen ps
  putPieces c (ps.zip bs)
  return (b, seen)

/-- Moves units in ascending order from `u` on, `g` to a group whose units share reads: whether any read delivered SEV1 data. -/
def moveUnits (c : Ctx) (g : Nat) : Nat → Seen → List (List Piece) → EM Bool
  | _, _, [] => return false
  | u, seen, ps :: t => do
    let (b, seen) ← accessing u (moveUnit c (if u % g = 0 then [] else seen) ps)
    return b || (← moveUnits c g (u + 1) seen t)

/-- Probe, data, record (R310, R311). `d` says that the descriptor read SEV1, and `f` gives a unit's pieces and whether its entry of
`LIST` did. -/
def runGather (c : Ctx) (g count : Nat) (d : Bool) (f : Nat → M (List Piece × Bool)) : EM Verdict := do
  let us ← probeUnits f 0 count
  let b ← moveUnits c g 0 [] (us.map (·.1))
  return ⟨0, count % 2 ^ 31 + b2n (d || b || us.any (·.2)) * 2 ^ 31, none⟩

/-- One unit of `PGATHER` (R310). -/
def pgatherUnit (c : Ctx) (list dst off pitch : Word) (len u : Nat) : M (List Piece × Bool) := do
  let (bs, b) ← readChecked c 3 1 (list + BitVec.ofNat 64 (8 * u)) 8
  let p := BitVec.ofNat 64 (ofBytes bs)
  if p = 0 then return (← probeZero c len (rowAt dst pitch u) len, b) else return (← probeCopy c len (p + off) (rowAt dst pitch u) len, b)

/-- R310. -/
def guPgather (c : Cmd) : EM Verdict :=
  withSource c (field c.word0 8 24 == 0) fun d b => do
    let len := nth d 3 0
    need (nth d 5 0 == 0 && nth d 6 0 == 0 && decide (16 ≤ len) && decide (len ≤ 65536) && len % 16 == 0 && nth d 1 0 % 16 == 0 &&
      nth d 2 0 % 16 == 0 && nth d 4 0 % 16 == 0 && nth d 0 0 % 8 == 0)
    runGather c.ctx 1 (field c.word0 32 32) b (pgatherUnit c.ctx (dword d 0) (dword d 1) (dword d 2) (dword d 4) len)

/-- R310. -/
def execPgather (h : HartKey) (s : State) : Out := s.engineStep h 2 1 guPgather

/-- One unit of `IGATHER` (R310, R311): index width `iw` and element width `ew` in bytes. -/
def igatherUnit (c : Ctx) (list dst off : Word) (iw ew u : Nat) : M (List Piece × Bool) := do
  let (bs, b) ← readChecked c 3 1 (list + BitVec.ofNat 64 (iw * u)) iw
  let src := off + BitVec.ofNat 64 (ofBytes bs)
  let dest := dst + BitVec.ofNat 64 (ew * u)
  if src.toNat % ew ≠ 0 then raise Cause.align src 0
  if dest.toNat % ew ≠ 0 then raise Cause.align dest 0
  return (← probeCopy c ew src dest ew, b)

/-- R310. -/
def guIgather (c : Cmd) : EM Verdict :=
  let iw := 2 ^ (field c.word0 12 2 + 1)
  withSource c (field c.word0 14 18 == 0 && field c.word0 10 2 == 0 && field c.word0 12 2 != 3) fun d b => do
    need (nth d 3 0 == 0 && nth d 4 0 == 0 && nth d 5 0 == 0 && nth d 6 0 == 0 && nth d 0 0 % iw == 0)
    runGather c.ctx 16 (field c.word0 32 32) b (igatherUnit c.ctx (dword d 0) (dword d 1) (dword d 2) iw (2 ^ field c.word0 8 2))

/-- R310. -/
def execIgather (h : HartKey) (s : State) : Out := s.engineStep h 2 2 guIgather

end Sys2Proof.Machine
end

