-- ==== Sys2Proof/Machine/Launch.lean ====
section
/-! DEFINITION. The SCHED major and the scheduler's steps (R261, R263, R267, R272, R329, R330). -/

namespace Sys2Proof.Machine

/-- A queue operand: queue and die (R261). -/
def queueOf (b : Word) : Nat × Nat := (field b 0 6, field b 6 2)

/-- Appends a launch to a device queue (R261): what `LAUNCH` writes to D, or none while the journal has no room (R332). -/
def State.appendLaunch (s : State) (die q : Nat) (rec : Word) : Option (Word × State) :=
  if (s.die die).journal.isNone then some (-3, s)
  else match s.scan die q with
    | (none, t) => some (-2, t)
    | (some l, t) =>
      if !l.dev then some (-2, t)
      else if l.tail - l.head = 2 ^ l.log then some (-1, t)
      else match t.accept die q rec.toNat with
        | none => none
        | some (seq, u) =>
          let u1 := u.devPut die (l.ring + 8 * (l.tail % 2 ^ l.log)) rec.toNat
          some (BitVec.ofNat 64 seq, u1.devPut die ((u1.die die).lineAddr q) (l.tail + 1))

/-- R261, R331, R332. -/
def execLaunch (d a b : Reg) (s : State) : Out :=
  if (s.rd a).toNat % 64 ≠ 0 then s.opnd (s.rd a) 1
  else if field (s.rd b) 8 56 ≠ 0 then s.opnd (s.rd b) 2
  else
    let (q, die) := queueOf (s.rd b)
    match s.appendLaunch die q (s.rd a) with
    | some (v, t) => .next ((t.wr d v).passWait)
    | none => s.waitAt .launch

/-- Adds 1 to an event counter, saturating: the new value (R261). -/
def State.signal (s : State) (die e : Nat) : Nat × State :=
  let n := min ((s.die die).eventCount e + 1) (2 ^ 32 - 1)
  (n, s.setDie die fun d => { d with events := d.events.setIfInBounds e (BitVec.ofNat 32 n) })

/-- R261. -/
def execEvsig (d a : Reg) (s : State) : Out :=
  if field (s.rd a) 8 56 ≠ 0 then s.opnd (s.rd a) 1
  else
    let (n, t) := s.signal s.h.key.die (field (s.rd a) 0 8)
    t.result d (BitVec.ofNat 64 n)

/-- R261: waits until the counter is at least 1. -/
def execEvwait (d a : Reg) (s : State) : Out :=
  let e := field (s.rd a) 0 8
  let n := (s.die s.h.key.die).eventCount e
  if field (s.rd a) 8 56 ≠ 0 then s.opnd (s.rd a) 1
  else if n = 0 then s.waitAt .event
  else
    let t : State := s.setDie s.h.key.die fun d => { d with events := d.events.setIfInBounds e (BitVec.ofNat 32 (n - 1)) }
    .next ((t.wr d (BitVec.ofNat 64 n)).passWait)

/-- What `QINFO` writes of a line. -/
def QLine.info (l : QLine) : Word :=
  BitVec.ofNat 64 (min (l.tail - l.head) 0xFFFF + l.prio * 2 ^ 16 + b2n l.en * 2 ^ 19 + b2n l.dev * 2 ^ 20 + l.head % 2 ^ 32 * 2 ^ 32)

/-- R261. -/
def execQinfo (d a : Reg) (s : State) : Out :=
  let (q, die) := queueOf (s.rd a)
  if field (s.rd a) 8 56 ≠ 0 then s.opnd (s.rd a) 1
  else match s.qline die q with
    | (some l, t) => t.result d l.info
    | (none, t) => ({ t with freeCount := t.freeCount + 1 } : State).result d (Config.remoteReply t.freeCount)

/-! ### Steps -/

/-- R263. -/
def execSchedulerStep (die : Nat) (s : State) : Out := .next (s.schedulerStep die)

/-- R272. -/
def execLaunchCompletion (launch : Nat) (s : State) : Out := .next (s.complete launch)

/-- R329: the host raises a queue's `TAIL`; the scheduler sees it where the die has a journal. A link without 256-byte flits
carries no such write (R328). -/
def execHostQueueTailWrite (die q : Nat) (tail : Word) (s : State) : Out :=
  .next (if s.cxl256 then (s.devPut die ((s.die die).lineAddr q) tail.toNat).hostWroteTail die q else s)

/-- R330: the host writes `CANCEL` with `REQ` set. -/
def execHostCancelRequest (die q : Nat) (seq : Word) (s : State) : Out :=
  .next (if s.cxl256 then
      (s.devPut die ((s.die die).lineAddr q + 40) (2 ^ 63 + seq.toNat % 2 ^ 63)).serveCancel die q (seq.toNat % 2 ^ 63)
    else s)

end Sys2Proof.Machine
end

