-- ==== Sys2Proof/Machine/MarkEngine.lean ====
section
/-! DEFINITION. The mark stage (R335 to R337): `SEND` into the host window and `MARKCFG`. -/

namespace Sys2Proof.Machine

/-! ### SipHash-2-4 of an 8-byte message -/

/-- The four words of the hash's state. -/
structure Sip where
  a : BitVec 64
  b : BitVec 64
  c : BitVec 64
  d : BitVec 64
deriving DecidableEq, Repr

/-- One round. -/
def Sip.round (v : Sip) : Sip :=
  let a := v.a + v.b
  let b := v.b.rotateLeft 13 ^^^ a
  let a := a.rotateLeft 32
  let c := v.c + v.d
  let d := v.d.rotateLeft 16 ^^^ c
  let a := a + d
  let d := d.rotateLeft 21 ^^^ a
  let c := c + b
  let b := b.rotateLeft 17 ^^^ c
  ⟨a, b, c.rotateLeft 32, d⟩

/-- Takes one message word in. -/
def Sip.absorb (v : Sip) (m : BitVec 64) : Sip :=
  let v := ({ v with d := v.d ^^^ m } : Sip).round.round
  { v with a := v.a ^^^ m }

/-- `siphash_2_4` of a 128-bit key, its first doubleword low, and a message: 8 bytes while its value fits them, else 12 (log 30). -/
def siphash24 (key : BitVec 128) (m : Nat) : BitVec 64 :=
  let k0 : BitVec 64 := key.setWidth 64
  let k1 : BitVec 64 := (key >>> 64).setWidth 64
  let v : Sip := ⟨k0 ^^^ 0x736f6d6570736575, k1 ^^^ 0x646f72616e646f6d, k0 ^^^ 0x6c7967656e657261, k1 ^^^ 0x7465646279746573⟩
  let last : Nat := if m < 2 ^ 64 then 8 * 2 ^ 56 else 12 * 2 ^ 56 + m / 2 ^ 64 % 2 ^ 32
  let v := (v.absorb (BitVec.ofNat 64 m)).absorb (BitVec.ofNat 64 last)
  let v := ({ v with c := v.c ^^^ 0xff } : Sip).round.round.round.round
  v.a ^^^ v.b ^^^ v.c ^^^ v.d

/-! ### SEND (R335, R336) -/

/-- A `SEND`'s fields. -/
structure SendCmd where
  c : Ctx
  src : Word
  dst : Word
  width : Nat
  rows : Nat
  spitch : Word
  dpitch : Word
  frame : Word
  sfmt : Nat
  mark : Bool
  key : Option (BitVec 128)
deriving DecidableEq, Repr

/-- Bytes of one row: samples of the 10-bit form take two bytes. -/
def SendCmd.rowBytes (q : SendCmd) : Nat := if q.sfmt = 1 then 2 * q.width else q.width

/-- Whether a key lies in the host window of this package. -/
def State.hostKey (s : State) (k : Nat) : Bool := decide (k < spadBase) && pkgOf k == s.pkg && inHostWindow (k % 2 ^ 42)

/-- Whether sealed bytes may not be sent (R336). -/
def SendCmd.refusesSealed (q : SendCmd) : Bool := !q.mark || q.sfmt == 2 || q.key.isNone

/-- Probes a row (R336): NOTHOST ends the command; a sealed source ends it where it may not be sent. -/
def probeSend (q : SendCmd) : Nat → Nat → Word → Word → Nat → EM (List Piece)
  | 0, _, _, _, _ => return []
  | f + 1, r, src, dst, n => do
    if n = 0 then return []
    let m := min n (min (64 - src.toNat % 64) (64 - dst.toNat % 64))
    let x ← accessing r (probeSrc q.c src)
    let (y, t) ← accessing r (probeDst q.c dst)
    if !(← get).hostKey y.key then throw ⟨9, sat32 r, some dst⟩
    if x.isSealed && q.refusesSealed then throw ⟨3, sat32 r, some src⟩
    return ⟨some (src, x), dst, y, t, m⟩ :: (← probeSend q f r (src + BitVec.ofNat 64 m) (dst + BitVec.ofNat 64 m) (n - m))

/-- Probes rows from `r` on. Structural on the rows left. -/
def probeRows (q : SendCmd) : Nat → Nat → EM (List (List Piece))
  | _, 0 => return []
  | r, n + 1 => do
    let ps ← probeSend q q.rowBytes r (rowAt q.src q.spitch r) (rowAt q.dst q.dpitch r) q.rowBytes
    return ps :: (← probeRows q (r + 1) n)

/-- A marked sample (R336). -/
def markSample (q : SendCmd) (key : BitVec 128) (r x y : Nat) : Nat :=
  let h := siphash24 key (q.frame.toNat * 2 ^ 32 + r / 8 * 2 ^ 16 + x / 8)
  let lim := if q.sfmt = 1 then 1023 else 255
  let step := if q.sfmt = 1 then 4 else 1
  if h.getLsbD 0 then min (y + step) lim else y - step

/-- The bytes of a row as they leave; raw bytes carry no mark (log 30). -/
def markRow (q : SendCmd) (r : Nat) (bs : List Byte) : List Byte :=
  match q.mark, q.key with
  | true, some k =>
    if q.sfmt = 0 then bs.mapIdx fun x b => BitVec.ofNat 8 (markSample q k r x b.toNat)
    else if q.sfmt = 1 then ((chunks 2 bs.length bs).mapIdx fun x p => toBytes 2 (markSample q k r x (ofBytes p % 1024))).flatten
    else bs
  | _, _ => bs

/-- Bytes of a row cut at its pieces. -/
def cutPieces : List Piece → List Byte → List (Piece × List Byte)
  | [], _ => []
  | p :: t, bs => (p, bs.take p.n) :: cutPieces t (bs.drop p.n)

/-- Sends one row. -/
def sendRow (q : SendCmd) (r : Nat) (ps : List Piece) : M Unit := do
  let (bs, _, _) ← readPieces q.c 0 [] ps
  putPieces q.c (cutPieces ps (markRow q r bs.flatten))

/-- Sends rows in ascending order. -/
def sendRows (q : SendCmd) : Nat → List (List Piece) → EM Unit
  | _, [] => return ()
  | r, ps :: t => do
    accessing r (sendRow q r ps)
    sendRows q (r + 1) t

/-- Whether any source piece lies on a sealed page. -/
def anySealed (rows : List (List Piece)) : Bool := rows.any fun ps => ps.any fun p => match p.src with
  | some (_, x) => x.isSealed
  | none => false

/-- R336. -/
def egSend (c : Cmd) : EM Verdict :=
  let w := c.word0
  withDescriptor c (field w 16 48 == 0 && field w 11 1 == 0 && decide (field w 8 3 ≤ 2)) fun d => do
    need (natBits (nth d 2 0) 32 32 == 0 && nth d 6 0 == 0)
    let key := ((← get).keys[field w 12 3]?).join
    let q : SendCmd := ⟨c.ctx, dword d 0, dword d 1, natBits (nth d 2 0) 0 16, natBits (nth d 2 0) 16 16, dword d 3, dword d 4, dword d 5,
      field w 8 3, field w 15 1 == 1, key⟩
    let ps ← probeRows q 0 q.rows
    need (!(q.mark && key.isNone && !anySealed ps))
    sendRows q 0 ps
    return ⟨0, q.rows, none⟩

/-- R336. -/
def execSend (h : HartKey) (s : State) : Out := s.engineStep h 4 1 egSend

/-! ### MARKCFG (R337) -/

/-- Reads the key, writes zero over it and loads the slot. -/
def loadKey (c : Ctx) (a : Word) (slot : Nat) : M Unit := do
  let bs ← readBytes c 2 a 16
  writeBytes c 2 a (List.replicate 16 0)
  modify fun s => { s with keys := s.keys.setIfInBounds slot (some (BitVec.ofNat 128 (ofBytes bs))) }

/-- A stop of a command without a descriptor: no `FADDR`, and no value for `DETAIL` (log 26). -/
def accessingOpen {α : Type} (m : M α) : EM α := do
  match ← (ExceptT.mk do return .ok (← ExceptT.run m) : EM (Except Stop α)) with
  | .ok a => return a
  | .error e => endOpen e.status

/-- R337. -/
def egMarkcfg (c : Cmd) : EM Verdict := do
  let w := c.word0
  let clr := field w 11 1 == 1
  need (c.two && field w 12 52 == 0 && (!clr || c.word1 == 0))
  if !c.key.dm then endOpen 0x0A
  if clr then modify fun s => { s with keys := s.keys.setIfInBounds (field w 8 3) none }
  else accessingOpen (loadKey c.ctx c.word1 (field w 8 3))
  endOpen 0

/-- R337. -/
def execMarkcfg (h : HartKey) (s : State) : Out := s.engineStep h 4 2 egMarkcfg

end Sys2Proof.Machine
end

