-- ==== Sys2Proof/Machine/MatrixMode.lean ====
section
/-! DEFINITION. Entering and leaving matrix mode (R193). -/

namespace Sys2Proof.Machine

/-- Changes the mode; no tile grant survives (R193). -/
def State.setMode (s : State) (mm : Bool) : State :=
  { s with h := { s.h with mm := mm, mt := 0, nt := 0, kt := 0 } }

/-- R193. -/
def execMenter (s : State) : Out :=
  if s.h.mm then s.modeTrap ((encSR 44#6 0#5 0#5 0#5 0#5 0#4).setWidth 64) else .next ((s.setMode true).adv 4)

/-- R193. -/
def execMexit (s : State) : Out :=
  if s.h.mm then .next ((s.setMode false).adv 4) else s.modeTrap ((encSR 44#6 1#5 0#5 0#5 0#5 0#4).setWidth 64)

end Sys2Proof.Machine
end

