-- ==== Sys2Proof/Machine/Memx.lean ====
section
/-! DEFINITION. The MEMX major (R285 to R287). -/

namespace Sys2Proof.Machine

/-- The access kind of `PROBE`. -/
def kindOf (n : Nat) : Kind := match n with
  | 0 => .load
  | 1 => .store
  | 2 => .atomic
  | _ => .fetch

/-- The size code of a translation (R286). -/
def TlbEntry.sizeCode (t : TlbEntry) : Nat := match t.lg with
  | 16 => 1
  | 21 => 2
  | 30 => 3
  | _ => 0

/-- What `PROBE` writes for a translation (R286). -/
def TlbEntry.probed (t : TlbEntry) (va : Word) : Nat :=
  let bit (i : Nat) : Nat := natBits t.attrs i 1
  natBits t.dirty.toNat (t.page va) 1 * 2 ^ 60 + bit 5 * 2 ^ 59 + bit 4 * 2 ^ 58 + bit 3 * 2 ^ 57 + bit 2 * 2 ^ 56 + bit 1 * 2 ^ 55 +
    bit 13 * 2 ^ 54 + t.phys va % 2 ^ 54 / 2 ^ 12 * 2 ^ 12 + natBits t.attrs 8 4 * 2 ^ 8 + bit 12 * 2 ^ 7 +
    b2n t.stride.isSome * 2 ^ 6 + t.sizeCode * 2 ^ 4

/-- `STATUS` of a translation that stops (R286). -/
def Stop.probeStatus : Stop → Nat
  | .link _ => 8
  | .reread _ => 8
  | .trap c _ i => if c = Cause.sev2 then 7 else if field i 8 4 = 5 then 5 else field i 8 4 + 1

/-- The translation of a probe: held, or walked without installing anything. -/
def probeWalk (c : Ctx) (va : Word) (kind : Kind) : M Nat := do
  if !canonical va then raise Cause.page va (accessInfo kind 0 2)
  else if c.dm && field c.ptroot 12 30 == 0 then
    if 2 ^ 42 ≤ va.toNat then raise Cause.page va (accessInfo kind 0 0)
    if inNone va.toNat then raise Cause.page va (accessInfo kind 0 5)
    let k := (← get).pkg * 2 ^ 42 + va.toNat
    if !(← get).reachable c.die k then throw (.link va)
    return 7 * 2 ^ 55 + k / 2 ^ 12 * 2 ^ 12
  else
    let t ← match (← get).held c va with
      | some t => pure t
      | none => walk c va kind 0
    checkPerm c t va kind 0
    if !(← get).reachable c.die (t.phys va) then throw (.link va)
    return t.probed va

/-- R286: a probe leaves `WALKCNT` as it was. -/
def execProbe (d a b : Reg) (s : State) : Out :=
  let va := s.rd a
  if field (s.rd b) 2 62 ≠ 0 then s.opnd (s.rd b) 2
  else if inWindow va then s.result d 6
  else
    let (r, t) := (probeWalk s.h.ctx va (kindOf (field (s.rd b) 0 2))).on s
    let w := match r with
      | .ok w => w
      | .error e => e.probeStatus
    (t.setDie s.h.key.die fun x => { x with walkDisagree := (s.die s.h.key.die).walkDisagree }).result d (BitVec.ofNat 64 w)

/-- Every hart's committed accesses are performed, so that none uses a removed translation (R143, R287). -/
def State.settleAll (s : State) : State :=
  (s.harts.filter fun h => !h.late.isEmpty).foldl (fun s h => s.onHart h.key State.settled) s

/-- Removes translations from every core of the package (R287). -/
def State.invalidate (s : State) (sel : Word) (p : TlbEntry → Bool) : State :=
  let s : State := s.settleAll
  { s with cores := s.cores.map fun c => (c.1, { c.2 with tlb := c.2.tlb.filter fun t =>
      !((field sel 16 1 == 1 || t.asid.toNat == field sel 0 16) && p t) }) }

/-- R287. -/
def execTlbinv (a b : Reg) (s : State) : Out :=
  if !s.h.priv then s.privTrap ((encSR 50#6 1#5 0#5 a b 0#4).setWidth 64)
  else if !canonical (s.rd a) then s.opnd (s.rd a) 1
  else if field (s.rd b) 17 47 ≠ 0 then s.opnd (s.rd b) 2
  else .next ((s.invalidate (s.rd b) fun t => t.vbase == (s.rd a).toNat / 2 ^ t.lg * 2 ^ t.lg).adv 4)

/-- R287. -/
def execTlbinva (a : Reg) (s : State) : Out :=
  if !s.h.priv then s.privTrap ((encSR 50#6 2#5 0#5 a 0#5 0#4).setWidth 64)
  else if field (s.rd a) 17 47 ≠ 0 then s.opnd (s.rd a) 1
  else .next ((s.invalidate (s.rd a) fun _ => true).adv 4)

end Sys2Proof.Machine
end

