-- ==== Sys2Proof/Machine/Messages.lean ====
section
/-! DEFINITION. The mailbox's messages as firmware serves them, and its reports (R307, R338 to R340). -/

namespace Sys2Proof.Machine

/-- The code of a message. -/
def Message.opc (m : Message) : Nat := field m.word0 0 8

/-- The oldest message in the inbox that awaits an answer and meets a condition. -/
def Die.unanswered (d : Die) (p : Message → Bool) : Option Message :=
  d.messages.find? fun m => m.seq.isSome && !m.answered && p m

/-- A value that the manual leaves open (log 18). -/
def State.unstated (s : State) : BitVec 64 × State := (Config.remoteReply s.freeCount, { s with freeCount := s.freeCount + 1 })

/-- Answers a message. -/
def State.answer (s : State) (die : Nat) (m : Message) (status detail : Nat) : State :=
  (s.deliverReply die m status detail).roomFreed die

/-- Answers a message that is refused or malformed: the manual gives its `DETAIL` no value. -/
def State.turnDown (s : State) (die : Nat) (m : Message) (status : Nat) : State :=
  let (v, t) := s.unstated
  t.answer die m status (field v 0 32)

/-- Serves the oldest message that meets a condition. -/
def State.serve (s : State) (die : Nat) (p : Message → Bool) (f : Message → State) : Out :=
  .next (match (s.die die).unanswered p with
    | some m => f m
    | none => s)

/-- R338. -/
def execPing (die : Nat) (s : State) : Out :=
  s.serve die (·.opc == 1) fun m =>
    if field m.word0 8 56 ≠ 0 then s.turnDown die m 1 else s.answer die m 0 (field m.word1 0 32)

/-- A message from privileged code on a launched hart or from the host (R338). -/
def Message.trusted (m : Message) : Bool := m.src == 1 || m.priv

/-- Appends an entry to the bad-page list (R307): the answer's `DETAIL`. -/
def State.retirePage (s : State) (e : Word) : Nat × State :=
  if 4096 ≤ s.badPages.length then (2 ^ 32 - 1, s)
  else (s.badPages.length + 1, { s with badPages := s.badPages ++ [e] })

/-- R307, R338. -/
def execRetire (die : Nat) (s : State) : Out :=
  s.serve die (·.opc == 2) fun m =>
    if field m.word0 8 56 ≠ 0 ∨ field m.word1 54 9 ≠ 0 ∨ field m.word1 4 8 ≠ 0 then s.turnDown die m 1
    else if !m.trusted then s.turnDown die m 10
    else
      let (n, t) := s.retirePage m.word1
      t.answer die m 0 n

/-- Loads a key from device memory into a slot and writes zero over it (R337, R338); false where it cannot be read. -/
def State.loadKey (s : State) (slot a : Nat) : Bool × State :=
  if !inMemory a || !inMemory (a + 15) then (false, s)
  else
    let (bs, sev, t) := s.readAt (s.localKey a) 16
    if sev = 2 then (false, t)
    else
      let u : State := { t with keys := t.keys.setIfInBounds slot (some (BitVec.ofNat 128 (ofBytes bs))) }
      (true, u.writeAt (u.localKey a) (List.replicate 16 0) none)

/-- R338: from the host channel alone, once its firmware has passed attestation. -/
def execKeyload (die : Nat) (s : State) : Out :=
  s.serve die (·.opc == 3) fun m =>
    if field m.word0 8 8 ≠ 0 ∨ field m.word0 19 45 ≠ 0 then s.turnDown die m 1
    else if m.src ≠ 1 ∨ s.attested = false then s.turnDown die m 10
    else match s.loadKey (field m.word0 16 3) (m.word1.toNat % 2 ^ 42) with
      | (true, t) => t.answer die m 0 0
      | (false, t) => t.turnDown die m 2

/-- R338: a firmware-defined message gets the firmware's own answer; one of no defined code, or with a bit set that must be zero,
BADCMD. -/
def execFirmwareMessage (die : Nat) (status : BitVec 8) (detail : BitVec 32) (s : State) : Out :=
  s.serve die (fun m => m.opc == 0 || decide (4 ≤ m.opc)) fun m =>
    if 0x80 ≤ m.opc && field m.word0 8 8 == 0 then s.answer die m status.toNat detail.toNat else s.turnDown die m 1

/-- R339: a held report of a double trap is written into the inbox where there is room. -/
def execDoubleTrapReport (die : Nat) (s : State) : Out := .next (s.reportOnce die fun m => m.opc == 1)

/-- R339: a held report of a LINK kill is written into the inbox where there is room. -/
def execLinkKillReport (die : Nat) (s : State) : Out := .next (s.reportOnce die fun m => m.opc == 2)

/-- R328, R339. -/
def execHostMailboxWrite (die : Nat) (tail : Word) (s : State) : Out :=
  .next (if s.cxl256 then (s.devPut die ((s.die die).lineAddr 64) tail.toNat).hostChannel die else s)

end Sys2Proof.Machine
end

