-- ==== Sys2Proof/Machine/RegWrites.lean ====
section
/-! DEFINITION. The steps of the table that are a write or a read of one system register by the current hart (R29, R97 and
each register's rule). They differ from SYS instructions in naming the value, and leave the program counter where it is. -/

namespace Sys2Proof.Machine

/-- A system register written by the current hart: its level and its die decide as for an instruction (R5, R8, R97). The
encoding in `TVAL` is that of `PUTSR` from `s0`. A write that is to come after others waits (R98, R215, R276). -/
def State.writeReg (s : State) (n : Nat) (v : Word) : Out :=
  match s.srCheck n (BitVec.ofNat 64 (n * 2 ^ 23 + 0x40061)) with
  | some o => o
  | none => if s.h.writeHeld n then s.waitAt (.write n v) else s.srWriteInstr n v id

/-- R29. -/
def execVlWrite (v : Word) (s : State) : Out := s.writeReg 0x000 v
/-- R29. -/
def execVcfgWrite (v : Word) (s : State) : Out := s.writeReg 0x001 v
/-- R29. -/
def execRcWrite (v : Word) (s : State) : Out := s.writeReg 0x002 v
/-- R25. -/
def execTbnWrite (v : Word) (s : State) : Out := s.writeReg 0x014 v
/-- R34. -/
def execEventClear (v : Word) (s : State) : Out := s.writeReg 0x040 v
/-- R104. -/
def execTsaveWrite (v : Word) (s : State) : Out := s.writeReg 0x107 v
/-- R178. -/
def execLprWrite (v : Word) (s : State) : Out := s.writeReg 0x110 v
/-- R180. -/
def execLgoffWrite (v : Word) (s : State) : Out := s.writeReg 0x114 v
/-- R182. -/
def execGatecfgWrite (v : Word) (s : State) : Out := s.writeReg 0x111 v
/-- R185. -/
def execSeedchkWrite (v : Word) (s : State) : Out := s.writeReg 0x118 v
/-- R241. -/
def execFlcfgWrite (v : Word) (s : State) : Out := s.writeReg 0x121 v
/-- R241. -/
def execFlselWrite (v : Word) (s : State) : Out := s.writeReg 0x124 v
/-- R242. -/
def execFlrailWrite (v : Word) (s : State) : Out := s.writeReg 0x125 v

/-- `CQCTL` of the selected cluster as it reads, with one bit set or cleared. -/
def State.cqctlWith (s : State) (bit : Nat) (on : Bool) : Word :=
  let old := s.srValue s.h 0x150
  let m : Word := BitVec.ofNat 64 (2 ^ bit)
  if on then old ||| m else old &&& ~~~m

/-- R250. -/
def execCqctlClose (on : Bool) (s : State) : Out := s.writeReg 0x150 (s.cqctlWith 0 on)
/-- R251. -/
def execCqctlPre (on : Bool) (s : State) : Out := s.writeReg 0x150 (s.cqctlWith 1 on)
/-- R254. -/
def execCqctlSleep (on : Bool) (s : State) : Out := s.writeReg 0x150 (s.cqctlWith 2 on)
/-- R255. -/
def execCwakeWrite (v : Word) (s : State) : Out := s.writeReg 0x153 v

/-- A system register read by the current hart, with the read's side effect. -/
def State.readReg (s : State) (n : Nat) (d : Reg) : Out :=
  match s.srCheck n (BitVec.ofNat 64 (n * 2 ^ 23 + d.toNat * 2 ^ 8 + 0x61)) with
  | some o => o
  | none => .next ((s.srReadEffect n).wr d (s.srValue s.h n))

/-- R306. -/
def execMfaqPop (d : Reg) (s : State) : Out := s.readReg 0x161 d
/-- R342. -/
def execEnergyloRead (d : Reg) (s : State) : Out := s.readReg 0x130 d
/-- R343. -/
def execUvpinClear (v : Word) (s : State) : Out := s.writeReg 0x15B v
/-- R331. -/
def execJbaseWrite (v : Word) (s : State) : Out := s.writeReg 0x15A v
/-- R340. -/
def execMbxbaseWrite (v : Word) (s : State) : Out := s.writeReg 0x15C v
/-- R340. -/
def execMbxreplyWrite (v : Word) (s : State) : Out := s.writeReg 0x15F v
/-- R276. -/
def execPtrootWrite (v : Word) (s : State) : Out := s.writeReg 0x138 v
/-- R276. -/
def execAsidWrite (v : Word) (s : State) : Out := s.writeReg 0x139 v
/-- R97. -/
def execSysregWrite (n : BitVec 9) (v : Word) (s : State) : Out := s.writeReg n.toNat v

end Sys2Proof.Machine
end

