-- ==== Sys2Proof/Machine/ScalarFloat.lean ====
section
/-! DEFINITION. Scalar f32 (R94, R95). -/

namespace Sys2Proof.Machine

/-- The f32 in bits 31:0 of a register. -/
def State.rdF (s : State) (r : Reg) : Nat := (s.rd r).toNat % 2 ^ 32

/-- Writes a result with its flags and goes on. -/
def State.floatResult (s : State) (d : Reg) (r : Nat × Flags) : Out := (s.flag r.2).result d (BitVec.ofNat 64 r.1)

/-- Writes a compare's result with its flags and goes on. -/
def State.floatTruth (s : State) (d : Reg) (r : Bool × Flags) : Out := (s.flag r.2).result d (truth r.1)

/-- R94. -/
def execFadd (d a b : Reg) (s : State) : Out := s.floatResult d (fmtF32.fadd s.h.rctx (s.rdF a) (s.rdF b))
/-- R94. -/
def execFsub (d a b : Reg) (s : State) : Out := s.floatResult d (fmtF32.fsub s.h.rctx (s.rdF a) (s.rdF b))
/-- R94. -/
def execFmul (d a b : Reg) (s : State) : Out := s.floatResult d (fmtF32.fmul s.h.rctx (s.rdF a) (s.rdF b))
/-- R94. -/
def execFdiv (d a b : Reg) (s : State) : Out := s.floatResult d (fmtF32.fdiv s.h.rctx (s.rdF a) (s.rdF b))
/-- R94. -/
def execFmin (d a b : Reg) (s : State) : Out := s.floatResult d (fmtF32.fminmax false s.h.rctx.fz (s.rdF a) (s.rdF b))
/-- R94. -/
def execFmax (d a b : Reg) (s : State) : Out := s.floatResult d (fmtF32.fminmax true s.h.rctx.fz (s.rdF a) (s.rdF b))
/-- R94. -/
def execFsqrt (d a : Reg) (s : State) : Out := s.floatResult d (fmtF32.fsqrt s.h.rctx (s.rdF a))

/-- R95: a NaN appends its entry first; a full list or a faulting entry leaves D unchanged. -/
def execFcvtFI (d a : Reg) (s : State) : Out :=
  let r := (Fmt.int 64).convert s.h.rctx false (fmtF32.readIn s.h.rctx.fz (s.rdF a))
  s.run do
    if r.entry then appendEntry 0 0 8 3
    modify (·.flag r.flags)
    wrM d (BitVec.ofNat 64 r.bits)
    advM 4

/-- R94. -/
def execFcvtIF (d a : Reg) (s : State) : Out :=
  let v := (s.rd a).toInt
  let r := (Fmt.flt fmtF32).convert s.h.rctx true (.fin (v < 0) v.natAbs 0)
  s.floatResult d (r.bits, r.flags)

/-- R94. -/
def execFeq (d a b : Reg) (s : State) : Out := s.floatTruth d (fmtF32.ceq s.h.rctx.fz (s.rdF a) (s.rdF b))
/-- R94. -/
def execFlt (d a b : Reg) (s : State) : Out := s.floatTruth d (fmtF32.cless false s.h.rctx.fz (s.rdF a) (s.rdF b))
/-- R94. -/
def execFle (d a b : Reg) (s : State) : Out := s.floatTruth d (fmtF32.cless true s.h.rctx.fz (s.rdF a) (s.rdF b))

end Sys2Proof.Machine
end

