-- ==== Sys2Proof/Machine/Streams.lean ====
section
/-! DEFINITION. Stream bindings (R188). -/

namespace Sys2Proof.Machine

/-- R188. -/
def execVbind (d a : Reg) (s : State) : Out :=
  s.issue ((encSR 45#6 0#5 d a 0#5 0#4).setWidth 64) (.bind d a)

/-- R188. -/
def execVunbind (d : Reg) (s : State) : Out :=
  s.issue ((encSR 45#6 1#5 d 0#5 0#5 0#4).setWidth 64) (.unbind d)

end Sys2Proof.Machine
end

