-- ==== Sys2Proof/Machine/System.lean ====
section
/-! DEFINITION. The SYS major (R96 to R103, R109). -/

namespace Sys2Proof.Machine

/-- R97. -/
def execGetsr (d : Reg) (n : BitVec 9) (s : State) : Out :=
  match s.srCheck n.toNat ((encSYS 0 d 0 n).setWidth 64) with
  | some o => o
  | none => (s.srReadEffect n.toNat).result d (s.srValue s.h n.toNat)

/-- R97. -/
def execPutsr (a : Reg) (n : BitVec 9) (s : State) : Out :=
  match s.srCheck n.toNat ((encSYS 1 0 a n).setWidth 64) with
  | some o => o
  | none => s.srWriteInstr n.toNat (s.rd a) (·.adv 4)

/-- A read and a write in one step (R97): `v` is written, or nothing where it is none, and D receives the old value. -/
def State.srModify (s : State) (d : Reg) (n : Nat) (v : Option Word) : Out :=
  match v with
  | none => (s.srReadEffect n).result d (s.srValue s.h n)
  | some v =>
    match s.srWrite n v with
    | none => s.opnd v 1
    | some t => (t.srReadEffect n).result d (s.srValue s.h n)

/-- R97. -/
def execSwapsr (d a : Reg) (n : BitVec 9) (s : State) : Out :=
  match s.srCheck n.toNat ((encSYS 2 d a n).setWidth 64) with
  | some o => o
  | none => s.srModify d n.toNat (some (s.rd a))

/-- R97. -/
def execSetsrb (d a : Reg) (n : BitVec 9) (s : State) : Out :=
  match s.srCheck n.toNat ((encSYS 3 d a n).setWidth 64) with
  | some o => o
  | none => s.srModify d n.toNat (if w1c n.toNat then none else some (s.srValue s.h n.toNat ||| s.rd a))

/-- R97. -/
def execClrsrb (d a : Reg) (n : BitVec 9) (s : State) : Out :=
  match s.srCheck n.toNat ((encSYS 4 d a n).setWidth 64) with
  | some o => o
  | none => s.srModify d n.toNat (some (if w1c n.toNat then s.rd a else s.srValue s.h n.toNat &&& ~~~s.rd a))

/-- R99: the return address is the next instruction's. -/
def execTrap (a : Reg) (n : BitVec 9) (s : State) : Out :=
  .next (s.takeTrap Cause.trap (s.rd a) (n.setWidth 64) (s.h.pc + 4))

/-- R99. -/
def execBrkpt (n : BitVec 9) (s : State) : Out := .next (s.trapHere Cause.brkpt 0 (n.setWidth 64))

/-- R109. -/
def execTret (s : State) : Out := if s.h.priv then .next s.trapReturn else s.privTrap ((encSYS 6 0 0 0).setWidth 64)

/-- R100. -/
def execWfe (d : Reg) (s : State) : Out := if s.h.event = 0 then s.waitAt (.wfe d) else .next (s.wakeWfe d)

/-- The launch of the current hart's gang receives its flags (R101). -/
def State.deliverFlags (s : State) : State :=
  match s.myGang with
  | none => s
  | some g => s.setLaunch g.launch fun l => { l with flags := l.flags ||| s.h.fflags }

/-- R101. -/
def execEndHart (s : State) : Out :=
  if s.h.priv then s.illop ((encSYS 8 0 0 0).setWidth 64) else s.acked 9 true true (.next (s.deliverFlags.endHart s.h.key false))

/-- Whether every running hart of a gang waits at a `YIELDPT` (R102). -/
def State.allYielded (s : State) (gid : Nat) : Bool :=
  (s.members gid).all fun h => h.run != .running || (match h.wait with
    | .yieldpt _ _ => true
    | _ => false)

/-- R102, R321. -/
def execYieldpt (a : Reg) (n : BitVec 1) (s : State) : Out :=
  match s.myGang with
  | none => .next s.passWait
  | some g =>
    if !s.h.yld then .next s.passWait
    else if g.felled then .next (s.fellHere true)
    else if !g.preempt then .next s.passWait
    else
      let t : State := { s with h := { s.h with wait := .yieldpt (s.rd a) (n == 1) } }
      s.acked 9 true true (.next (if t.allYielded g.id then t.stopYielded g.id else t))

/-- R103. -/
def execHalt (s : State) : Out :=
  if s.h.priv then .next s.haltHere else s.privTrap ((encSYS 10 0 0 0).setWidth 64)

end Sys2Proof.Machine
end

