-- ==== Sys2Proof/Machine/Tiles.lean ====
section
/-! DEFINITION. MMODE functions that enter the vector instruction queue, and tile forms (R195 to R212). -/

namespace Sys2Proof.Machine

/-- R195. -/
def execSettile (d a b : Reg) (s : State) : Out :=
  s.issue ((encSR 44#6 2#5 d a b 0#4).setWidth 64) (.mat .settile d a b)

/-- R209. -/
def execMzero (d : Reg) (s : State) : Out :=
  s.issue ((encSR 44#6 3#5 d 0#5 0#5 0#4).setWidth 64) (.mat .mzero d 0 0)

/-- R211. -/
def execMrdf (d a b : Reg) (s : State) : Out :=
  s.issue ((encSR 44#6 4#5 d a b 0#4).setWidth 64) (.mat .mrdf d a b)

/-- R212. -/
def execMcmprs (d a b : Reg) (s : State) : Out :=
  s.issue ((encSR 44#6 5#5 d a b 0#4).setWidth 64) (.mat .mcmprs d a b)

/-- R210. -/
def execMaccadd (d a : Reg) (s : State) : Out :=
  s.issue ((encSR 44#6 6#5 d a 0#5 0#4).setWidth 64) (.mat .maccadd d a 0)

/-- R203. -/
def execMop (t : Tile) (s : State) : Out :=
  s.issue (encTile 0#6 t) (.tile 0 t)

/-- R203. -/
def execMops (t : Tile) (s : State) : Out :=
  s.issue (encTile 1#6 t) (.tile 1 t)

/-- R203. -/
def execMopl (t : Tile) (s : State) : Out :=
  s.issue (encTile 2#6 t) (.tile 2 t)

/-- R203. -/
def execMopd (t : Tile) (s : State) : Out :=
  s.issue (encTile 3#6 t) (.tile 3 t)

end Sys2Proof.Machine
end

