-- ==== Sys2Proof/Machine/VConfig.lean ====
section
/-! DEFINITION. Vector length and configuration (R110, R111), and the strip boundary that moves lane groups (R179). -/

namespace Sys2Proof.Machine

/-- The grant of R110 for a request. -/
def grantOf (vmax req : Nat) : Nat :=
  if req ≤ vmax then req
  else if req < 3 * vmax then ceilDiv req (ceilDiv req vmax)
  else vmax

/-- Pending groups that their owner releases here (R179). -/
def CoreSt.released (c : CoreSt) (slot : Nat) : List Nat :=
  (groupsOf c.lprCur slot).filter fun k => nibble c.lprNext k != nibble c.lprCur k

/-- Unassigned pending groups that `NEXT` gives a slot; a withdrawn one is never acquired (R179, R180). -/
def CoreSt.acquired (c : CoreSt) (slot : Nat) : List Nat :=
  (groupsOf c.lprNext slot).filter fun k => nibble c.lprCur k < 8 && !c.lgoff.getLsbD k

/-- Release, then acquire. -/
def CoreSt.repartition (c : CoreSt) (slot : Nat) : CoreSt :=
  let c1 : CoreSt := { c with lprCur := (c.released slot).foldl (fun w k => setNibble w k 0) c.lprCur }
  { c1 with lprCur := (c1.acquired slot).foldl (fun w k => setNibble w k (nibble c1.lprNext k)) c1.lprCur }

/-- The strip boundary of a `SETVL` with RP (R179): where a group moves, every vector row has length 0. In matrix mode no
group moves (R194). DESIGN CHOICE (log 71): the descriptors are then those of reset (R16). -/
def State.stripBoundary (s : State) : State :=
  let c := s.core (coreOf s.h.key)
  let c' := c.repartition s.h.key.slot
  if s.h.mm || c'.lprCur == c.lprCur then s
  else
    let t : State := s.setCore (coreOf s.h.key) fun _ => c'
    { t with h := { t.h with v := Vector.replicate 32 VReg.reset } }

/-- `SETVL` and `SETVLR` (R110): grant, configuration and length. -/
def State.setvl (s : State) (d : Reg) (req : Word) (cfg : BitVec 12) : Out :=
  let t : State := if cfg.getLsbD 10 then s.stripBoundary else s
  let vl := grantOf (t.vmax t.h (cfg.setWidth 64)) req.toNat
  let u : State := { t with h := { t.h with vcfg := cfg.setWidth 64, vl := vl } }
  u.result d (BitVec.ofNat 64 vl)

/-- R110. -/
def execSetvl (d a : Reg) (c : BitVec 12) (s : State) : Out := s.setvl d (s.rd a) c

/-- R111. -/
def execSetvlr (d a b : Reg) (s : State) : Out :=
  let cfg := s.rd b
  if field cfg 14 50 ≠ 0 ∨ field cfg 12 2 ≠ 0 ∨ 4 ≤ field cfg 0 3 ∨ field cfg 5 2 = 3 then s.opnd cfg 2
  else s.setvl d (s.rd a) (cfg.setWidth 12)

/-- R111. -/
def execSetrc (d a : Reg) (s : State) : Out :=
  let n := (s.rd a).toNat
  if n = 0 ∨ 32 < n then s.opnd (s.rd a) 1
  else ({ s with h := { s.h with rc := n } } : State).result d (s.rd a)

/-- R63, R111: the length and stride of dimension `n`. -/
def execSetdim (a b : Reg) (n : BitVec 2) (s : State) : Out :=
  if field (s.rd a) 16 48 ≠ 0 then s.opnd (s.rd a) 1
  else .next (({ s with h := { s.h with
    dl := s.h.dl.setIfInBounds n.toNat ((s.rd a).setWidth 16)
    dt := s.h.dt.setIfInBounds n.toNat (s.rd b) } } : State).adv 4)

end Sys2Proof.Machine
end

