-- ==== Sys2Proof/Machine/VectorCompare.lean ====
section
/-! DEFINITION. Vector compares (R126). -/

namespace Sys2Proof.Machine

/-- R126. -/
def execVceqVV (d a b : Reg) (k : BitVec 3) (s : State) : Out :=
  s.issue ((encSR 33#6 0#5 d a b (0#1 ++ k)).setWidth 64) (.cmp .eq d a (.vec b) k)

/-- R126. -/
def execVcneVV (d a b : Reg) (k : BitVec 3) (s : State) : Out :=
  s.issue ((encSR 33#6 1#5 d a b (0#1 ++ k)).setWidth 64) (.cmp .ne d a (.vec b) k)

/-- R126. -/
def execVcltVV (d a b : Reg) (k : BitVec 3) (s : State) : Out :=
  s.issue ((encSR 33#6 2#5 d a b (0#1 ++ k)).setWidth 64) (.cmp .lt d a (.vec b) k)

/-- R126. -/
def execVcleVV (d a b : Reg) (k : BitVec 3) (s : State) : Out :=
  s.issue ((encSR 33#6 3#5 d a b (0#1 ++ k)).setWidth 64) (.cmp .le d a (.vec b) k)

/-- R126. -/
def execVcltuVV (d a b : Reg) (k : BitVec 3) (s : State) : Out :=
  s.issue ((encSR 33#6 4#5 d a b (0#1 ++ k)).setWidth 64) (.cmp .ltu d a (.vec b) k)

/-- R126. -/
def execVcleuVV (d a b : Reg) (k : BitVec 3) (s : State) : Out :=
  s.issue ((encSR 33#6 5#5 d a b (0#1 ++ k)).setWidth 64) (.cmp .leu d a (.vec b) k)

/-- R126. -/
def execVfceqVV (d a b : Reg) (k : BitVec 3) (s : State) : Out :=
  s.issue ((encSR 33#6 6#5 d a b (0#1 ++ k)).setWidth 64) (.cmp .feq d a (.vec b) k)

/-- R126. -/
def execVfcltVV (d a b : Reg) (k : BitVec 3) (s : State) : Out :=
  s.issue ((encSR 33#6 7#5 d a b (0#1 ++ k)).setWidth 64) (.cmp .flt d a (.vec b) k)

/-- R126. -/
def execVfcleVV (d a b : Reg) (k : BitVec 3) (s : State) : Out :=
  s.issue ((encSR 33#6 8#5 d a b (0#1 ++ k)).setWidth 64) (.cmp .fle d a (.vec b) k)

/-- R126. -/
def execVfcunVV (d a b : Reg) (k : BitVec 3) (s : State) : Out :=
  s.issue ((encSR 33#6 9#5 d a b (0#1 ++ k)).setWidth 64) (.cmp .fun d a (.vec b) k)

/-- R126. -/
def execVceqVS (d a b : Reg) (k : BitVec 3) (s : State) : Out :=
  s.issue ((encSR 33#6 0#5 d a b (1#1 ++ k)).setWidth 64) (.cmp .eq d a (.scalar b) k)

/-- R126. -/
def execVcneVS (d a b : Reg) (k : BitVec 3) (s : State) : Out :=
  s.issue ((encSR 33#6 1#5 d a b (1#1 ++ k)).setWidth 64) (.cmp .ne d a (.scalar b) k)

/-- R126. -/
def execVcltVS (d a b : Reg) (k : BitVec 3) (s : State) : Out :=
  s.issue ((encSR 33#6 2#5 d a b (1#1 ++ k)).setWidth 64) (.cmp .lt d a (.scalar b) k)

/-- R126. -/
def execVcleVS (d a b : Reg) (k : BitVec 3) (s : State) : Out :=
  s.issue ((encSR 33#6 3#5 d a b (1#1 ++ k)).setWidth 64) (.cmp .le d a (.scalar b) k)

/-- R126. -/
def execVcltuVS (d a b : Reg) (k : BitVec 3) (s : State) : Out :=
  s.issue ((encSR 33#6 4#5 d a b (1#1 ++ k)).setWidth 64) (.cmp .ltu d a (.scalar b) k)

/-- R126. -/
def execVcleuVS (d a b : Reg) (k : BitVec 3) (s : State) : Out :=
  s.issue ((encSR 33#6 5#5 d a b (1#1 ++ k)).setWidth 64) (.cmp .leu d a (.scalar b) k)

/-- R126. -/
def execVfceqVS (d a b : Reg) (k : BitVec 3) (s : State) : Out :=
  s.issue ((encSR 33#6 6#5 d a b (1#1 ++ k)).setWidth 64) (.cmp .feq d a (.scalar b) k)

/-- R126. -/
def execVfcltVS (d a b : Reg) (k : BitVec 3) (s : State) : Out :=
  s.issue ((encSR 33#6 7#5 d a b (1#1 ++ k)).setWidth 64) (.cmp .flt d a (.scalar b) k)

/-- R126. -/
def execVfcleVS (d a b : Reg) (k : BitVec 3) (s : State) : Out :=
  s.issue ((encSR 33#6 8#5 d a b (1#1 ++ k)).setWidth 64) (.cmp .fle d a (.scalar b) k)

/-- R126. -/
def execVfcunVS (d a b : Reg) (k : BitVec 3) (s : State) : Out :=
  s.issue ((encSR 33#6 9#5 d a b (1#1 ++ k)).setWidth 64) (.cmp .fun d a (.scalar b) k)

end Sys2Proof.Machine
end

