-- ==== Sys2Proof/Machine/VectorConvert.lean ====
section
/-! DEFINITION. Conversion and table functions (R131, R132). -/

namespace Sys2Proof.Machine

/-- R131. -/
def execVcvt (d a : Reg) (sh t : BitVec 5) (k : BitVec 3) (e : BitVec 1) (s : State) : Out :=
  s.issue ((encSR 37#6 sh d a t (e ++ k)).setWidth 64) (.cvt d a t k (e == 1) sh)

/-- R132. -/
def execVtabld (a : Reg) (s : State) : Out :=
  s.issue ((encSR 38#6 0#5 0#5 a 0#5 0#4).setWidth 64) (.tab .tabld 0 a 0 0 false)

/-- R132. -/
def execVlatd (d a b : Reg) (k : BitVec 3) (e : BitVec 1) (s : State) : Out :=
  s.issue ((encSR 38#6 1#5 d a b (e ++ k)).setWidth 64) (.tab .latd d a b k (e == 1))

/-- R132. -/
def execVdictg (d a : Reg) (k : BitVec 3) (e : BitVec 1) (s : State) : Out :=
  s.issue ((encSR 38#6 2#5 d a 0#5 (e ++ k)).setWidth 64) (.tab .dictg d a 0 k (e == 1))

/-- R132. -/
def execVtabst (d : Reg) (s : State) : Out :=
  s.issue ((encSR 38#6 3#5 d 0#5 0#5 0#4).setWidth 64) (.tab .tabst d 0 0 0 false)

end Sys2Proof.Machine
end

