-- ==== Sys2Proof/Machine/VectorFloat.lean ====
section
/-! DEFINITION. Vector floating-point forms (R125). -/

namespace Sys2Proof.Machine

/-- R125. -/
def execVfaddVV (d a b : Reg) (k : BitVec 3) (e : BitVec 1) (s : State) : Out :=
  s.issue ((encSR 31#6 0#5 d a b (e ++ k)).setWidth 64) (.flt .add d a (.vec b) k (e == 1))

/-- R125. -/
def execVfsubVV (d a b : Reg) (k : BitVec 3) (e : BitVec 1) (s : State) : Out :=
  s.issue ((encSR 31#6 1#5 d a b (e ++ k)).setWidth 64) (.flt .sub d a (.vec b) k (e == 1))

/-- R125. -/
def execVfmulVV (d a b : Reg) (k : BitVec 3) (e : BitVec 1) (s : State) : Out :=
  s.issue ((encSR 31#6 2#5 d a b (e ++ k)).setWidth 64) (.flt .mul d a (.vec b) k (e == 1))

/-- R125. -/
def execVfdivVV (d a b : Reg) (k : BitVec 3) (e : BitVec 1) (s : State) : Out :=
  s.issue ((encSR 31#6 3#5 d a b (e ++ k)).setWidth 64) (.flt .div d a (.vec b) k (e == 1))

/-- R125. -/
def execVfminVV (d a b : Reg) (k : BitVec 3) (e : BitVec 1) (s : State) : Out :=
  s.issue ((encSR 31#6 4#5 d a b (e ++ k)).setWidth 64) (.flt .min d a (.vec b) k (e == 1))

/-- R125. -/
def execVfmaxVV (d a b : Reg) (k : BitVec 3) (e : BitVec 1) (s : State) : Out :=
  s.issue ((encSR 31#6 5#5 d a b (e ++ k)).setWidth 64) (.flt .max d a (.vec b) k (e == 1))

/-- R125. -/
def execVfmaVV (d a b : Reg) (k : BitVec 3) (e : BitVec 1) (s : State) : Out :=
  s.issue ((encSR 31#6 6#5 d a b (e ++ k)).setWidth 64) (.flt .fma d a (.vec b) k (e == 1))

/-- R125. -/
def execVfnmsVV (d a b : Reg) (k : BitVec 3) (e : BitVec 1) (s : State) : Out :=
  s.issue ((encSR 31#6 7#5 d a b (e ++ k)).setWidth 64) (.flt .fnms d a (.vec b) k (e == 1))

/-- R125. -/
def execVfsqrt (d a : Reg) (k : BitVec 3) (e : BitVec 1) (s : State) : Out :=
  s.issue ((encSR 31#6 8#5 d a 0#5 (e ++ k)).setWidth 64) (.flt .sqrt d a .none k (e == 1))

/-- R125. -/
def execVfabs (d a : Reg) (k : BitVec 3) (e : BitVec 1) (s : State) : Out :=
  s.issue ((encSR 31#6 9#5 d a 0#5 (e ++ k)).setWidth 64) (.flt .abs d a .none k (e == 1))

/-- R125. -/
def execVfneg (d a : Reg) (k : BitVec 3) (e : BitVec 1) (s : State) : Out :=
  s.issue ((encSR 31#6 10#5 d a 0#5 (e ++ k)).setWidth 64) (.flt .neg d a .none k (e == 1))

/-- R125. -/
def execVfrnd (d a : Reg) (k : BitVec 3) (e : BitVec 1) (s : State) : Out :=
  s.issue ((encSR 31#6 11#5 d a 0#5 (e ++ k)).setWidth 64) (.flt .rnd d a .none k (e == 1))

/-- R125. -/
def execVfscaleVV (d a b : Reg) (k : BitVec 3) (e : BitVec 1) (s : State) : Out :=
  s.issue ((encSR 31#6 12#5 d a b (e ++ k)).setWidth 64) (.flt .scale d a (.vec b) k (e == 1))

/-- R125. -/
def execVfclass (d a : Reg) (k : BitVec 3) (e : BitVec 1) (s : State) : Out :=
  s.issue ((encSR 31#6 13#5 d a 0#5 (e ++ k)).setWidth 64) (.flt .cls d a .none k (e == 1))

/-- R125. -/
def execVfaddVS (d a b : Reg) (k : BitVec 3) (e : BitVec 1) (s : State) : Out :=
  s.issue ((encSR 32#6 0#5 d a b (e ++ k)).setWidth 64) (.flt .add d a (.scalar b) k (e == 1))

/-- R125. -/
def execVfsubVS (d a b : Reg) (k : BitVec 3) (e : BitVec 1) (s : State) : Out :=
  s.issue ((encSR 32#6 1#5 d a b (e ++ k)).setWidth 64) (.flt .sub d a (.scalar b) k (e == 1))

/-- R125. -/
def execVfmulVS (d a b : Reg) (k : BitVec 3) (e : BitVec 1) (s : State) : Out :=
  s.issue ((encSR 32#6 2#5 d a b (e ++ k)).setWidth 64) (.flt .mul d a (.scalar b) k (e == 1))

/-- R125. -/
def execVfdivVS (d a b : Reg) (k : BitVec 3) (e : BitVec 1) (s : State) : Out :=
  s.issue ((encSR 32#6 3#5 d a b (e ++ k)).setWidth 64) (.flt .div d a (.scalar b) k (e == 1))

/-- R125. -/
def execVfminVS (d a b : Reg) (k : BitVec 3) (e : BitVec 1) (s : State) : Out :=
  s.issue ((encSR 32#6 4#5 d a b (e ++ k)).setWidth 64) (.flt .min d a (.scalar b) k (e == 1))

/-- R125. -/
def execVfmaxVS (d a b : Reg) (k : BitVec 3) (e : BitVec 1) (s : State) : Out :=
  s.issue ((encSR 32#6 5#5 d a b (e ++ k)).setWidth 64) (.flt .max d a (.scalar b) k (e == 1))

/-- R125. -/
def execVfmaVS (d a b : Reg) (k : BitVec 3) (e : BitVec 1) (s : State) : Out :=
  s.issue ((encSR 32#6 6#5 d a b (e ++ k)).setWidth 64) (.flt .fma d a (.scalar b) k (e == 1))

/-- R125. -/
def execVfnmsVS (d a b : Reg) (k : BitVec 3) (e : BitVec 1) (s : State) : Out :=
  s.issue ((encSR 32#6 7#5 d a b (e ++ k)).setWidth 64) (.flt .fnms d a (.scalar b) k (e == 1))

/-- R125. -/
def execVfscaleVS (d a b : Reg) (k : BitVec 3) (e : BitVec 1) (s : State) : Out :=
  s.issue ((encSR 32#6 12#5 d a b (e ++ k)).setWidth 64) (.flt .scale d a (.scalar b) k (e == 1))

end Sys2Proof.Machine
end

