-- ==== Sys2Proof/Machine/VectorInt.lean ====
section
/-! DEFINITION. Vector integer forms (R124). -/

namespace Sys2Proof.Machine

/-- R124. -/
def execVaddVV (d a b : Reg) (k : BitVec 3) (e : BitVec 1) (s : State) : Out :=
  s.issue ((encSR 28#6 0#5 d a b (e ++ k)).setWidth 64) (.int .add d a (.vec b) k (e == 1))

/-- R124. -/
def execVsubVV (d a b : Reg) (k : BitVec 3) (e : BitVec 1) (s : State) : Out :=
  s.issue ((encSR 28#6 1#5 d a b (e ++ k)).setWidth 64) (.int .sub d a (.vec b) k (e == 1))

/-- R124. -/
def execVrsubVV (d a b : Reg) (k : BitVec 3) (e : BitVec 1) (s : State) : Out :=
  s.issue ((encSR 28#6 2#5 d a b (e ++ k)).setWidth 64) (.int .rsub d a (.vec b) k (e == 1))

/-- R124. -/
def execVmulVV (d a b : Reg) (k : BitVec 3) (e : BitVec 1) (s : State) : Out :=
  s.issue ((encSR 28#6 3#5 d a b (e ++ k)).setWidth 64) (.int .mul d a (.vec b) k (e == 1))

/-- R124. -/
def execVmulhVV (d a b : Reg) (k : BitVec 3) (e : BitVec 1) (s : State) : Out :=
  s.issue ((encSR 28#6 4#5 d a b (e ++ k)).setWidth 64) (.int .mulh d a (.vec b) k (e == 1))

/-- R124. -/
def execVmulhuVV (d a b : Reg) (k : BitVec 3) (e : BitVec 1) (s : State) : Out :=
  s.issue ((encSR 28#6 5#5 d a b (e ++ k)).setWidth 64) (.int .mulhu d a (.vec b) k (e == 1))

/-- R124. -/
def execVdivVV (d a b : Reg) (k : BitVec 3) (e : BitVec 1) (s : State) : Out :=
  s.issue ((encSR 28#6 6#5 d a b (e ++ k)).setWidth 64) (.int .div d a (.vec b) k (e == 1))

/-- R124. -/
def execVdivuVV (d a b : Reg) (k : BitVec 3) (e : BitVec 1) (s : State) : Out :=
  s.issue ((encSR 28#6 7#5 d a b (e ++ k)).setWidth 64) (.int .divu d a (.vec b) k (e == 1))

/-- R124. -/
def execVremVV (d a b : Reg) (k : BitVec 3) (e : BitVec 1) (s : State) : Out :=
  s.issue ((encSR 28#6 8#5 d a b (e ++ k)).setWidth 64) (.int .rem d a (.vec b) k (e == 1))

/-- R124. -/
def execVremuVV (d a b : Reg) (k : BitVec 3) (e : BitVec 1) (s : State) : Out :=
  s.issue ((encSR 28#6 9#5 d a b (e ++ k)).setWidth 64) (.int .remu d a (.vec b) k (e == 1))

/-- R124. -/
def execVminVV (d a b : Reg) (k : BitVec 3) (e : BitVec 1) (s : State) : Out :=
  s.issue ((encSR 28#6 10#5 d a b (e ++ k)).setWidth 64) (.int .min d a (.vec b) k (e == 1))

/-- R124. -/
def execVmaxVV (d a b : Reg) (k : BitVec 3) (e : BitVec 1) (s : State) : Out :=
  s.issue ((encSR 28#6 11#5 d a b (e ++ k)).setWidth 64) (.int .max d a (.vec b) k (e == 1))

/-- R124. -/
def execVminuVV (d a b : Reg) (k : BitVec 3) (e : BitVec 1) (s : State) : Out :=
  s.issue ((encSR 28#6 12#5 d a b (e ++ k)).setWidth 64) (.int .minu d a (.vec b) k (e == 1))

/-- R124. -/
def execVmaxuVV (d a b : Reg) (k : BitVec 3) (e : BitVec 1) (s : State) : Out :=
  s.issue ((encSR 28#6 13#5 d a b (e ++ k)).setWidth 64) (.int .maxu d a (.vec b) k (e == 1))

/-- R124. -/
def execVandVV (d a b : Reg) (k : BitVec 3) (e : BitVec 1) (s : State) : Out :=
  s.issue ((encSR 28#6 14#5 d a b (e ++ k)).setWidth 64) (.int .and d a (.vec b) k (e == 1))

/-- R124. -/
def execVorVV (d a b : Reg) (k : BitVec 3) (e : BitVec 1) (s : State) : Out :=
  s.issue ((encSR 28#6 15#5 d a b (e ++ k)).setWidth 64) (.int .or d a (.vec b) k (e == 1))

/-- R124. -/
def execVxorVV (d a b : Reg) (k : BitVec 3) (e : BitVec 1) (s : State) : Out :=
  s.issue ((encSR 28#6 16#5 d a b (e ++ k)).setWidth 64) (.int .xor d a (.vec b) k (e == 1))

/-- R124. -/
def execVsllVV (d a b : Reg) (k : BitVec 3) (e : BitVec 1) (s : State) : Out :=
  s.issue ((encSR 28#6 17#5 d a b (e ++ k)).setWidth 64) (.int .sll d a (.vec b) k (e == 1))

/-- R124. -/
def execVsrlVV (d a b : Reg) (k : BitVec 3) (e : BitVec 1) (s : State) : Out :=
  s.issue ((encSR 28#6 18#5 d a b (e ++ k)).setWidth 64) (.int .srl d a (.vec b) k (e == 1))

/-- R124. -/
def execVsraVV (d a b : Reg) (k : BitVec 3) (e : BitVec 1) (s : State) : Out :=
  s.issue ((encSR 28#6 19#5 d a b (e ++ k)).setWidth 64) (.int .sra d a (.vec b) k (e == 1))

/-- R124. -/
def execVsaddVV (d a b : Reg) (k : BitVec 3) (e : BitVec 1) (s : State) : Out :=
  s.issue ((encSR 28#6 20#5 d a b (e ++ k)).setWidth 64) (.int .sadd d a (.vec b) k (e == 1))

/-- R124. -/
def execVssubVV (d a b : Reg) (k : BitVec 3) (e : BitVec 1) (s : State) : Out :=
  s.issue ((encSR 28#6 21#5 d a b (e ++ k)).setWidth 64) (.int .ssub d a (.vec b) k (e == 1))

/-- R124. -/
def execVsadduVV (d a b : Reg) (k : BitVec 3) (e : BitVec 1) (s : State) : Out :=
  s.issue ((encSR 28#6 22#5 d a b (e ++ k)).setWidth 64) (.int .saddu d a (.vec b) k (e == 1))

/-- R124. -/
def execVssubuVV (d a b : Reg) (k : BitVec 3) (e : BitVec 1) (s : State) : Out :=
  s.issue ((encSR 28#6 23#5 d a b (e ++ k)).setWidth 64) (.int .ssubu d a (.vec b) k (e == 1))

/-- R124. -/
def execVmaccVV (d a b : Reg) (k : BitVec 3) (e : BitVec 1) (s : State) : Out :=
  s.issue ((encSR 28#6 24#5 d a b (e ++ k)).setWidth 64) (.int .macc d a (.vec b) k (e == 1))

/-- R124. -/
def execVabs (d a : Reg) (k : BitVec 3) (e : BitVec 1) (s : State) : Out :=
  s.issue ((encSR 28#6 25#5 d a 0#5 (e ++ k)).setWidth 64) (.int .abs d a .none k (e == 1))

/-- R124. -/
def execVneg (d a : Reg) (k : BitVec 3) (e : BitVec 1) (s : State) : Out :=
  s.issue ((encSR 28#6 26#5 d a 0#5 (e ++ k)).setWidth 64) (.int .neg d a .none k (e == 1))

/-- R124. -/
def execVaddVS (d a b : Reg) (k : BitVec 3) (e : BitVec 1) (s : State) : Out :=
  s.issue ((encSR 29#6 0#5 d a b (e ++ k)).setWidth 64) (.int .add d a (.scalar b) k (e == 1))

/-- R124. -/
def execVsubVS (d a b : Reg) (k : BitVec 3) (e : BitVec 1) (s : State) : Out :=
  s.issue ((encSR 29#6 1#5 d a b (e ++ k)).setWidth 64) (.int .sub d a (.scalar b) k (e == 1))

/-- R124. -/
def execVrsubVS (d a b : Reg) (k : BitVec 3) (e : BitVec 1) (s : State) : Out :=
  s.issue ((encSR 29#6 2#5 d a b (e ++ k)).setWidth 64) (.int .rsub d a (.scalar b) k (e == 1))

/-- R124. -/
def execVmulVS (d a b : Reg) (k : BitVec 3) (e : BitVec 1) (s : State) : Out :=
  s.issue ((encSR 29#6 3#5 d a b (e ++ k)).setWidth 64) (.int .mul d a (.scalar b) k (e == 1))

/-- R124. -/
def execVmulhVS (d a b : Reg) (k : BitVec 3) (e : BitVec 1) (s : State) : Out :=
  s.issue ((encSR 29#6 4#5 d a b (e ++ k)).setWidth 64) (.int .mulh d a (.scalar b) k (e == 1))

/-- R124. -/
def execVmulhuVS (d a b : Reg) (k : BitVec 3) (e : BitVec 1) (s : State) : Out :=
  s.issue ((encSR 29#6 5#5 d a b (e ++ k)).setWidth 64) (.int .mulhu d a (.scalar b) k (e == 1))

/-- R124. -/
def execVdivVS (d a b : Reg) (k : BitVec 3) (e : BitVec 1) (s : State) : Out :=
  s.issue ((encSR 29#6 6#5 d a b (e ++ k)).setWidth 64) (.int .div d a (.scalar b) k (e == 1))

/-- R124. -/
def execVdivuVS (d a b : Reg) (k : BitVec 3) (e : BitVec 1) (s : State) : Out :=
  s.issue ((encSR 29#6 7#5 d a b (e ++ k)).setWidth 64) (.int .divu d a (.scalar b) k (e == 1))

/-- R124. -/
def execVremVS (d a b : Reg) (k : BitVec 3) (e : BitVec 1) (s : State) : Out :=
  s.issue ((encSR 29#6 8#5 d a b (e ++ k)).setWidth 64) (.int .rem d a (.scalar b) k (e == 1))

/-- R124. -/
def execVremuVS (d a b : Reg) (k : BitVec 3) (e : BitVec 1) (s : State) : Out :=
  s.issue ((encSR 29#6 9#5 d a b (e ++ k)).setWidth 64) (.int .remu d a (.scalar b) k (e == 1))

/-- R124. -/
def execVminVS (d a b : Reg) (k : BitVec 3) (e : BitVec 1) (s : State) : Out :=
  s.issue ((encSR 29#6 10#5 d a b (e ++ k)).setWidth 64) (.int .min d a (.scalar b) k (e == 1))

/-- R124. -/
def execVmaxVS (d a b : Reg) (k : BitVec 3) (e : BitVec 1) (s : State) : Out :=
  s.issue ((encSR 29#6 11#5 d a b (e ++ k)).setWidth 64) (.int .max d a (.scalar b) k (e == 1))

/-- R124. -/
def execVminuVS (d a b : Reg) (k : BitVec 3) (e : BitVec 1) (s : State) : Out :=
  s.issue ((encSR 29#6 12#5 d a b (e ++ k)).setWidth 64) (.int .minu d a (.scalar b) k (e == 1))

/-- R124. -/
def execVmaxuVS (d a b : Reg) (k : BitVec 3) (e : BitVec 1) (s : State) : Out :=
  s.issue ((encSR 29#6 13#5 d a b (e ++ k)).setWidth 64) (.int .maxu d a (.scalar b) k (e == 1))

/-- R124. -/
def execVandVS (d a b : Reg) (k : BitVec 3) (e : BitVec 1) (s : State) : Out :=
  s.issue ((encSR 29#6 14#5 d a b (e ++ k)).setWidth 64) (.int .and d a (.scalar b) k (e == 1))

/-- R124. -/
def execVorVS (d a b : Reg) (k : BitVec 3) (e : BitVec 1) (s : State) : Out :=
  s.issue ((encSR 29#6 15#5 d a b (e ++ k)).setWidth 64) (.int .or d a (.scalar b) k (e == 1))

/-- R124. -/
def execVxorVS (d a b : Reg) (k : BitVec 3) (e : BitVec 1) (s : State) : Out :=
  s.issue ((encSR 29#6 16#5 d a b (e ++ k)).setWidth 64) (.int .xor d a (.scalar b) k (e == 1))

/-- R124. -/
def execVsllVS (d a b : Reg) (k : BitVec 3) (e : BitVec 1) (s : State) : Out :=
  s.issue ((encSR 29#6 17#5 d a b (e ++ k)).setWidth 64) (.int .sll d a (.scalar b) k (e == 1))

/-- R124. -/
def execVsrlVS (d a b : Reg) (k : BitVec 3) (e : BitVec 1) (s : State) : Out :=
  s.issue ((encSR 29#6 18#5 d a b (e ++ k)).setWidth 64) (.int .srl d a (.scalar b) k (e == 1))

/-- R124. -/
def execVsraVS (d a b : Reg) (k : BitVec 3) (e : BitVec 1) (s : State) : Out :=
  s.issue ((encSR 29#6 19#5 d a b (e ++ k)).setWidth 64) (.int .sra d a (.scalar b) k (e == 1))

/-- R124. -/
def execVsaddVS (d a b : Reg) (k : BitVec 3) (e : BitVec 1) (s : State) : Out :=
  s.issue ((encSR 29#6 20#5 d a b (e ++ k)).setWidth 64) (.int .sadd d a (.scalar b) k (e == 1))

/-- R124. -/
def execVssubVS (d a b : Reg) (k : BitVec 3) (e : BitVec 1) (s : State) : Out :=
  s.issue ((encSR 29#6 21#5 d a b (e ++ k)).setWidth 64) (.int .ssub d a (.scalar b) k (e == 1))

/-- R124. -/
def execVsadduVS (d a b : Reg) (k : BitVec 3) (e : BitVec 1) (s : State) : Out :=
  s.issue ((encSR 29#6 22#5 d a b (e ++ k)).setWidth 64) (.int .saddu d a (.scalar b) k (e == 1))

/-- R124. -/
def execVssubuVS (d a b : Reg) (k : BitVec 3) (e : BitVec 1) (s : State) : Out :=
  s.issue ((encSR 29#6 23#5 d a b (e ++ k)).setWidth 64) (.int .ssubu d a (.scalar b) k (e == 1))

/-- R124. -/
def execVmaccVS (d a b : Reg) (k : BitVec 3) (e : BitVec 1) (s : State) : Out :=
  s.issue ((encSR 29#6 24#5 d a b (e ++ k)).setWidth 64) (.int .macc d a (.scalar b) k (e == 1))

/-- R124. -/
def execVaddVI (d a : Reg) (im : BitVec 5) (k : BitVec 3) (e : BitVec 1) (s : State) : Out :=
  s.issue ((encSR 30#6 0#5 d a im (e ++ k)).setWidth 64) (.int .add d a (.imm im) k (e == 1))

/-- R124. -/
def execVsubVI (d a : Reg) (im : BitVec 5) (k : BitVec 3) (e : BitVec 1) (s : State) : Out :=
  s.issue ((encSR 30#6 1#5 d a im (e ++ k)).setWidth 64) (.int .sub d a (.imm im) k (e == 1))

/-- R124. -/
def execVrsubVI (d a : Reg) (im : BitVec 5) (k : BitVec 3) (e : BitVec 1) (s : State) : Out :=
  s.issue ((encSR 30#6 2#5 d a im (e ++ k)).setWidth 64) (.int .rsub d a (.imm im) k (e == 1))

/-- R124. -/
def execVmulVI (d a : Reg) (im : BitVec 5) (k : BitVec 3) (e : BitVec 1) (s : State) : Out :=
  s.issue ((encSR 30#6 3#5 d a im (e ++ k)).setWidth 64) (.int .mul d a (.imm im) k (e == 1))

/-- R124. -/
def execVmulhVI (d a : Reg) (im : BitVec 5) (k : BitVec 3) (e : BitVec 1) (s : State) : Out :=
  s.issue ((encSR 30#6 4#5 d a im (e ++ k)).setWidth 64) (.int .mulh d a (.imm im) k (e == 1))

/-- R124. -/
def execVmulhuVI (d a : Reg) (im : BitVec 5) (k : BitVec 3) (e : BitVec 1) (s : State) : Out :=
  s.issue ((encSR 30#6 5#5 d a im (e ++ k)).setWidth 64) (.int .mulhu d a (.imm im) k (e == 1))

/-- R124. -/
def execVdivVI (d a : Reg) (im : BitVec 5) (k : BitVec 3) (e : BitVec 1) (s : State) : Out :=
  s.issue ((encSR 30#6 6#5 d a im (e ++ k)).setWidth 64) (.int .div d a (.imm im) k (e == 1))

/-- R124. -/
def execVdivuVI (d a : Reg) (im : BitVec 5) (k : BitVec 3) (e : BitVec 1) (s : State) : Out :=
  s.issue ((encSR 30#6 7#5 d a im (e ++ k)).setWidth 64) (.int .divu d a (.imm im) k (e == 1))

/-- R124. -/
def execVremVI (d a : Reg) (im : BitVec 5) (k : BitVec 3) (e : BitVec 1) (s : State) : Out :=
  s.issue ((encSR 30#6 8#5 d a im (e ++ k)).setWidth 64) (.int .rem d a (.imm im) k (e == 1))

/-- R124. -/
def execVremuVI (d a : Reg) (im : BitVec 5) (k : BitVec 3) (e : BitVec 1) (s : State) : Out :=
  s.issue ((encSR 30#6 9#5 d a im (e ++ k)).setWidth 64) (.int .remu d a (.imm im) k (e == 1))

/-- R124. -/
def execVminVI (d a : Reg) (im : BitVec 5) (k : BitVec 3) (e : BitVec 1) (s : State) : Out :=
  s.issue ((encSR 30#6 10#5 d a im (e ++ k)).setWidth 64) (.int .min d a (.imm im) k (e == 1))

/-- R124. -/
def execVmaxVI (d a : Reg) (im : BitVec 5) (k : BitVec 3) (e : BitVec 1) (s : State) : Out :=
  s.issue ((encSR 30#6 11#5 d a im (e ++ k)).setWidth 64) (.int .max d a (.imm im) k (e == 1))

/-- R124. -/
def execVminuVI (d a : Reg) (im : BitVec 5) (k : BitVec 3) (e : BitVec 1) (s : State) : Out :=
  s.issue ((encSR 30#6 12#5 d a im (e ++ k)).setWidth 64) (.int .minu d a (.imm im) k (e == 1))

/-- R124. -/
def execVmaxuVI (d a : Reg) (im : BitVec 5) (k : BitVec 3) (e : BitVec 1) (s : State) : Out :=
  s.issue ((encSR 30#6 13#5 d a im (e ++ k)).setWidth 64) (.int .maxu d a (.imm im) k (e == 1))

/-- R124. -/
def execVandVI (d a : Reg) (im : BitVec 5) (k : BitVec 3) (e : BitVec 1) (s : State) : Out :=
  s.issue ((encSR 30#6 14#5 d a im (e ++ k)).setWidth 64) (.int .and d a (.imm im) k (e == 1))

/-- R124. -/
def execVorVI (d a : Reg) (im : BitVec 5) (k : BitVec 3) (e : BitVec 1) (s : State) : Out :=
  s.issue ((encSR 30#6 15#5 d a im (e ++ k)).setWidth 64) (.int .or d a (.imm im) k (e == 1))

/-- R124. -/
def execVxorVI (d a : Reg) (im : BitVec 5) (k : BitVec 3) (e : BitVec 1) (s : State) : Out :=
  s.issue ((encSR 30#6 16#5 d a im (e ++ k)).setWidth 64) (.int .xor d a (.imm im) k (e == 1))

/-- R124. -/
def execVsllVI (d a : Reg) (im : BitVec 5) (k : BitVec 3) (e : BitVec 1) (s : State) : Out :=
  s.issue ((encSR 30#6 17#5 d a im (e ++ k)).setWidth 64) (.int .sll d a (.imm im) k (e == 1))

/-- R124. -/
def execVsrlVI (d a : Reg) (im : BitVec 5) (k : BitVec 3) (e : BitVec 1) (s : State) : Out :=
  s.issue ((encSR 30#6 18#5 d a im (e ++ k)).setWidth 64) (.int .srl d a (.imm im) k (e == 1))

/-- R124. -/
def execVsraVI (d a : Reg) (im : BitVec 5) (k : BitVec 3) (e : BitVec 1) (s : State) : Out :=
  s.issue ((encSR 30#6 19#5 d a im (e ++ k)).setWidth 64) (.int .sra d a (.imm im) k (e == 1))

/-- R124. -/
def execVsaddVI (d a : Reg) (im : BitVec 5) (k : BitVec 3) (e : BitVec 1) (s : State) : Out :=
  s.issue ((encSR 30#6 20#5 d a im (e ++ k)).setWidth 64) (.int .sadd d a (.imm im) k (e == 1))

/-- R124. -/
def execVssubVI (d a : Reg) (im : BitVec 5) (k : BitVec 3) (e : BitVec 1) (s : State) : Out :=
  s.issue ((encSR 30#6 21#5 d a im (e ++ k)).setWidth 64) (.int .ssub d a (.imm im) k (e == 1))

/-- R124. -/
def execVsadduVI (d a : Reg) (im : BitVec 5) (k : BitVec 3) (e : BitVec 1) (s : State) : Out :=
  s.issue ((encSR 30#6 22#5 d a im (e ++ k)).setWidth 64) (.int .saddu d a (.imm im) k (e == 1))

/-- R124. -/
def execVssubuVI (d a : Reg) (im : BitVec 5) (k : BitVec 3) (e : BitVec 1) (s : State) : Out :=
  s.issue ((encSR 30#6 23#5 d a im (e ++ k)).setWidth 64) (.int .ssubu d a (.imm im) k (e == 1))

/-- R124. -/
def execVmaccVI (d a : Reg) (im : BitVec 5) (k : BitVec 3) (e : BitVec 1) (s : State) : Out :=
  s.issue ((encSR 30#6 24#5 d a im (e ++ k)).setWidth 64) (.int .macc d a (.imm im) k (e == 1))

end Sys2Proof.Machine
end

