-- ==== Sys2Proof/Machine/VectorMask.lean ====
section
/-! DEFINITION. Mask functions (R127). -/

namespace Sys2Proof.Machine

/-- R127. -/
def execKand (d a b : Reg) (s : State) : Out :=
  s.issue ((encSR 34#6 0#5 d a b 0#4).setWidth 64) (.kop .and d a b)

/-- R127. -/
def execKor (d a b : Reg) (s : State) : Out :=
  s.issue ((encSR 34#6 1#5 d a b 0#4).setWidth 64) (.kop .or d a b)

/-- R127. -/
def execKxor (d a b : Reg) (s : State) : Out :=
  s.issue ((encSR 34#6 2#5 d a b 0#4).setWidth 64) (.kop .xor d a b)

/-- R127. -/
def execKandn (d a b : Reg) (s : State) : Out :=
  s.issue ((encSR 34#6 3#5 d a b 0#4).setWidth 64) (.kop .andn d a b)

/-- R127. -/
def execKnot (d a : Reg) (s : State) : Out :=
  s.issue ((encSR 34#6 4#5 d a 0#5 0#4).setWidth 64) (.kop .not d a 0)

/-- R127. -/
def execKset (d : Reg) (s : State) : Out :=
  s.issue ((encSR 34#6 5#5 d 0#5 0#5 0#4).setWidth 64) (.kop .set d 0 0)

/-- R127. -/
def execKclr (d : Reg) (s : State) : Out :=
  s.issue ((encSR 34#6 6#5 d 0#5 0#5 0#4).setWidth 64) (.kop .clr d 0 0)

/-- R127. -/
def execKmov (d a : Reg) (s : State) : Out :=
  s.issue ((encSR 34#6 7#5 d a 0#5 0#4).setWidth 64) (.kop .mov d a 0)

/-- R127. -/
def execKpop (d a : Reg) (s : State) : Out :=
  s.issue ((encSR 34#6 8#5 d a 0#5 0#4).setWidth 64) (.kop .pop d a 0)

/-- R127. -/
def execKfirst (d a : Reg) (s : State) : Out :=
  s.issue ((encSR 34#6 9#5 d a 0#5 0#4).setWidth 64) (.kop .first d a 0)

/-- R127. -/
def execKfromv (d a : Reg) (s : State) : Out :=
  s.issue ((encSR 34#6 10#5 d a 0#5 0#4).setWidth 64) (.kop .fromv d a 0)

/-- R127. -/
def execKtov (d a : Reg) (s : State) : Out :=
  s.issue ((encSR 34#6 11#5 d a 0#5 0#4).setWidth 64) (.kop .tov d a 0)

/-- R127. -/
def execKlt (d a b : Reg) (s : State) : Out :=
  s.issue ((encSR 34#6 12#5 d a b 0#4).setWidth 64) (.kop .lt d a b)

/-- R127. -/
def execKblk (d a b : Reg) (s : State) : Out :=
  s.issue ((encSR 34#6 13#5 d a b 0#4).setWidth 64) (.kop .blk d a b)

/-- R127. -/
def execKenc (d a : Reg) (c : BitVec 5) (s : State) : Out :=
  s.issue ((encSR 34#6 14#5 d a c 0#4).setWidth 64) (.kop .enc d a c)

end Sys2Proof.Machine
end

