-- ==== Sys2Proof/Machine/VectorMemory.lean ====
section
/-! DEFINITION. Vector memory forms (R133 to R158). -/

namespace Sys2Proof.Machine

/-- R137. -/
def execVld (d a : Reg) (t : BitVec 2) (k : BitVec 3) (o : BitVec 1) (s : State) : Out :=
  s.issue ((encVM 39#6 0#3 d a 0#5 k o t).setWidth 64) (.mem .ld d a 0 k (o == 1) t 0)

/-- R137. -/
def execVlds (d a b : Reg) (t : BitVec 2) (k : BitVec 3) (o : BitVec 1) (s : State) : Out :=
  s.issue ((encVM 39#6 1#3 d a b k o t).setWidth 64) (.mem .lds d a b k (o == 1) t 0)

/-- R137. -/
def execVldx (d a b : Reg) (t : BitVec 2) (k : BitVec 3) (o : BitVec 1) (s : State) : Out :=
  s.issue ((encVM 39#6 2#3 d a b k o t).setWidth 64) (.mem .ldx d a b k (o == 1) t 0)

/-- R145. -/
def execVldff (d a : Reg) (t : BitVec 2) (k : BitVec 3) (o : BitVec 1) (s : State) : Out :=
  s.issue ((encVM 39#6 3#3 d a 0#5 k o t).setWidth 64) (.mem .ldff d a 0 k (o == 1) t 0)

/-- R146. -/
def execVld3 (d a : Reg) (t : BitVec 2) (k : BitVec 3) (o : BitVec 1) (s : State) : Out :=
  s.issue ((encVM 39#6 4#3 d a 0#5 k o t).setWidth 64) (.mem .ld3 d a 0 k (o == 1) t 0)

/-- R148. -/
def execVldc (d a b : Reg) (t : BitVec 2) (s : State) : Out :=
  s.issue ((encVM 39#6 5#3 d a b 0#3 0#1 t).setWidth 64) (.mem .ldc d a b 0 false t 0)

/-- R138. -/
def execVst (d a : Reg) (t : BitVec 2) (k : BitVec 3) (o : BitVec 1) (s : State) : Out :=
  s.issue ((encVM 40#6 0#3 d a 0#5 k o t).setWidth 64) (.mem .st d a 0 k (o == 1) t 0)

/-- R138. -/
def execVsts (d a b : Reg) (t : BitVec 2) (k : BitVec 3) (o : BitVec 1) (s : State) : Out :=
  s.issue ((encVM 40#6 1#3 d a b k o t).setWidth 64) (.mem .sts d a b k (o == 1) t 0)

/-- R138. -/
def execVstx (d a b : Reg) (t : BitVec 2) (k : BitVec 3) (o : BitVec 1) (s : State) : Out :=
  s.issue ((encVM 40#6 2#3 d a b k o t).setWidth 64) (.mem .stx d a b k (o == 1) t 0)

/-- R146. -/
def execVst3 (d a : Reg) (t : BitVec 2) (k : BitVec 3) (o : BitVec 1) (s : State) : Out :=
  s.issue ((encVM 40#6 3#3 d a 0#5 k o t).setWidth 64) (.mem .st3 d a 0 k (o == 1) t 0)

/-- R149. -/
def execVstc (d a b : Reg) (t : BitVec 2) (s : State) : Out :=
  s.issue ((encVM 40#6 4#3 d a b 0#3 0#1 t).setWidth 64) (.mem .stc d a b 0 false t 0)

/-- R151. -/
def execVscadd (d a b : Reg) (t : BitVec 2) (k : BitVec 3) (s : State) : Out :=
  s.issue ((encVM 40#6 5#3 d a b k 0#1 t).setWidth 64) (.mem .scadd d a b k false t 0)

/-- R152. -/
def execVscfadd (d a b : Reg) (t : BitVec 2) (k : BitVec 3) (s : State) : Out :=
  s.issue ((encVM 40#6 6#3 d a b k 0#1 t).setWidth 64) (.mem .scfadd d a b k false t 0)

/-- R153. -/
def execVgacq (d a b : Reg) (x : BitVec 4) (s : State) : Out :=
  s.issue ((encSR 41#6 0#5 d a b x).setWidth 64) (.mem .gacq d a b 0 false 0 x)

/-- R154. -/
def execVsrel (d a b : Reg) (x : BitVec 4) (s : State) : Out :=
  s.issue ((encSR 41#6 1#5 d a b x).setWidth 64) (.mem .srel d a b 0 false 0 x)

end Sys2Proof.Machine
end

