-- ==== Sys2Proof/Machine/VectorPermute.lean ====
section
/-! DEFINITION. Row functions (R129, R130). -/

namespace Sys2Proof.Machine

/-- R129. -/
def execVmov (d a : Reg) (k : BitVec 3) (e : BitVec 1) (s : State) : Out :=
  s.issue ((encSR 36#6 0#5 d a 0#5 (e ++ k)).setWidth 64) (.perm .mov d a 0 k (e == 1))

/-- R129. -/
def execVsplat (d a : Reg) (k : BitVec 3) (e : BitVec 1) (s : State) : Out :=
  s.issue ((encSR 36#6 1#5 d a 0#5 (e ++ k)).setWidth 64) (.perm .splat d a 0 k (e == 1))

/-- R129. -/
def execViota (d a : Reg) (k : BitVec 3) (e : BitVec 1) (s : State) : Out :=
  s.issue ((encSR 36#6 2#5 d a 0#5 (e ++ k)).setWidth 64) (.perm .iota d a 0 k (e == 1))

/-- R129. -/
def execVslup (d a b : Reg) (k : BitVec 3) (e : BitVec 1) (s : State) : Out :=
  s.issue ((encSR 36#6 3#5 d a b (e ++ k)).setWidth 64) (.perm .slup d a b k (e == 1))

/-- R129. -/
def execVsldn (d a b : Reg) (k : BitVec 3) (e : BitVec 1) (s : State) : Out :=
  s.issue ((encSR 36#6 4#5 d a b (e ++ k)).setWidth 64) (.perm .sldn d a b k (e == 1))

/-- R129. -/
def execVrgath (d a b : Reg) (k : BitVec 3) (e : BitVec 1) (s : State) : Out :=
  s.issue ((encSR 36#6 5#5 d a b (e ++ k)).setWidth 64) (.perm .rgath d a b k (e == 1))

/-- R129. -/
def execVcmprs (d a : Reg) (k : BitVec 3) (e : BitVec 1) (s : State) : Out :=
  s.issue ((encSR 36#6 6#5 d a 0#5 (e ++ k)).setWidth 64) (.perm .cmprs d a 0 k (e == 1))

/-- R130. -/
def execVenc (d a b : Reg) (s : State) : Out :=
  s.issue ((encSR 36#6 7#5 d a b 0#4).setWidth 64) (.perm .enc d a b 0 false)

/-- R129. -/
def execVeinfo (d a : Reg) (e : BitVec 1) (s : State) : Out :=
  s.issue ((encSR 36#6 8#5 d a 0#5 (e ++ 0#3)).setWidth 64) (.perm .einfo d a 0 0 (e == 1))

/-- R129. -/
def execVextr (d a b : Reg) (e : BitVec 1) (s : State) : Out :=
  s.issue ((encSR 36#6 9#5 d a b (e ++ 0#3)).setWidth 64) (.perm .extr d a b 0 (e == 1))

/-- R129. -/
def execVins (d a b : Reg) (e : BitVec 1) (s : State) : Out :=
  s.issue ((encSR 36#6 10#5 d a b (e ++ 0#3)).setWidth 64) (.perm .ins d a b 0 (e == 1))

end Sys2Proof.Machine
end

