-- ==== Sys2Proof/Machine/VectorReduce.lean ====
section
/-! DEFINITION. Reductions and scans (R56, R57, R128). -/

namespace Sys2Proof.Machine

/-- R128. -/
def execVredsum (d a : Reg) (k : BitVec 3) (e : BitVec 1) (s : State) : Out :=
  s.issue ((encSR 35#6 0#5 d a 0#5 (e ++ k)).setWidth 64) (.red .sum d a k)

/-- R128. -/
def execVredmin (d a : Reg) (k : BitVec 3) (e : BitVec 1) (s : State) : Out :=
  s.issue ((encSR 35#6 1#5 d a 0#5 (e ++ k)).setWidth 64) (.red .min d a k)

/-- R128. -/
def execVredmax (d a : Reg) (k : BitVec 3) (e : BitVec 1) (s : State) : Out :=
  s.issue ((encSR 35#6 2#5 d a 0#5 (e ++ k)).setWidth 64) (.red .max d a k)

/-- R128. -/
def execVredminu (d a : Reg) (k : BitVec 3) (e : BitVec 1) (s : State) : Out :=
  s.issue ((encSR 35#6 3#5 d a 0#5 (e ++ k)).setWidth 64) (.red .minu d a k)

/-- R128. -/
def execVredmaxu (d a : Reg) (k : BitVec 3) (e : BitVec 1) (s : State) : Out :=
  s.issue ((encSR 35#6 4#5 d a 0#5 (e ++ k)).setWidth 64) (.red .maxu d a k)

/-- R128. -/
def execVredand (d a : Reg) (k : BitVec 3) (e : BitVec 1) (s : State) : Out :=
  s.issue ((encSR 35#6 5#5 d a 0#5 (e ++ k)).setWidth 64) (.red .and d a k)

/-- R128. -/
def execVredor (d a : Reg) (k : BitVec 3) (e : BitVec 1) (s : State) : Out :=
  s.issue ((encSR 35#6 6#5 d a 0#5 (e ++ k)).setWidth 64) (.red .or d a k)

/-- R56. -/
def execVfredsum (d a : Reg) (k : BitVec 3) (e : BitVec 1) (s : State) : Out :=
  s.issue ((encSR 35#6 7#5 d a 0#5 (e ++ k)).setWidth 64) (.red .fsum d a k)

/-- R128. -/
def execVfredmin (d a : Reg) (k : BitVec 3) (e : BitVec 1) (s : State) : Out :=
  s.issue ((encSR 35#6 8#5 d a 0#5 (e ++ k)).setWidth 64) (.red .fmin d a k)

/-- R128. -/
def execVfredmax (d a : Reg) (k : BitVec 3) (e : BitVec 1) (s : State) : Out :=
  s.issue ((encSR 35#6 9#5 d a 0#5 (e ++ k)).setWidth 64) (.red .fmax d a k)

/-- R128. -/
def execVscan (d a : Reg) (k : BitVec 3) (e : BitVec 1) (s : State) : Out :=
  s.issue ((encSR 35#6 10#5 d a 0#5 (e ++ k)).setWidth 64) (.red .scan d a k)

/-- R57. -/
def execVfscan (d a : Reg) (k : BitVec 3) (e : BitVec 1) (s : State) : Out :=
  s.issue ((encSR 35#6 11#5 d a 0#5 (e ++ k)).setWidth 64) (.red .fscan d a k)

/-- R57. -/
def execVfredsumo (d a : Reg) (k : BitVec 3) (e : BitVec 1) (s : State) : Out :=
  s.issue ((encSR 35#6 12#5 d a 0#5 (e ++ k)).setWidth 64) (.red .fsumo d a k)

end Sys2Proof.Machine
end

