-- ==== Sys2Proof/Machine/Dispatch.lean ====
section
/-! DEFINITION. What each instruction and each step of the module does: one arm per constructor. -/

namespace Sys2Proof.Machine

/-- Runs one instruction, or one step of the module. -/
def exec (i : Instr) (s : State) : Host.Outcome State Fault Refusal :=
  match i with
  | .add d a b => Sys2Proof.Machine.execAdd d a b s
  | .sub d a b => Sys2Proof.Machine.execSub d a b s
  | .and d a b => Sys2Proof.Machine.execAnd d a b s
  | .or d a b => Sys2Proof.Machine.execOr d a b s
  | .xor d a b => Sys2Proof.Machine.execXor d a b s
  | .andn d a b => Sys2Proof.Machine.execAndn d a b s
  | .sll d a b => Sys2Proof.Machine.execSll d a b s
  | .srl d a b => Sys2Proof.Machine.execSrl d a b s
  | .sra d a b => Sys2Proof.Machine.execSra d a b s
  | .slt d a b => Sys2Proof.Machine.execSlt d a b s
  | .sltu d a b => Sys2Proof.Machine.execSltu d a b s
  | .min d a b => Sys2Proof.Machine.execMin d a b s
  | .max d a b => Sys2Proof.Machine.execMax d a b s
  | .minu d a b => Sys2Proof.Machine.execMinu d a b s
  | .maxu d a b => Sys2Proof.Machine.execMaxu d a b s
  | .mul d a b => Sys2Proof.Machine.execMul d a b s
  | .mulh d a b => Sys2Proof.Machine.execMulh d a b s
  | .mulhu d a b => Sys2Proof.Machine.execMulhu d a b s
  | .div d a b => Sys2Proof.Machine.execDiv d a b s
  | .divu d a b => Sys2Proof.Machine.execDivu d a b s
  | .rem d a b => Sys2Proof.Machine.execRem d a b s
  | .remu d a b => Sys2Proof.Machine.execRemu d a b s
  | .clz d a => Sys2Proof.Machine.execClz d a s
  | .ctz d a => Sys2Proof.Machine.execCtz d a s
  | .popc d a => Sys2Proof.Machine.execPopc d a s
  | .addw d a b => Sys2Proof.Machine.execAddw d a b s
  | .subw d a b => Sys2Proof.Machine.execSubw d a b s
  | .addi d a im => Sys2Proof.Machine.execAddi d a im s
  | .andi d a im => Sys2Proof.Machine.execAndi d a im s
  | .ori d a im => Sys2Proof.Machine.execOri d a im s
  | .xori d a im => Sys2Proof.Machine.execXori d a im s
  | .slli d a sh => Sys2Proof.Machine.execSlli d a sh s
  | .srli d a sh => Sys2Proof.Machine.execSrli d a sh s
  | .srai d a sh => Sys2Proof.Machine.execSrai d a sh s
  | .slti d a im => Sys2Proof.Machine.execSlti d a im s
  | .lui d im => Sys2Proof.Machine.execLui d im s
  | .addpc d im => Sys2Proof.Machine.execAddpc d im s
  | .beq a b o => Sys2Proof.Machine.execBeq a b o s
  | .bne a b o => Sys2Proof.Machine.execBne a b o s
  | .blt a b o => Sys2Proof.Machine.execBlt a b o s
  | .bge a b o => Sys2Proof.Machine.execBge a b o s
  | .bltu a b o => Sys2Proof.Machine.execBltu a b o s
  | .bgeu a b o => Sys2Proof.Machine.execBgeu a b o s
  | .jal d o => Sys2Proof.Machine.execJal d o s
  | .jalr d a im => Sys2Proof.Machine.execJalr d a im s
  | .lb d a im => Sys2Proof.Machine.execLb d a im s
  | .lh d a im => Sys2Proof.Machine.execLh d a im s
  | .lw d a im => Sys2Proof.Machine.execLw d a im s
  | .ld d a im => Sys2Proof.Machine.execLd d a im s
  | .lbz d a im => Sys2Proof.Machine.execLbz d a im s
  | .lhz d a im => Sys2Proof.Machine.execLhz d a im s
  | .lwz d a im => Sys2Proof.Machine.execLwz d a im s
  | .sb d a im => Sys2Proof.Machine.execSb d a im s
  | .sh d a im => Sys2Proof.Machine.execSh d a im s
  | .sw d a im => Sys2Proof.Machine.execSw d a im s
  | .sd d a im => Sys2Proof.Machine.execSd d a im s
  | .amoswap d a b x o => Sys2Proof.Machine.execAmoswap d a b x o s
  | .amoadd d a b x o => Sys2Proof.Machine.execAmoadd d a b x o s
  | .amoand d a b x o => Sys2Proof.Machine.execAmoand d a b x o s
  | .amoor d a b x o => Sys2Proof.Machine.execAmoor d a b x o s
  | .amoxor d a b x o => Sys2Proof.Machine.execAmoxor d a b x o s
  | .amomin d a b x o => Sys2Proof.Machine.execAmomin d a b x o s
  | .amomax d a b x o => Sys2Proof.Machine.execAmomax d a b x o s
  | .amocas d a b x o => Sys2Proof.Machine.execAmocas d a b x o s
  | .amowswap d a b x o => Sys2Proof.Machine.execAmowswap d a b x o s
  | .amowadd d a b x o => Sys2Proof.Machine.execAmowadd d a b x o s
  | .amowand d a b x o => Sys2Proof.Machine.execAmowand d a b x o s
  | .amowor d a b x o => Sys2Proof.Machine.execAmowor d a b x o s
  | .amowxor d a b x o => Sys2Proof.Machine.execAmowxor d a b x o s
  | .amowmin d a b x o => Sys2Proof.Machine.execAmowmin d a b x o s
  | .amowmax d a b x o => Sys2Proof.Machine.execAmowmax d a b x o s
  | .amowcas d a b x o => Sys2Proof.Machine.execAmowcas d a b x o s
  | .lda d a x => Sys2Proof.Machine.execLda d a x s
  | .lwa d a x => Sys2Proof.Machine.execLwa d a x s
  | .stl a b x => Sys2Proof.Machine.execStl a b x s
  | .swl a b x => Sys2Proof.Machine.execSwl a b x s
  | .fence x => Sys2Proof.Machine.execFence x s
  | .fenceSV x => Sys2Proof.Machine.execFenceSV x s
  | .fenceVS x => Sys2Proof.Machine.execFenceVS x s
  | .fenceVV x => Sys2Proof.Machine.execFenceVV x s
  | .fenceSS x => Sys2Proof.Machine.execFenceSS x s
  | .fenceI => Sys2Proof.Machine.execFenceI s
  | .getsr d n => Sys2Proof.Machine.execGetsr d n s
  | .putsr a n => Sys2Proof.Machine.execPutsr a n s
  | .swapsr d a n => Sys2Proof.Machine.execSwapsr d a n s
  | .setsrb d a n => Sys2Proof.Machine.execSetsrb d a n s
  | .clrsrb d a n => Sys2Proof.Machine.execClrsrb d a n s
  | .trap a n => Sys2Proof.Machine.execTrap a n s
  | .tret => Sys2Proof.Machine.execTret s
  | .wfe d => Sys2Proof.Machine.execWfe d s
  | .endHart => Sys2Proof.Machine.execEndHart s
  | .yieldpt a sh => Sys2Proof.Machine.execYieldpt a sh s
  | .halt => Sys2Proof.Machine.execHalt s
  | .brkpt n => Sys2Proof.Machine.execBrkpt n s
  | .fadd d a b => Sys2Proof.Machine.execFadd d a b s
  | .fsub d a b => Sys2Proof.Machine.execFsub d a b s
  | .fmul d a b => Sys2Proof.Machine.execFmul d a b s
  | .fdiv d a b => Sys2Proof.Machine.execFdiv d a b s
  | .fmin d a b => Sys2Proof.Machine.execFmin d a b s
  | .fmax d a b => Sys2Proof.Machine.execFmax d a b s
  | .fsqrt d a => Sys2Proof.Machine.execFsqrt d a s
  | .fcvtFI d a => Sys2Proof.Machine.execFcvtFI d a s
  | .fcvtIF d a => Sys2Proof.Machine.execFcvtIF d a s
  | .feq d a b => Sys2Proof.Machine.execFeq d a b s
  | .flt d a b => Sys2Proof.Machine.execFlt d a b s
  | .fle d a b => Sys2Proof.Machine.execFle d a b s
  | .setvl d a c => Sys2Proof.Machine.execSetvl d a c s
  | .setvlr d a b => Sys2Proof.Machine.execSetvlr d a b s
  | .setrc d a => Sys2Proof.Machine.execSetrc d a s
  | .setdim a b n => Sys2Proof.Machine.execSetdim a b n s
  | .vaddVV d a b k e => Sys2Proof.Machine.execVaddVV d a b k e s
  | .vsubVV d a b k e => Sys2Proof.Machine.execVsubVV d a b k e s
  | .vrsubVV d a b k e => Sys2Proof.Machine.execVrsubVV d a b k e s
  | .vmulVV d a b k e => Sys2Proof.Machine.execVmulVV d a b k e s
  | .vmulhVV d a b k e => Sys2Proof.Machine.execVmulhVV d a b k e s
  | .vmulhuVV d a b k e => Sys2Proof.Machine.execVmulhuVV d a b k e s
  | .vdivVV d a b k e => Sys2Proof.Machine.execVdivVV d a b k e s
  | .vdivuVV d a b k e => Sys2Proof.Machine.execVdivuVV d a b k e s
  | .vremVV d a b k e => Sys2Proof.Machine.execVremVV d a b k e s
  | .vremuVV d a b k e => Sys2Proof.Machine.execVremuVV d a b k e s
  | .vminVV d a b k e => Sys2Proof.Machine.execVminVV d a b k e s
  | .vmaxVV d a b k e => Sys2Proof.Machine.execVmaxVV d a b k e s
  | .vminuVV d a b k e => Sys2Proof.Machine.execVminuVV d a b k e s
  | .vmaxuVV d a b k e => Sys2Proof.Machine.execVmaxuVV d a b k e s
  | .vandVV d a b k e => Sys2Proof.Machine.execVandVV d a b k e s
  | .vorVV d a b k e => Sys2Proof.Machine.execVorVV d a b k e s
  | .vxorVV d a b k e => Sys2Proof.Machine.execVxorVV d a b k e s
  | .vsllVV d a b k e => Sys2Proof.Machine.execVsllVV d a b k e s
  | .vsrlVV d a b k e => Sys2Proof.Machine.execVsrlVV d a b k e s
  | .vsraVV d a b k e => Sys2Proof.Machine.execVsraVV d a b k e s
  | .vsaddVV d a b k e => Sys2Proof.Machine.execVsaddVV d a b k e s
  | .vssubVV d a b k e => Sys2Proof.Machine.execVssubVV d a b k e s
  | .vsadduVV d a b k e => Sys2Proof.Machine.execVsadduVV d a b k e s
  | .vssubuVV d a b k e => Sys2Proof.Machine.execVssubuVV d a b k e s
  | .vmaccVV d a b k e => Sys2Proof.Machine.execVmaccVV d a b k e s
  | .vabs d a k e => Sys2Proof.Machine.execVabs d a k e s
  | .vneg d a k e => Sys2Proof.Machine.execVneg d a k e s
  | .vaddVS d a b k e => Sys2Proof.Machine.execVaddVS d a b k e s
  | .vsubVS d a b k e => Sys2Proof.Machine.execVsubVS d a b k e s
  | .vrsubVS d a b k e => Sys2Proof.Machine.execVrsubVS d a b k e s
  | .vmulVS d a b k e => Sys2Proof.Machine.execVmulVS d a b k e s
  | .vmulhVS d a b k e => Sys2Proof.Machine.execVmulhVS d a b k e s
  | .vmulhuVS d a b k e => Sys2Proof.Machine.execVmulhuVS d a b k e s
  | .vdivVS d a b k e => Sys2Proof.Machine.execVdivVS d a b k e s
  | .vdivuVS d a b k e => Sys2Proof.Machine.execVdivuVS d a b k e s
  | .vremVS d a b k e => Sys2Proof.Machine.execVremVS d a b k e s
  | .vremuVS d a b k e => Sys2Proof.Machine.execVremuVS d a b k e s
  | .vminVS d a b k e => Sys2Proof.Machine.execVminVS d a b k e s
  | .vmaxVS d a b k e => Sys2Proof.Machine.execVmaxVS d a b k e s
  | .vminuVS d a b k e => Sys2Proof.Machine.execVminuVS d a b k e s
  | .vmaxuVS d a b k e => Sys2Proof.Machine.execVmaxuVS d a b k e s
  | .vandVS d a b k e => Sys2Proof.Machine.execVandVS d a b k e s
  | .vorVS d a b k e => Sys2Proof.Machine.execVorVS d a b k e s
  | .vxorVS d a b k e => Sys2Proof.Machine.execVxorVS d a b k e s
  | .vsllVS d a b k e => Sys2Proof.Machine.execVsllVS d a b k e s
  | .vsrlVS d a b k e => Sys2Proof.Machine.execVsrlVS d a b k e s
  | .vsraVS d a b k e => Sys2Proof.Machine.execVsraVS d a b k e s
  | .vsaddVS d a b k e => Sys2Proof.Machine.execVsaddVS d a b k e s
  | .vssubVS d a b k e => Sys2Proof.Machine.execVssubVS d a b k e s
  | .vsadduVS d a b k e => Sys2Proof.Machine.execVsadduVS d a b k e s
  | .vssubuVS d a b k e => Sys2Proof.Machine.execVssubuVS d a b k e s
  | .vmaccVS d a b k e => Sys2Proof.Machine.execVmaccVS d a b k e s
  | .vaddVI d a im k e => Sys2Proof.Machine.execVaddVI d a im k e s
  | .vsubVI d a im k e => Sys2Proof.Machine.execVsubVI d a im k e s
  | .vrsubVI d a im k e => Sys2Proof.Machine.execVrsubVI d a im k e s
  | .vmulVI d a im k e => Sys2Proof.Machine.execVmulVI d a im k e s
  | .vmulhVI d a im k e => Sys2Proof.Machine.execVmulhVI d a im k e s
  | .vmulhuVI d a im k e => Sys2Proof.Machine.execVmulhuVI d a im k e s
  | .vdivVI d a im k e => Sys2Proof.Machine.execVdivVI d a im k e s
  | .vdivuVI d a im k e => Sys2Proof.Machine.execVdivuVI d a im k e s
  | .vremVI d a im k e => Sys2Proof.Machine.execVremVI d a im k e s
  | .vremuVI d a im k e => Sys2Proof.Machine.execVremuVI d a im k e s
  | .vminVI d a im k e => Sys2Proof.Machine.execVminVI d a im k e s
  | .vmaxVI d a im k e => Sys2Proof.Machine.execVmaxVI d a im k e s
  | .vminuVI d a im k e => Sys2Proof.Machine.execVminuVI d a im k e s
  | .vmaxuVI d a im k e => Sys2Proof.Machine.execVmaxuVI d a im k e s
  | .vandVI d a im k e => Sys2Proof.Machine.execVandVI d a im k e s
  | .vorVI d a im k e => Sys2Proof.Machine.execVorVI d a im k e s
  | .vxorVI d a im k e => Sys2Proof.Machine.execVxorVI d a im k e s
  | .vsllVI d a im k e => Sys2Proof.Machine.execVsllVI d a im k e s
  | .vsrlVI d a im k e => Sys2Proof.Machine.execVsrlVI d a im k e s
  | .vsraVI d a im k e => Sys2Proof.Machine.execVsraVI d a im k e s
  | .vsaddVI d a im k e => Sys2Proof.Machine.execVsaddVI d a im k e s
  | .vssubVI d a im k e => Sys2Proof.Machine.execVssubVI d a im k e s
  | .vsadduVI d a im k e => Sys2Proof.Machine.execVsadduVI d a im k e s
  | .vssubuVI d a im k e => Sys2Proof.Machine.execVssubuVI d a im k e s
  | .vmaccVI d a im k e => Sys2Proof.Machine.execVmaccVI d a im k e s
  | .vfaddVV d a b k e => Sys2Proof.Machine.execVfaddVV d a b k e s
  | .vfsubVV d a b k e => Sys2Proof.Machine.execVfsubVV d a b k e s
  | .vfmulVV d a b k e => Sys2Proof.Machine.execVfmulVV d a b k e s
  | .vfdivVV d a b k e => Sys2Proof.Machine.execVfdivVV d a b k e s
  | .vfminVV d a b k e => Sys2Proof.Machine.execVfminVV d a b k e s
  | .vfmaxVV d a b k e => Sys2Proof.Machine.execVfmaxVV d a b k e s
  | .vfmaVV d a b k e => Sys2Proof.Machine.execVfmaVV d a b k e s
  | .vfnmsVV d a b k e => Sys2Proof.Machine.execVfnmsVV d a b k e s
  | .vfsqrt d a k e => Sys2Proof.Machine.execVfsqrt d a k e s
  | .vfabs d a k e => Sys2Proof.Machine.execVfabs d a k e s
  | .vfneg d a k e => Sys2Proof.Machine.execVfneg d a k e s
  | .vfrnd d a k e => Sys2Proof.Machine.execVfrnd d a k e s
  | .vfscaleVV d a b k e => Sys2Proof.Machine.execVfscaleVV d a b k e s
  | .vfclass d a k e => Sys2Proof.Machine.execVfclass d a k e s
  | .vfaddVS d a b k e => Sys2Proof.Machine.execVfaddVS d a b k e s
  | .vfsubVS d a b k e => Sys2Proof.Machine.execVfsubVS d a b k e s
  | .vfmulVS d a b k e => Sys2Proof.Machine.execVfmulVS d a b k e s
  | .vfdivVS d a b k e => Sys2Proof.Machine.execVfdivVS d a b k e s
  | .vfminVS d a b k e => Sys2Proof.Machine.execVfminVS d a b k e s
  | .vfmaxVS d a b k e => Sys2Proof.Machine.execVfmaxVS d a b k e s
  | .vfmaVS d a b k e => Sys2Proof.Machine.execVfmaVS d a b k e s
  | .vfnmsVS d a b k e => Sys2Proof.Machine.execVfnmsVS d a b k e s
  | .vfscaleVS d a b k e => Sys2Proof.Machine.execVfscaleVS d a b k e s
  | .vceqVV d a b k => Sys2Proof.Machine.execVceqVV d a b k s
  | .vcneVV d a b k => Sys2Proof.Machine.execVcneVV d a b k s
  | .vcltVV d a b k => Sys2Proof.Machine.execVcltVV d a b k s
  | .vcleVV d a b k => Sys2Proof.Machine.execVcleVV d a b k s
  | .vcltuVV d a b k => Sys2Proof.Machine.execVcltuVV d a b k s
  | .vcleuVV d a b k => Sys2Proof.Machine.execVcleuVV d a b k s
  | .vfceqVV d a b k => Sys2Proof.Machine.execVfceqVV d a b k s
  | .vfcltVV d a b k => Sys2Proof.Machine.execVfcltVV d a b k s
  | .vfcleVV d a b k => Sys2Proof.Machine.execVfcleVV d a b k s
  | .vfcunVV d a b k => Sys2Proof.Machine.execVfcunVV d a b k s
  | .vceqVS d a b k => Sys2Proof.Machine.execVceqVS d a b k s
  | .vcneVS d a b k => Sys2Proof.Machine.execVcneVS d a b k s
  | .vcltVS d a b k => Sys2Proof.Machine.execVcltVS d a b k s
  | .vcleVS d a b k => Sys2Proof.Machine.execVcleVS d a b k s
  | .vcltuVS d a b k => Sys2Proof.Machine.execVcltuVS d a b k s
  | .vcleuVS d a b k => Sys2Proof.Machine.execVcleuVS d a b k s
  | .vfceqVS d a b k => Sys2Proof.Machine.execVfceqVS d a b k s
  | .vfcltVS d a b k => Sys2Proof.Machine.execVfcltVS d a b k s
  | .vfcleVS d a b k => Sys2Proof.Machine.execVfcleVS d a b k s
  | .vfcunVS d a b k => Sys2Proof.Machine.execVfcunVS d a b k s
  | .kand d a b => Sys2Proof.Machine.execKand d a b s
  | .kor d a b => Sys2Proof.Machine.execKor d a b s
  | .kxor d a b => Sys2Proof.Machine.execKxor d a b s
  | .kandn d a b => Sys2Proof.Machine.execKandn d a b s
  | .knot d a => Sys2Proof.Machine.execKnot d a s
  | .kset d => Sys2Proof.Machine.execKset d s
  | .kclr d => Sys2Proof.Machine.execKclr d s
  | .kmov d a => Sys2Proof.Machine.execKmov d a s
  | .kpop d a => Sys2Proof.Machine.execKpop d a s
  | .kfirst d a => Sys2Proof.Machine.execKfirst d a s
  | .kfromv d a => Sys2Proof.Machine.execKfromv d a s
  | .ktov d a => Sys2Proof.Machine.execKtov d a s
  | .klt d a b => Sys2Proof.Machine.execKlt d a b s
  | .kblk d a b => Sys2Proof.Machine.execKblk d a b s
  | .kenc d a c => Sys2Proof.Machine.execKenc d a c s
  | .vredsum d a k e => Sys2Proof.Machine.execVredsum d a k e s
  | .vredmin d a k e => Sys2Proof.Machine.execVredmin d a k e s
  | .vredmax d a k e => Sys2Proof.Machine.execVredmax d a k e s
  | .vredminu d a k e => Sys2Proof.Machine.execVredminu d a k e s
  | .vredmaxu d a k e => Sys2Proof.Machine.execVredmaxu d a k e s
  | .vredand d a k e => Sys2Proof.Machine.execVredand d a k e s
  | .vredor d a k e => Sys2Proof.Machine.execVredor d a k e s
  | .vfredsum d a k e => Sys2Proof.Machine.execVfredsum d a k e s
  | .vfredmin d a k e => Sys2Proof.Machine.execVfredmin d a k e s
  | .vfredmax d a k e => Sys2Proof.Machine.execVfredmax d a k e s
  | .vscan d a k e => Sys2Proof.Machine.execVscan d a k e s
  | .vfscan d a k e => Sys2Proof.Machine.execVfscan d a k e s
  | .vfredsumo d a k e => Sys2Proof.Machine.execVfredsumo d a k e s
  | .vmov d a k e => Sys2Proof.Machine.execVmov d a k e s
  | .vsplat d a k e => Sys2Proof.Machine.execVsplat d a k e s
  | .viota d a k e => Sys2Proof.Machine.execViota d a k e s
  | .vslup d a b k e => Sys2Proof.Machine.execVslup d a b k e s
  | .vsldn d a b k e => Sys2Proof.Machine.execVsldn d a b k e s
  | .vrgath d a b k e => Sys2Proof.Machine.execVrgath d a b k e s
  | .vcmprs d a k e => Sys2Proof.Machine.execVcmprs d a k e s
  | .venc d a b => Sys2Proof.Machine.execVenc d a b s
  | .veinfo d a e => Sys2Proof.Machine.execVeinfo d a e s
  | .vextr d a b e => Sys2Proof.Machine.execVextr d a b e s
  | .vins d a b e => Sys2Proof.Machine.execVins d a b e s
  | .vcvt d a sh t k e => Sys2Proof.Machine.execVcvt d a sh t k e s
  | .vtabld a => Sys2Proof.Machine.execVtabld a s
  | .vlatd d a b k e => Sys2Proof.Machine.execVlatd d a b k e s
  | .vdictg d a k e => Sys2Proof.Machine.execVdictg d a k e s
  | .vtabst d => Sys2Proof.Machine.execVtabst d s
  | .vld d a t k o => Sys2Proof.Machine.execVld d a t k o s
  | .vlds d a b t k o => Sys2Proof.Machine.execVlds d a b t k o s
  | .vldx d a b t k o => Sys2Proof.Machine.execVldx d a b t k o s
  | .vldff d a t k o => Sys2Proof.Machine.execVldff d a t k o s
  | .vld3 d a t k o => Sys2Proof.Machine.execVld3 d a t k o s
  | .vldc d a b t => Sys2Proof.Machine.execVldc d a b t s
  | .vst d a t k o => Sys2Proof.Machine.execVst d a t k o s
  | .vsts d a b t k o => Sys2Proof.Machine.execVsts d a b t k o s
  | .vstx d a b t k o => Sys2Proof.Machine.execVstx d a b t k o s
  | .vst3 d a t k o => Sys2Proof.Machine.execVst3 d a t k o s
  | .vstc d a b t => Sys2Proof.Machine.execVstc d a b t s
  | .vscadd d a b t k => Sys2Proof.Machine.execVscadd d a b t k s
  | .vscfadd d a b t k => Sys2Proof.Machine.execVscfadd d a b t k s
  | .vgacq d a b x => Sys2Proof.Machine.execVgacq d a b x s
  | .vsrel d a b x => Sys2Proof.Machine.execVsrel d a b x s
  | .tkpost a => Sys2Proof.Machine.execTkpost a s
  | .tkwait a => Sys2Proof.Machine.execTkwait a s
  | .lpinfo d => Sys2Proof.Machine.execLpinfo d s
  | .gangid d a => Sys2Proof.Machine.execGangid d a s
  | .fluest d => Sys2Proof.Machine.execFluest d s
  | .curcls d a => Sys2Proof.Machine.execCurcls d a s
  | .epush d a x => Sys2Proof.Machine.execEpush d a x s
  | .epop d x => Sys2Proof.Machine.execEpop d x s
  | .estat d x => Sys2Proof.Machine.execEstat d x s
  | .epush2 d a b x => Sys2Proof.Machine.execEpush2 d a b x s
  | .menter => Sys2Proof.Machine.execMenter s
  | .mexit => Sys2Proof.Machine.execMexit s
  | .settile d a b => Sys2Proof.Machine.execSettile d a b s
  | .mzero d => Sys2Proof.Machine.execMzero d s
  | .mrdf d a b => Sys2Proof.Machine.execMrdf d a b s
  | .mcmprs d a b => Sys2Proof.Machine.execMcmprs d a b s
  | .maccadd d a => Sys2Proof.Machine.execMaccadd d a s
  | .vbind d a => Sys2Proof.Machine.execVbind d a s
  | .vunbind d => Sys2Proof.Machine.execVunbind d s
  | .splook d a => Sys2Proof.Machine.execSplook d a s
  | .spinst d a b => Sys2Proof.Machine.execSpinst d a b s
  | .spdrop d a => Sys2Proof.Machine.execSpdrop d a s
  | .spzero a b => Sys2Proof.Machine.execSpzero a b s
  | .gbar => Sys2Proof.Machine.execGbar s
  | .gbarv d a => Sys2Proof.Machine.execGbarv d a s
  | .gbarw d => Sys2Proof.Machine.execGbarw d s
  | .barrive d a => Sys2Proof.Machine.execBarrive d a s
  | .bwait d a b => Sys2Proof.Machine.execBwait d a b s
  | .launch d a b => Sys2Proof.Machine.execLaunch d a b s
  | .evsig d a => Sys2Proof.Machine.execEvsig d a s
  | .evwait d a => Sys2Proof.Machine.execEvwait d a s
  | .qinfo d a => Sys2Proof.Machine.execQinfo d a s
  | .bjoin d a b => Sys2Proof.Machine.execBjoin d a b s
  | .bpost d a => Sys2Proof.Machine.execBpost d a s
  | .bpoll d => Sys2Proof.Machine.execBpoll d s
  | .bchk d => Sys2Proof.Machine.execBchk d s
  | .bleave d => Sys2Proof.Machine.execBleave d s
  | .probe d a b => Sys2Proof.Machine.execProbe d a b s
  | .tlbinv a b => Sys2Proof.Machine.execTlbinv a b s
  | .tlbinva a => Sys2Proof.Machine.execTlbinva a s
  | .nInc d p => Sys2Proof.Machine.execNInc d p s
  | .nCopy d sh => Sys2Proof.Machine.execNCopy d sh s
  | .nLdf d p => Sys2Proof.Machine.execNLdf d p s
  | .nStf d p => Sys2Proof.Machine.execNStf d p s
  | .nBrz a p => Sys2Proof.Machine.execNBrz a p s
  | .nBrnz a p => Sys2Proof.Machine.execNBrnz a p s
  | .nGo p => Sys2Proof.Machine.execNGo p s
  | .nAcc d sh => Sys2Proof.Machine.execNAcc d sh s
  | .mop t => Sys2Proof.Machine.execMop t s
  | .mops t => Sys2Proof.Machine.execMops t s
  | .mopl t => Sys2Proof.Machine.execMopl t s
  | .mopd t => Sys2Proof.Machine.execMopd t s
  | .eventTrap => Sys2Proof.Machine.execEventTrap s
  | .timerCompare => Sys2Proof.Machine.execTimerCompare s
  | .wfeWake h => Sys2Proof.Machine.execWfeWake h s
  | .gangBarrierRelease h => Sys2Proof.Machine.execGangBarrierRelease h s
  | .viqDispatch h => Sys2Proof.Machine.execViqDispatch h s
  | .vectorRetire h mismatch => Sys2Proof.Machine.execVectorRetire h mismatch s
  | .dispatchGateCycle c => Sys2Proof.Machine.execDispatchGateCycle c s
  | .flueWindowEnd f => Sys2Proof.Machine.execFlueWindowEnd f s
  | .flrailStepDone f => Sys2Proof.Machine.execFlrailStepDone f s
  | .clusterClockStopDone die clu => Sys2Proof.Machine.execClusterClockStopDone die clu s
  | .clusterClockRestartDone die clu => Sys2Proof.Machine.execClusterClockRestartDone die clu s
  | .schedulerStep die => Sys2Proof.Machine.execSchedulerStep die s
  | .hartStop h => Sys2Proof.Machine.execHartStop h s
  | .launchCompletion launch => Sys2Proof.Machine.execLaunchCompletion launch s
  | .hartFelled h => Sys2Proof.Machine.execHartFelled h s
  | .pageListReturn slot member => Sys2Proof.Machine.execPageListReturn slot member s
  | .groveClose slot => Sys2Proof.Machine.execGroveClose slot s
  | .hostQueueTailWrite die q tail => Sys2Proof.Machine.execHostQueueTailWrite die q tail s
  | .hostCancelRequest die q seq => Sys2Proof.Machine.execHostCancelRequest die q seq s
  | .hostMailboxWrite die tail => Sys2Proof.Machine.execHostMailboxWrite die tail s
  | .hostMemWrite pa bytes => Sys2Proof.Machine.execHostMemWrite pa bytes s
  | .moduleReset => Sys2Proof.Machine.execModuleReset s
  | .scrub line => Sys2Proof.Machine.execScrub line s
  | .thermalSample stack layer temp => Sys2Proof.Machine.execThermalSample stack layer temp s
  | .sramMonitorCrossing die dom => Sys2Proof.Machine.execSramMonitorCrossing die dom s
  | .engineRecordArrival h eng => Sys2Proof.Machine.execEngineRecordArrival h eng s
  | .copy h => Sys2Proof.Machine.execCopy h s
  | .conv h => Sys2Proof.Machine.execConv h s
  | .convef h => Sys2Proof.Machine.execConvef h s
  | .comp h => Sys2Proof.Machine.execComp h s
  | .decomp h => Sys2Proof.Machine.execDecomp h s
  | .fill h => Sys2Proof.Machine.execFill h s
  | .spfill h => Sys2Proof.Machine.execSpfill h s
  | .pgather h => Sys2Proof.Machine.execPgather h s
  | .igather h => Sys2Proof.Machine.execIgather h s
  | .allred h => Sys2Proof.Machine.execAllred h s
  | .bcast h => Sys2Proof.Machine.execBcast h s
  | .allgath h => Sys2Proof.Machine.execAllgath h s
  | .dbar h => Sys2Proof.Machine.execDbar h s
  | .send h => Sys2Proof.Machine.execSend h s
  | .markcfg h => Sys2Proof.Machine.execMarkcfg h s
  | .ping die => Sys2Proof.Machine.execPing die s
  | .retire die => Sys2Proof.Machine.execRetire die s
  | .keyload die => Sys2Proof.Machine.execKeyload die s
  | .firmwareMessage die status detail => Sys2Proof.Machine.execFirmwareMessage die status detail s
  | .doubleTrapReport die => Sys2Proof.Machine.execDoubleTrapReport die s
  | .linkKillReport die => Sys2Proof.Machine.execLinkKillReport die s
  | .portLinkFail port => Sys2Proof.Machine.execPortLinkFail port s
  | .packageUnreachable pkg => Sys2Proof.Machine.execPackageUnreachable pkg s
  | .dieLinkFail d e => Sys2Proof.Machine.execDieLinkFail d e s
  | .vlWrite v => Sys2Proof.Machine.execVlWrite v s
  | .vcfgWrite v => Sys2Proof.Machine.execVcfgWrite v s
  | .rcWrite v => Sys2Proof.Machine.execRcWrite v s
  | .tbnWrite v => Sys2Proof.Machine.execTbnWrite v s
  | .eventClear v => Sys2Proof.Machine.execEventClear v s
  | .tsaveWrite v => Sys2Proof.Machine.execTsaveWrite v s
  | .lprWrite v => Sys2Proof.Machine.execLprWrite v s
  | .lgoffWrite v => Sys2Proof.Machine.execLgoffWrite v s
  | .gatecfgWrite v => Sys2Proof.Machine.execGatecfgWrite v s
  | .seedchkWrite v => Sys2Proof.Machine.execSeedchkWrite v s
  | .flcfgWrite v => Sys2Proof.Machine.execFlcfgWrite v s
  | .flselWrite v => Sys2Proof.Machine.execFlselWrite v s
  | .flrailWrite v => Sys2Proof.Machine.execFlrailWrite v s
  | .cqctlClose on => Sys2Proof.Machine.execCqctlClose on s
  | .cqctlPre on => Sys2Proof.Machine.execCqctlPre on s
  | .cqctlSleep on => Sys2Proof.Machine.execCqctlSleep on s
  | .cwakeWrite v => Sys2Proof.Machine.execCwakeWrite v s
  | .mfaqPop d => Sys2Proof.Machine.execMfaqPop d s
  | .energyloRead d => Sys2Proof.Machine.execEnergyloRead d s
  | .uvpinClear v => Sys2Proof.Machine.execUvpinClear v s
  | .jbaseWrite v => Sys2Proof.Machine.execJbaseWrite v s
  | .mbxbaseWrite v => Sys2Proof.Machine.execMbxbaseWrite v s
  | .mbxreplyWrite v => Sys2Proof.Machine.execMbxreplyWrite v s
  | .ptrootWrite v => Sys2Proof.Machine.execPtrootWrite v s
  | .asidWrite v => Sys2Proof.Machine.execAsidWrite v s
  | .sysregWrite n v => Sys2Proof.Machine.execSysregWrite n v s
  | .encodingNotInstruction w => Sys2Proof.Machine.execEncodingNotInstruction w s
  | .instructionFetchFault addr tinfo => Sys2Proof.Machine.execInstructionFetchFault addr tinfo s
  | .storageBitError line bits => Sys2Proof.Machine.execStorageBitError line bits s
  | .fabricRequestArrival r => Sys2Proof.Machine.execFabricRequestArrival r s
  | .pathAnswersAgain pkg => Sys2Proof.Machine.execPathAnswersAgain pkg s
  | .fabricPortTrained port => Sys2Proof.Machine.execFabricPortTrained port s
  | .cxlLinkTrained flits256 => Sys2Proof.Machine.execCxlLinkTrained flits256 s

end Sys2Proof.Machine
end

