-- ==== Sys2Proof/Machine/Turn.lean ====
section
/-! DEFINITION. One turn of the module: what the agenda says is next, or one boundary or instruction of the current hart
(R3, R34, R59, R60, R69; log 6); the front end that runs ahead (R168, R176) and accesses performed late (R139). -/

namespace Sys2Proof.Machine

/-! ### What is done to the module from outside its harts -/

/-- A core lets go of the `n`-th translation it holds (log 8). -/
def State.evict (s : State) (c : CoreKey) (n : Nat) : State := s.setCore c fun x => { x with tlb := x.tlb.eraseIdx n }

/-- The host or another module writes bytes by physical address (log 6). -/
def State.outside (s : State) (pa : Nat) (bytes : List Byte) : State := { s with mem := s.mem.store pa bytes }

/-- Firmware asks for a supply voltage of an SRAM domain: below the level at which the domain is pinned it is ignored (R343). -/
def State.askVoltage (s : State) (die dom : Nat) (level : Int) : State :=
  s.setDie die fun d =>
    if d.uvpin.getLsbD dom && decide (level < (d.pinned[dom]?).getD 0) then d else { d with sram := d.sram.setIfInBounds dom level }

/-- The Designated Vendor-Specific Extended Capability of the port's configuration space (R334): its DVSEC ID and its four entries of
`ID`, `VER` and `INFO`. -/
def portCapability : Nat × List (Nat × Nat × Nat) := (0x0A3, [(1, 1, 256), (2, 1, 8), (3, 1, 0), (4, 1, 20)])

/-- The entries of the list in device memory, the same (R334). -/
def capabilities : List (Nat × Nat × Nat) := portCapability.2

/-- The bytes of a capability list that stands at an address (R334). -/
def capabilityBytes : Nat → List (Nat × Nat × Nat) → List Byte
  | _, [] => []
  | a, (i, v, f) :: t =>
    toBytes 8 (i + v * 2 ^ 16 + f * 2 ^ 32) ++ toBytes 8 (if t.isEmpty then 0 else a + 16) ++ capabilityBytes (a + 16) t

/-- Firmware lays the capability list out in device memory of the module, where `CAPHEAD` then points (R334). -/
def State.layCapabilities (s : State) (a : Nat) : State :=
  if a % 16 = 0 ∧ pkgOf a = s.pkg ∧ inMemory (a % 2 ^ 42) then
    { s.writeAt a (capabilityBytes a capabilities) none with caphead := BitVec.ofNat 64 a }
  else s

/-- Link training assigns the package index and the size of the domain (R345), before anything has run or been written. -/
def State.trained (s : State) (pkg size : Nat) : State :=
  if s.fabUp = 0 ∧ s.mem = ⟨[], []⟩ ∧ s.launches = [] ∧ s.cores = [] ∧ pkg ≤ size ∧ size ≤ 1151 then { s with pkg := pkg, fabSize := size }
  else s

/-- The acknowledgement of a hart's store to an unreachable package is lost (R355). -/
def State.loseAck (s : State) (k : HartKey) (u : Unacked) : State :=
  if s.unreachable.contains u.pkg then s.setHart k fun h => { h with lost := h.lost ++ [u] } else s

/-! ### Running -/

/-- Runs what the bytes at the program counter decode to; ILLOP where they decode to nothing (R69). -/
noncomputable def State.runDecoded (s : State) (bytes : List Byte) : Out :=
  match decode bytes with
  | .ok (i, _) => exec i s
  | .error _ => s.illop (BitVec.ofNat 64 (ofBytes bytes))

/-- The instruction at the program counter, and the state its fetch leaves. -/
noncomputable def State.peek (s : State) : Option (Instr × State) :=
  match fetchBytes.on s with
  | (.ok bytes, t) => match decode bytes with
    | .ok (i, _) => some (i, t)
    | .error _ => none
  | (.error _, _) => none

/-! ### The commit window (R168) -/

/-- The scalar instruction of the commit window that stands at the program counter. -/
def Hart.aheadHere (h : Hart) : Option Ahead := match h.front with
  | some f => f.window.head?.filter fun a => a.pc == h.pc
  | none => none

/-- The window without its oldest instruction. -/
def Hart.popWindow (h : Hart) : Hart :=
  { h with front := h.front.bind fun f => Front.rest { f with window := f.window.tail } h.viq.length }

/-- An instruction that has been carried out ahead commits: its registers and flags become the hart's. -/
def Hart.commitAhead (h : Hart) (a : Ahead) : Hart :=
  let h := h.popWindow
  { h.seenBy a.after with fflags := h.fflags ||| a.flags }

/-- The hart after an instruction at `pc`: one that the window held commits as it was foreseen; where it ended otherwise, what the
front end ran ahead is discarded. -/
def Hart.committed (h : Hart) (pc : Word) : Hart :=
  match h.front with
  | none => h
  | some f => match f.window with
    | a :: _ => if a.pc == pc && a.after == h.resolved then h.popWindow else h.flushed
    | [] => h.flushed

/-- An instruction has run at the program counter of `s`. One that entered the queue has set the front end itself. -/
def commitScalar (s : State) : Out → Out
  | .next t => .next (if t.h.front = s.h.front then { t with h := t.h.committed s.h.pc } else t)
  | o => o

/-- One boundary or instruction of the current hart, with no access left to perform. -/
noncomputable def State.ownTurn (s : State) : Out :=
  if s.atFellingPoint then .next (s.fellHere true)
  else match s.boundary with
    | some t => .next t
    | none =>
      match s.h.aheadHere.filter fun a => !a.held with
      | some a => .next { s with h := s.h.commitAhead a }
      | none =>
        match fetchBytes.on s with
        | (.ok bytes, t) => commitScalar s (t.runDecoded bytes)
        | (.error e, t) => .next (t.stopWith e)

/-! ### Instructions that pass others (R139, R168) -/

/-- The 32-bit form that a compressed form expands to (R65), any other instruction itself. -/
def wideForm : Instr → Instr
  | .nInc d p => .addi d d (p.signExtend 14)
  | .nCopy d x => .add d x 0
  | .nLdf d p => .ld d 2 (p.setWidth 11 <<< 3)
  | .nStf d p => .sd d 2 (p.setWidth 11 <<< 3)
  | .nBrz a p => .beq a 0 (p.signExtend 14)
  | .nBrnz a p => .bne a 0 (p.signExtend 14)
  | .nGo p => .jal 0 (p.signExtend 19)
  | .nAcc d x => .add d d x
  | i => i

/-- Scalar instructions that read and write only what the front end resolves (R14) and flags, so that it may run them ahead. A
`SETVL` that takes the gang's grant or moves lane groups is not one. -/
def runsAhead : Instr → Bool
  | .add .. | .sub .. | .addi .. | .addw .. | .subw .. | .lui .. | .addpc .. => true
  | .and .. | .or .. | .xor .. | .andn .. | .andi .. | .ori .. | .xori .. => true
  | .sll .. | .srl .. | .sra .. | .slli .. | .srli .. | .srai .. => true
  | .slt .. | .sltu .. | .slti .. | .min .. | .max .. | .minu .. | .maxu .. => true
  | .mul .. | .mulh .. | .mulhu .. | .div .. | .divu .. | .rem .. | .remu .. => true
  | .clz .. | .ctz .. | .popc .. => true
  | .beq .. | .bne .. | .blt .. | .bge .. | .bltu .. | .bgeu .. | .jal .. | .jalr .. => true
  | .setvl _ _ c => !c.getLsbD 10 && !c.getLsbD 11
  | .setrc .. | .setdim .. | .menter | .mexit => true
  | .fadd .. | .fsub .. | .fmul .. | .fdiv .. | .fsqrt .. => true
  | .fmin .. | .fmax .. | .feq .. | .flt .. | .fle .. => true
  | _ => false

/-- Scalar instructions that read what is no register of a queued instruction, and do not wait for it (R14, R100, R176). -/
def readsAhead : Instr → Bool
  | .getsr _ n => !readWaits n.toNat
  | .wfe .. | .lpinfo .. | .gangid .. | .fluest .. | .curcls .. => true
  | _ => false

/-- Scalar loads and acquires, which are performed early (R168). -/
def loadsAhead : Instr → Bool
  | .lb .. | .lh .. | .lw .. | .ld .. | .lbz .. | .lhz .. | .lwz .. | .lda .. | .lwa .. => true
  | _ => false

/-- Writes of system registers that do not wait for vector instructions (R98); they are held in the window (R168). -/
def writesAhead : Instr → Bool
  | .putsr _ n => !writeWaits n.toNat
  | .swapsr _ _ n => !writeWaits n.toNat
  | .setsrb _ _ n => !writeWaits n.toNat
  | .clrsrb _ _ n => !writeWaits n.toNat
  | _ => false

/-- A plain scalar store: address, log2 of its bytes, value (R87). -/
def plainStore (s : State) : Instr → Option (Word × Nat × Nat)
  | .sb d a i => some (s.ea a i, 0, (s.rd d).toNat % 2 ^ 8)
  | .sh d a i => some (s.ea a i, 1, (s.rd d).toNat % 2 ^ 16)
  | .sw d a i => some (s.ea a i, 2, (s.rd d).toNat % 2 ^ 32)
  | .sd d a i => some (s.ea a i, 3, (s.rd d).toNat)
  | _ => none

/-- Scalar atomics and releases (R90 to R92). -/
def ordersScalar : Instr → Bool
  | .amoswap .. | .amoadd .. | .amoand .. | .amoor .. | .amoxor .. => true
  | .amomin .. | .amomax .. | .amocas .. | .stl .. | .swl .. => true
  | .amowswap .. | .amowadd .. | .amowand .. | .amowor .. | .amowxor .. => true
  | .amowmin .. | .amowmax .. | .amowcas .. => true
  | _ => false

/-- The entry that an instruction of the queue would place in it. -/
def State.entryOf (s : State) (i : Instr) : Option VEntry :=
  match exec i { s with h := { s.h with ahead := true, viq := [] } } with
  | .next t => t.h.viq.head?
  | _ => none

/-- Whether an instruction may commit before accesses that are still to be performed (R139): one that only computes may pass all; a
scalar access or a register access that does not wait, those of the vector stream; an instruction of the queue, those of the scalar
stream. -/
def State.mayPass (s : State) (i : Instr) (late : List Late) : Bool :=
  runsAhead (wideForm i) || late.all fun l =>
    if l.isVector then
      loadsAhead (wideForm i) || (plainStore s (wideForm i)).isSome || ordersScalar i || readsAhead i || writesAhead i
    else (s.entryOf i).isSome

/-- Whether an instruction ran to its end without a trap. -/
def untrapped (s t : State) : Bool := t.h.run == .running && t.h.ih == s.h.ih && t.h.tcause == s.h.tcause

/-- The next instruction where it commits before accesses that are still to be performed. -/
noncomputable def State.passing (s : State) : Option State :=
  if s.boundary.isSome || !s.h.viq.isEmpty || s.h.front.isSome || s.atFellingPoint then none
  else match s.peek with
    | none => none
    | some (i, t) =>
      if t.mayPass i s.h.late then match exec i t with
        | .next u => if untrapped t u && u.h.viq.isEmpty then some u else none
        | _ => none
      else none

/-- One boundary or instruction of the current hart. What has committed is performed before anything that may not pass it. -/
noncomputable def State.hartTurn (s : State) : Out :=
  if s.h.late.isEmpty then s.ownTurn
  else match s.passing with
    | some t => .next t
    | none => .next s.settled

/-- The current hart's next instruction, a plain store or a vector load or store, commits with its accesses still to be performed
(R139). -/
noncomputable def State.deferTurn (s : State) : State :=
  if s.boundary.isSome || !s.h.viq.isEmpty || s.h.front.isSome || s.atFellingPoint then s
  else match s.peek with
    | none => s
    | some (i, t) =>
      if !t.mayPass i s.h.late then s
      else match plainStore t (wideForm i), t.entryOf i with
        | some (va, lg, v), _ => match exec i t with
          | .next u => if untrapped t u then (({ t.adopt u with h := { t.h with pc := u.h.pc } } : State)).late (.store va lg v) else s
          | _ => s
        | none, some e => if e.op.defers t.h && !e.op.tokenBlocked t.h && !e.op.idle t.h t.vctx then t.deferVector e else s
        | none, none => s

/-! ### The front end (R168, R176) -/

/-- Whether the front end waits behind an entry (R114, R148, R149, R188, R195): for the register it writes, for its sizes, or for
what its bindings change. -/
def VOp.stalls : VOp → Bool
  | .kop .pop _ _ _ => true
  | .kop .first _ _ _ => true
  | .perm .einfo _ _ _ _ _ => true
  | .perm .extr _ _ _ _ _ => true
  | .mem .ldc _ _ b _ _ _ _ => b != 0
  | .mem .stc _ _ b _ _ _ _ => b != 0
  | .mat .settile _ _ _ => true
  | .bind _ _ => true
  | .unbind _ => true
  | _ => false

/-- Whether an entry's checks read what older entries may still write: the width of an index row (R135). -/
def VOp.readsRows : VOp → Bool
  | .mem op _ _ _ _ _ _ _ => op.indexed
  | _ => false

/-- Whether scalar issue goes on: it has stopped where the hart is to end, to stop or to take an event trap (R169), where it waits, and
behind a `HALT` (R103). -/
def State.frontRuns (s : State) (f : Front) : Bool :=
  s.h.run == .running && !s.amCancelled && !(s.amFelled && !s.h.yld) && !s.stopsNow && !s.h.eventDue && s.h.wait == .none && !f.halted

/-- Where the front end stands. -/
def Hart.frontOf (h : Hart) : Front := h.front.getD ⟨h.resolved, [], false⟩

/-- The hart where an instruction wrote only what the front end resolves, and flags. -/
def onlyResolved (h k : Hart) : Bool := k == { h.seenBy k.resolved with fflags := k.fflags }

/-- A scalar instruction in the commit window, and the state it leaves around the hart (R168). `t` is the state as the front end
meets it. What reads or loads goes ahead of no store or register write that the window holds. -/
def State.aheadOf (s : State) (f : Front) (i : Instr) (t : State) : Option (Ahead × State) :=
  match exec i t with
  | .next u =>
    let a (held : Bool) : Ahead := ⟨t.h.pc, u.h.resolved, u.h.fflags &&& ~~~t.h.fflags, held⟩
    let pure : Bool := onlyResolved t.h u.h && { u with h := t.h } == t
    let free : Bool := f.window.all (!·.held)
    if runsAhead (wideForm i) && pure then some (a false, t)
    else if readsAhead i && pure && free then some (a false, t)
    else if loadsAhead (wideForm i) && onlyResolved t.h u.h && free && s.h.late.all (·.isVector) then some (a false, u)
    else if ((plainStore t (wideForm i)).isSome || writesAhead i) && u.h.run == .running && u.h.priv == t.h.priv &&
        u.h.pc == t.h.pc + (if i == wideForm i then 4 else 2) then some (a true, t)
    else none
  | _ => none

/-- The part of the commit window that stands before the oldest undispatched entry, from `pc` on. Structural on the fuel. -/
def keptAhead : Nat → Word → List VEntry → List Ahead → List Ahead
  | 0, _, _, _ => []
  | n + 1, pc, e :: es, w =>
    if e.st.pc = pc then (if e.dispatched then keptAhead n (pc + e.op.bytes) es w else [])
    else match w with
      | a :: t => a :: keptAhead n a.after.pc (e :: es) t
      | [] => []
  | _ + 1, _, [], w => w

/-- The front end meets a `HALT` (R103): what has not dispatched is discarded; what has, and what stands before it in the window,
completes. -/
def State.haltAhead (s : State) (f : Front) : State :=
  { s with h := { s.h with
    viq := s.h.viq.takeWhile (·.dispatched)
    front := some { f with window := keptAhead (s.h.viq.length + f.window.length + 1) s.h.pc s.h.viq f.window, halted := true } } }

/-- The front end takes one more instruction (R14, R168, R176): into the queue while it has fewer than 32 entries, or, while older
vector work waits, into the commit window while that has fewer than 64. It waits at anything else. -/
noncomputable def State.frontStep (s : State) : State :=
  let f := s.h.frontOf
  if !s.frontRuns f || s.h.viq.any (·.op.stalls) then s
  else match ({ s with h := s.h.seenBy f.st } : State).peek with
    | none => s
    | some (i, t) =>
      match t.entryOf i with
      | some e =>
        if 32 ≤ s.h.viq.length || (e.op.readsRows && !s.h.viq.isEmpty) then s
        else { t with h := { s.h with viq := s.h.viq ++ [e], front := some { f with st := { f.st with pc := f.st.pc + e.op.bytes } } } }
      | none =>
        if s.h.viq.isEmpty then s
        else if i = .halt then (if s.h.priv then s.haltAhead f else s)
        else if 64 ≤ f.window.length then s
        else match s.aheadOf f i t with
          | some (a, u) => { u with h := { s.h with front := some { f with st := a.after, window := f.window ++ [a] } } }
          | none => s

/-! ### The agenda (log 6) -/

/-- One turn. -/
noncomputable def State.turn (s : State) : Out :=
  match s.agenda with
  | [] => s.hartTurn
  | a :: t =>
    let u : State := { s with agenda := t }
    match a with
    | .run k => .next (u.focus k)
    | .event i => exec i u
    | .elapse n => .next (u.elapse n)
    | .outside pa bytes => .next (u.outside pa bytes)
    | .evict c n => .next (u.evict c n)
    | .front k => .next (u.onHart k State.frontStep)
    | .defer k => .next (u.onHart k State.deferTurn)
    | .settle k => .next (u.onHart k State.settled)
    | .cut k n => .next (u.onHart k fun s => if s.stopsNow && !s.amCancelled && !s.amFelled then s.stopInside n else s)
    | .lostAck k x => .next (u.loseAck k x)
    | .sram die dom level => .next (u.askVoltage die dom level)
    | .attest ok => .next { u with attested := ok }
    | .capabilities a => .next (u.layCapabilities a)
    | .train pkg size => .next (u.trained pkg size)

/-- Whether a shut-down module is about to be reset (R308). -/
def State.resetDue (s : State) : Bool := match s.agenda with
  | .event .moduleReset :: _ => true
  | _ => false

end Sys2Proof.Machine
end

