-- ==== Sys2Proof/Machine/Step.lean ====
section
/-! DEFINITION. The step of the module. -/

namespace Sys2Proof.Machine

/-- One step. A module that has shut down (R308) stands still until a module reset. -/
noncomputable def step (s : State) : Host.Outcome State Fault Refusal :=
  if s.shut && !s.resetDue then .fault .shutDown else s.turn

/-- Stores an instruction of `nbits` bits, zeros above up to 8 bytes, where `step` fetches next (logs 1, 6). -/
def State.withFetchWord (s : State) (nbits w : Nat) : State :=
  placeParcels { s with agenda := [], h := { s.h with viq := [], front := none, late := [] } } s.h.pc (toBytes 8 (w % 2 ^ nbits)) 4

end Sys2Proof.Machine
end

