-- ==== Sys2Proof/Safety.lean ====
section
/-! DEFINITION. The terms that claims about the module use: well-kept states, what an instruction writes beside its result,
where an access lands, and what a scalar access names. -/

namespace Sys2Proof.Machine

/-- A state is well kept: memory has its canonical form. -/
def State.WellKept (s : State) : Prop := s.mem.wf = true

/-- The state after an instruction of `n` bytes that writes `v` to the scalar register `d` and nothing else; `s0` keeps
nothing. -/
def State.wrote (s : State) (d : Reg) (v : Word) (n : Nat) : State :=
  { s with h := { s.h with
      x := if d = 0 then s.h.x else s.h.x.set d.toNat v d.isLt
      pc := s.h.pc + BitVec.ofNat 64 n } }

/-- The state after an instruction that only goes on elsewhere. -/
def State.jumped (s : State) (a : Word) : State := { s with h := { s.h with pc := a } }

/-- The state after sticky flags are set. -/
def State.flagged (s : State) (f : BitVec 7) : State := { s with h := { s.h with fflags := s.h.fflags ||| f } }

/-- Where an aligned access lands: its translation succeeds and its home answers; `t` is the state after translation. -/
def State.Lands (s : State) (va : Word) (kind : Kind) (lg : Nat) (x : Xlat) (t : State) : Prop :=
  va.toNat % 2 ^ lg = 0 ∧ (translate s.h.ctx va kind lg).on s = (.ok x, t) ∧ t.reachable s.h.key.die x.key = true ∧
  (x.mir = true → kind ≠ .load → t.unreachable.contains (t.pkg ^^^ 1) = false)

/-- The state after bytes are written where an access lands, at the partner too for a mirrored page (R349). -/
def State.stored (s : State) (x : Xlat) (bs : List Byte) : State :=
  let t := s.writeAt x.key bs (some x.nl)
  if x.mir then t.writeAt ((s.pkg ^^^ 1) * 2 ^ 42 + x.key % 2 ^ 42) bs (some x.nl) else t

/-! ### Floating point -/

/-- The real magnitude of a code: a pattern without its sign (R36 to R40). -/
def FmtP.mag (p : FmtP) (c : Nat) : Rat :=
  ((if c < 2 ^ p.frac then c else (2 ^ p.frac + c % 2 ^ p.frac) * 2 ^ (c / 2 ^ p.frac - 1) : Nat) : Rat) * (2 : Rat) ^ p.qmin

/-- The real value of a finite pattern as an operation reads it: under `FZ` 1 a subnormal is zero (R51). -/
def FmtP.val (p : FmtP) (fz x : Nat) : Option Rat :=
  let c := x % 2 ^ (p.width - 1)
  let m := if fz = 1 ∧ c < 2 ^ p.frac then 0 else p.mag c
  if p.maxCode < c then none else some (if x / 2 ^ (p.width - 1) % 2 = 1 then -m else m)

/-- Whether an exact value, whose magnitude lies above the numbers `lt` and at the number `eq`, is tiny (R52): rounded to the format's
precision with no lower bound of the exponent it stays below the smallest normal number. -/
def FmtP.Tiny (p : FmtP) (rm : RMode) (neg : Bool) (lt eq : Rat → Prop) : Prop :=
  let unit : Rat := (2 : Rat) ^ (p.qmin - 1)
  let least := p.mag (2 ^ p.frac)
  let below (r : Rat) : Prop := ¬ lt r ∧ ¬ eq r
  match rm with
  | .rtz => below least
  | .rup => if neg then below least else ¬ lt (least - unit)
  | .rdn => if neg then ¬ lt (least - unit) else below least
  | .rne => below (least - unit / 2)

/-- A result is the rounding of an exact value of sign `neg` whose magnitude lies above the numbers `lt` and at the number `eq` (R50,
R52): its neighbour that the mode asks for, with NX where it is not the value itself, UF where it is also tiny, and no other flag;
one that overflows has OF and NX, and lies beyond the largest finite number. -/
def FmtP.Rounded (p : FmtP) (rm : RMode) (neg : Bool) (lt eq : Rat → Prop) (r : Nat × Flags) : Prop :=
  let c := r.1 % 2 ^ (p.width - 1)
  let V := p.mag
  let mid (b : Nat) : Rat := (V b + V (b + 1)) / 2
  let down : Prop := (lt (V c) ∨ eq (V c)) ∧ ¬ lt (V (c + 1)) ∧ ¬ eq (V (c + 1))
  let up : Prop := ¬ lt (V c) ∧ ∀ b, b + 1 = c → lt (V b)
  if r.2.getLsbD 2 then r = (p.overflow rm neg, 20) ∧ lt (V p.maxCode)
  else
    r.1 / 2 ^ (p.width - 1) = (if neg then 1 else 0) ∧ c ≤ p.maxCode ∧ (r.2.getLsbD 4 = true ↔ ¬ eq (V c)) ∧
    (r.2.getLsbD 3 = true ↔ p.Tiny rm neg lt eq ∧ ¬ eq (V c)) ∧ (∀ b ∈ [0, 1, 5, 6], r.2.getLsbD b = false) ∧
    match rm with
    | .rtz => down
    | .rup => if neg then down else up
    | .rdn => if neg then up else down
    | .rne => (¬ lt (mid c) ∧ (eq (mid c) → c % 2 = 0)) ∧
        ∀ b, b + 1 = c → (lt (mid b) ∨ eq (mid b)) ∧ (eq (mid b) → c % 2 = 0)

/-- A result after output flushing: a subnormal becomes zero of its sign with UF and NX under `FZ` 1 and 2 (R51). -/
def FmtP.flushedOut (p : FmtP) (fz : Nat) (r : Nat × Flags) : Nat × Flags :=
  let c := r.1 % 2 ^ (p.width - 1)
  if (fz = 1 ∨ fz = 2) ∧ c ≠ 0 ∧ c < 2 ^ p.frac then (r.1 - c, r.2 ||| 24) else r

/-- The operations of a format on finite operands round the exact real result once, and flush it as `FZ` says (R40, R50 to R52). -/
def FmtP.Exact (p : FmtP) (c : RCtx) : Prop :=
  ∀ (x y z : Nat) (X Y Z : Rat), p.val c.fz x = some X → p.val c.fz y = some Y → p.val c.fz z = some Z →
    let rounds (v : Rat) (r : Nat × Flags) : Prop :=
      let m := if v < 0 then -v else v
      (v = 0 → r.1 % 2 ^ (p.width - 1) = 0 ∧ r.2 = 0) ∧
      (v ≠ 0 → ∃ r₀, r = p.flushedOut c.fz r₀ ∧ p.Rounded c.rm (v < 0) (· < m) (· = m) r₀)
    rounds (X + Y) (p.fadd c x y) ∧ rounds (X - Y) (p.fsub c x y) ∧ rounds (X * Y) (p.fmul c x y) ∧
    (Y ≠ 0 → rounds (X / Y) (p.fdiv c x y)) ∧
    rounds (Z + X * Y) (p.ffma c x y z) ∧ rounds (Z - X * Y) (p.ffnms c x y z) ∧
    (0 < X → ∃ r₀, p.fsqrt c x = p.flushedOut c.fz r₀ ∧
      p.Rounded c.rm false (fun q => q * q < X) (fun q => q * q = X) r₀)

/-- Position `q` after a number of pairings of R56: an empty partner passes the other on. -/
def pairing {α : Type} (f : α → α → α) (base : Nat → Option α) : Nat → Nat → Option α
  | 0, q => base q
  | l + 1, q =>
    match pairing f base l (2 * q), pairing f base l (2 * q + 1) with
    | some x, some y => some (f x y)
    | some x, none => some x
    | none, y => y

/-! ### Vector instructions -/

/-- A hart whose vector work is at rest: nothing queued or run ahead, no stream bound, no post or lane error waiting, nothing to
resume, no poisoned element. -/
def Hart.Ready (h : Hart) : Prop :=
  (h.viq = [] ∧ h.ahead = false ∧ h.pend = []) ∧ h.binds = [] ∧ h.upset = [] ∧ h.vsi = 0 ∧ h.vsr = 0 ∧ h.vsp = 0 ∧
  ∀ n, (h.vreg n).poison = []

/-- A state in which the current hart's next vector instruction is held by nothing: the hart is ready, the dispatch gate of its
core is open (R183), the damper of its flue is not engaged (R236) and its lane clocks run (R242, R254). -/
def State.Ready (s : State) : Prop :=
  s.h.Ready ∧ (s.core (coreOf s.h.key)).shut = false ∧
  (s.h.key.dm = true ∨
    ((s.flue (flueOf (coreOf s.h.key))).damped = false ∧ s.lanesClocked (coreOf s.h.key) = true))

/-- A hart but for the lane cycles up to which its lanes and rows are taken (R184). -/
def Hart.Same (a b : Hart) : Prop := { b with laneFree := a.laneFree, ready := a.ready } = a

/-- A core but for what a dispatch accounts: the bucket, the draw and the generator (R183, R185, R233). -/
def CoreSt.Kept (a b : CoreSt) : Prop :=
  { b with level := a.level, draw := a.draw, drawReal := a.drawReal, later := a.later, seed := a.seed } = a

/-- What a vector instruction that writes the current hart's state alone leaves as it was: every other part of the module,
but for what a dispatch accounts. -/
def State.KeptAround (s t : State) : Prop :=
  { t with h := s.h, cores := s.cores, accounts := s.accounts } = s ∧ ∀ k, (s.core k).Kept (t.core k)

/-- A stored row is sound at an element width: every value it stores fits, and a DICT index names an entry (R18 to R20). -/
def Row.Sound (w : Nat) : Row → Prop
  | .plain els => ∀ x ∈ els, x < 2 ^ w
  | .run rs => ∀ p ∈ rs, p.1 < 2 ^ w
  | .dict es idx => (∀ x ∈ es, x < 2 ^ w) ∧ ∀ i ∈ idx, i < es.length
  | .delta _ base _ => base < 2 ^ w

/-- Every vector register of the current hart stores a sound row. -/
def State.RowsSound (s : State) : Prop := ∀ n, ((s.h.vreg n).row).Sound (widthOf (s.h.vreg n).sewc)

/-- Element `i` of row `q` of a vector operand read at `w` bits; 4 is e2m1 (R18 to R21, R38). -/
def State.elem (s : State) (r : Reg) (w q i : Nat) : Nat := nth ((Src.vec r.toNat w).read s.vctx s.h q false).els i 0

/-- Whether element `i` of row `q` is active under a mask operand (R23). -/
def State.active (s : State) (k : BitVec 3) (q i : Nat) : Bool := k == 0 || nth (s.h.mbits k.toNat q s.h.vl) i false

/-- Bit `i` of row `q` of a mask that a mask function reads: `k0` is all-true (R127). -/
def State.kbit (s : State) (k : Reg) (q i : Nat) : Bool := k == 0 || nth (s.h.mbits k.toNat q s.h.vl) i false

/-- Whether the rows of a vector operand lie within the registers (R12). -/
def State.fits (s : State) (r : Reg) : Prop := r.toNat % s.h.grp = 0 ∧ r.toNat + s.h.rc * s.h.grp ≤ 32

/-- Whether two operands share no register (R113). -/
def State.disjoint (s : State) (a b : Reg) : Prop :=
  a.toNat + s.h.rc * s.h.grp ≤ b.toNat ∨ b.toNat + s.h.rc * s.h.grp ≤ a.toNat

/-- The elementwise sharing rule (R113). -/
def State.apart (s : State) (a b : Reg) : Prop := a = b ∨ s.disjoint a b

/-- The current hart's flags are those it had with those of elements chosen. -/
def State.flagsOf (s t : State) (on : Nat → Nat → Bool) (fl : Nat → Nat → Flags) : Prop :=
  ∀ b < 7, t.h.fflags.getLsbD b = true ↔
    s.h.fflags.getLsbD b = true ∨ ∃ q < s.h.rc, ∃ i < s.h.vl, on q i = true ∧ (fl q i).getLsbD b = true

/-- An instruction ends, leaves everything around the current hart, and leaves the hart as given. -/
def State.retires (s : State) (i : Instr) (h : Hart) : Prop := ∃ t, exec i s = .next t ∧ s.KeptAround t ∧ h.Same t.h

/-- An instruction ends, having written the rows of `d` at width `w`: the elements chosen receive their values and flags, the
others keep theirs, and no other register, mask or scalar changes (R112). -/
def State.writesRows (s : State) (i : Instr) (d : Reg) (w : Nat) (on : Nat → Nat → Bool) (val : Nat → Nat → Nat × Flags) : Prop :=
  ∃ t, exec i s = .next t ∧ s.KeptAround t ∧
    Hart.Same { s.h with v := t.h.v, fflags := t.h.fflags, pc := s.h.pc + 4 } t.h ∧
    (∀ n, ¬ (d.toNat ≤ n ∧ n < d.toNat + s.h.rc * s.h.grp) → t.h.vreg n = s.h.vreg n) ∧
    (∀ q < s.h.rc, ∀ j < s.h.vl, t.elem d w q j = if on q j then (val q j).1 else s.elem d w q j) ∧
    s.flagsOf t on fun q j => (val q j).2

/-- An instruction ends, having written the rows of mask `d` (R112, R127). -/
def State.writesMask (s : State) (i : Instr) (d : Reg) (on : Nat → Nat → Bool) (val : Nat → Nat → Bool × Flags) : Prop :=
  ∃ t, exec i s = .next t ∧ s.KeptAround t ∧
    Hart.Same { s.h with k := t.h.k, fflags := t.h.fflags, pc := s.h.pc + 4 } t.h ∧
    (∀ n q, n ≠ d.toNat ∨ s.h.rc ≤ q → t.h.mrow n q = s.h.mrow n q) ∧
    (∀ q < s.h.rc, ∀ j < s.h.vl, nth (t.h.mbits d.toNat q s.h.vl) j false =
      if on q j then (val q j).1 else nth (s.h.mbits d.toNat q s.h.vl) j false) ∧
    s.flagsOf t on fun q j => (val q j).2

/-- The active values of row `q` of an operand, in order. -/
def State.activeVals (s : State) (a : Reg) (k : BitVec 3) (q : Nat) : List Nat :=
  ((List.range s.h.vl).filter (s.active k q)).map (s.elem a s.h.sew q)

/-- A line that nothing has disturbed since it was coded (R301). -/
def Mem.intact (m : Mem) (line : Nat) : Prop := (m.line line).flips = [] ∧ (m.line line).marked = false

/-- The translation of an address is `x`, whatever memory holds, and changes nothing: a window address, a bypassed one, or a
translation that the core holds with its D set. -/
def State.MapsTo (s : State) (va : Word) (kind : Kind) (lg : Nat) (x : Xlat) : Prop :=
  ∀ (m : Mem) (n : Nat) (dirty : Bool),
    (translate s.h.ctx va kind lg dirty).on { s with mem := m, freeCount := n } = (.ok x, { s with mem := m, freeCount := n })

/-- An aligned element access goes through: its address maps to `x`, and the home of `x` answers with an undisturbed line. -/
def State.Serves (s : State) (va : Word) (kind : Kind) (lg : Nat) (x : Xlat) : Prop :=
  va.toNat % 2 ^ lg = 0 ∧ x.key % 2 ^ lg = 0 ∧ x.mir = false ∧ s.MapsTo va kind lg x ∧ s.mem.intact (x.key / 64) ∧
  s.reachable s.h.key.die x.key = true ∧ s.reachable s.h.key.die (x.key / 64 * 64) = true

/-- The exception list takes the entries of some elements, given as row and index in order: it has room for them, and the address of
each maps to `X` in undisturbed memory (R33, R55). -/
def State.listTakes (s : State) (es : List (Nat × Nat)) (X : Nat → Xlat) : Prop :=
  s.h.xcount.toNat + es.length ≤ s.h.xlimit.toNat ∧
  (∀ n < es.length, s.Serves (s.h.xlAddr + BitVec.ofNat 64 (16 * n)) .store 4 (X n)) ∧
  ∀ n < es.length, ∀ m < es.length, (X n).key = (X m).key → n = m

/-- An instruction ends, having appended an entry for each of some elements, and written no other memory, beside what `post` says of
the hart (R54, R55). -/
def State.appends (s : State) (i : Instr) (es : List (Nat × Nat)) (X : Nat → Xlat) (src dst : Nat) (post : State → Prop) : Prop :=
  ∃ t, exec i s = .next t ∧ s.KeptAround { t with mem := s.mem } ∧
    Hart.Same { s.h with v := t.h.v, fflags := t.h.fflags, xcount := s.h.xcount + BitVec.ofNat 32 es.length, pc := s.h.pc + 4 } t.h ∧
    (∀ n q j, es[n]? = some (q, j) → t.mem.bytes (X n).key 16 = xlEntry s.h.pc j q src dst) ∧
    (∀ a, (∀ n < es.length, ¬ ((X n).key ≤ a ∧ a < (X n).key + 16)) → cellGet t.mem.cells a = cellGet s.mem.cells a) ∧ post t

/-- A full exception list stops an instruction at the element `j` of row `q` that would append first (R33, R55). -/
def State.listFull (s : State) (i : Instr) (q j : Nat) : Prop :=
  ∃ t, exec i s = .next t ∧ t.mem = s.mem ∧ t.h.tcause = 0x13 ∧ t.h.tval = s.h.xlAddr ∧ t.h.tpc = s.h.pc &&& ~~~1 ∧
    t.h.xcount = s.h.xcount ∧ t.h.vsi = BitVec.ofNat 64 j ∧ t.h.vsr = BitVec.ofNat 64 q

/-- A vector memory form that takes or posts tokens finds them (R156). -/
def Hart.TokensReady (h : Hart) (t : BitVec 2) : Prop :=
  (t.getLsbD 0 = true → h.token 1 ≠ 0) ∧ (t.getLsbD 1 = true → h.token 4 < 15)

/-- The tokens after it. -/
def Hart.tokensAfter (h : Hart) (t : BitVec 2) : Vector Nat 6 :=
  let u := if t.getLsbD 0 then h.tokens.set 1 (h.token 1 - 1) else h.tokens
  if t.getLsbD 1 then u.set 4 (h.token 4 + 1) else u

/-- A vector load ends, having written `rows` rows of `d`: the elements chosen receive the bytes at their keys (R137). Masks
change as `special` says. -/
def State.loadsRows (s : State) (i : Instr) (d : Reg) (rows : Nat) (tok : BitVec 2) (on : Nat → Nat → Bool) (key : Nat → Nat → Nat)
    (special : State → Prop) : Prop :=
  ∃ t, exec i s = .next t ∧ s.KeptAround t ∧
    Hart.Same { s.h with v := t.h.v, k := t.h.k, tokens := s.h.tokensAfter tok, pc := s.h.pc + 4 } t.h ∧
    (∀ n, ¬ (d.toNat ≤ n ∧ n < d.toNat + rows * s.h.grp) → t.h.vreg n = s.h.vreg n) ∧
    (∀ q < rows, ∀ j < s.h.vl, t.elem d s.h.sew q j =
      if on q j then ofBytes (s.mem.bytes (key q j) (s.h.sew / 8)) else s.elem d s.h.sew q j) ∧
    special t

/-- A vector store ends, having written `new` at the keys of the elements chosen and no other byte (R138). -/
def State.storesRows (s : State) (i : Instr) (rows : Nat) (tok : BitVec 2) (on : Nat → Nat → Bool) (key : Nat → Nat → Nat)
    (new : Nat → Nat → Nat × Flags) : Prop :=
  ∃ t, exec i s = .next t ∧ s.KeptAround { t with mem := s.mem } ∧
    Hart.Same { s.h with fflags := t.h.fflags, tokens := s.h.tokensAfter tok, pc := s.h.pc + 4 } t.h ∧
    (∀ q < rows, ∀ j < s.h.vl, on q j = true → t.mem.bytes (key q j) (s.h.sew / 8) = toBytes (s.h.sew / 8) (new q j).1) ∧
    (∀ a, (∀ q < rows, ∀ j < s.h.vl, on q j = true → ¬ (key q j ≤ a ∧ a < key q j + s.h.sew / 8)) →
      cellGet t.mem.cells a = cellGet s.mem.cells a) ∧
    s.flagsOf t on fun q j => (new q j).2

/-- The address of element `j` of row `q` of a box access (R146). -/
def State.boxAddr (s : State) (base : Word) (q j : Nat) : Word :=
  base + BitVec.ofNat 64 j * s.h.dstride 0 + BitVec.ofNat 64 (q % s.h.dlen 1) * s.h.dstride 1 +
    BitVec.ofNat 64 (q / s.h.dlen 1) * s.h.dstride 2

/-! ### Matrix mode -/

/-- Whether `n` row operands of matrix mode from a register on lie within the registers (R197). -/
def State.holds (s : State) (r n : Nat) : Prop := r % s.h.grp = 0 ∧ r + n * s.h.grp ≤ 32

/-- Element `x` of an accumulator triple (R47). -/
def State.acc (s : State) (r : Reg) (x : Nat) : A96 := tripleElem (s.vctx.triple s.h r.toNat (s.h.mt * s.h.nt)) x

/-- Register `p` of the row at `n` holds a PLAIN row of elements of a width code. -/
def State.plainRow (s : State) (n sewc : Nat) (els : List Nat) : Prop :=
  ∀ p < s.h.grp, s.h.vreg (n + p) = ⟨sewc, field s.h.vcfg 3 2, p, (Row.plain els).norm, []⟩

/-- The triple at a register holds accumulators (R47, R198). -/
def State.tripleIs (s : State) (r : Reg) (xs : List A96) : Prop :=
  ∀ i < 3, s.plainRow (r.toNat + i * s.h.grp) 2 (xs.map fun a => a.toBits / 2 ^ (32 * i) % 2 ^ 32)

/-- A matrix instruction of `n` bytes ends, having written `rows` rows from register `d` on and set flags. -/
def State.writesTile (s : State) (i : Instr) (d : Reg) (rows n : Nat) (f : Flags) (post : State → Prop) : Prop :=
  ∃ t, exec i s = .next t ∧ s.KeptAround t ∧
    Hart.Same { s.h with v := t.h.v, fflags := s.h.fflags ||| f, pc := s.h.pc + BitVec.ofNat 64 n } t.h ∧
    (∀ m, ¬ (d.toNat ≤ m ∧ m < d.toNat + rows * s.h.grp) → t.h.vreg m = s.h.vreg m) ∧ post t

/-- The scratchpad key of a window address. -/
def State.padKey (s : State) (va : Word) : Nat := spadKey s.h.key.die s.h.key.clu (windowCore va) (windowOff va)

/-- A scratchpad operand's element: its address and nibble, or none for an inactive row. -/
def State.padElem (s : State) (w : Nat) : Option (Word × Nat) → Nat
  | none => 0
  | some (va, nib) =>
    if w = 4 then ofBytes (s.mem.bytes (s.padKey va) 1) / 2 ^ (4 * nib) % 16 else ofBytes (s.mem.bytes (s.padKey va) (w / 8))

/-- A scratchpad operand of a tile form can be read: its pair is legal and its elements lie in reach, in undisturbed lines
(R202). -/
def State.padOk (s : State) (r : Reg) (els : List (Option (Word × Nat))) : Prop :=
  let pair := s.rd (r + 1)
  field pair 44 20 = 0 ∧ field pair 40 4 ≤ 4 ∧ (s.rd r).toNat % 4 = 0 ∧ field pair 0 16 % 4 = 0 ∧ field pair 16 24 % 4 = 0 ∧
  ∀ va nib, some (va, nib) ∈ els → inWindow va = true ∧ windowCore va < 48 ∧
    (s.h.priv = true ∨ inPartition s.h.sppart (windowCore va) (windowOff va) = true) ∧ s.mem.intact (s.padKey va / 64)

/-- Elements of the A side of a tile form in scratchpad. -/
def State.padA (s : State) (tm : Nat) (t : Tile) : List (Option (Word × Nat)) :=
  padElems (tileWidth t.afmt.toNat) (s.rd t.a) (s.rd (t.a + 1)) (placesA s.h tm t)

/-- Elements of the B side. -/
def State.padB (s : State) (t : Tile) : List (Option (Word × Nat)) :=
  padElems (tileWidth t.bfmt.toNat) (s.rd t.b) (s.rd (t.b + 1)) (placesB s.h)

/-- The operands of a tile form as memory and registers hold them. -/
def State.tileOperands (s : State) (tm : Nat) (t : Tile) : TileIn :=
  let x := tileRegs s.h s.vctx tm t
  { x with
    a := if t.asp = 1 then ⟨(s.padA tm t).map (s.padElem (tileWidth t.afmt.toNat)), []⟩ else x.a
    b := if t.bsp = 1 then ⟨(s.padB t).map (s.padElem (tileWidth t.bfmt.toNat)), []⟩ else x.b }

/-- The shape of a tile form. -/
def State.tileShape (s : State) (tm : Nat) (t : Tile) : TileShape :=
  ⟨tm, s.h.mt, s.h.nt, s.h.kt, t.tra == 1, t.trb == 1, t.afmt.toNat, t.bfmt.toNat, s.h.rctx.fz⟩

/-! ### Engines -/

/-- A state that differs from another at most in the bytes at some keys, every line of which is undisturbed. -/
def State.Apart (s : State) (T : Nat → Prop) (u : State) : Prop :=
  { u with mem := s.mem } = s ∧ u.WellKept ∧ (∀ k, ¬ T k → cellGet u.mem.cells k = cellGet s.mem.cells k) ∧
  (∀ k, T k → u.mem.intact (k / 64)) ∧ ∀ l, (∀ k, k / 64 = l → ¬ T k) → u.mem.line l = s.mem.line l

/-- Where an engine's accesses of a kind land while it writes the keys `T` alone: `K` gives the key of each address, in pages of
layout `nl` that are neither sealed nor mirrored; every home answers and every line is undisturbed. -/
def State.Lets (s : State) (c : Ctx) (kind : Kind) (T : Nat → Prop) (K : Word → Nat) (nl : Nat) (on : Word → Prop) : Prop :=
  ∀ a, on a → K a % 64 = a.toNat % 64 ∧ (∀ b, on b → b.toNat / 64 = a.toNat / 64 → K b / 64 = K a / 64) ∧
    s.reachable c.die (K a) = true ∧ s.mem.intact (K a / 64) ∧
    ∀ u, s.Apart T u → ∃ x t, (resolve c a kind 0).on u = (.ok (x, t), u) ∧ (kind = .store → (dirtyM c a t).on u = (.ok (), u)) ∧
      x.key = K a ∧ x.nl = nl ∧ x.isSealed = false ∧ x.mir = false

/-- A command is the one its engine runs next for its place, on a cluster that has its clocks (R254), with a descriptor of eight words. -/
def State.Next (s : State) (c : Cmd) (rest : List Cmd) (ws : Nat → Word) : Prop :=
  s.WellKept ∧ s.cmds = c :: rest ∧ c ∉ rest ∧ c.record = none ∧ c.two = true ∧ c.word1.toNat % 64 = 0 ∧
  (s.cluster c.key.die c.key.clu).clock = .on ∧
  ∃ K, s.Lets c.ctx .load (fun _ => False) K 0 (fun a => a = c.word1) ∧
    ∀ i < 8, s.mem.bytes (K c.word1 + 8 * i) 8 = toBytes 8 (ws i).toNat

/-- A step of an engine gives a command its record and leaves every byte of memory but those at the keys `T`. -/
def State.ends (s : State) (i : Instr) (c : Cmd) (rest : List Cmd) (status detail : Nat) (T : Nat → Prop) (post : State → Prop) : Prop :=
  ∃ t, exec i s = .next t ∧ t.h = s.h ∧ t.others = s.others ∧
    t.cmds = { c with record := some (recordWord detail c.eng status c.ticket) } :: rest ∧
    (∀ k, ¬ T k → cellGet t.mem.cells k = cellGet s.mem.cells k) ∧ post t

/-- The address, kind and log2 of the size of a scalar access (R87, R90, R92, R65). -/
def scalarAccess (i : Instr) (s : State) : Option (Word × Kind × Nat) :=
  match i with
  | .lb _ a o => some (s.ea a o, .load, 0)
  | .lh _ a o => some (s.ea a o, .load, 1)
  | .lw _ a o => some (s.ea a o, .load, 2)
  | .ld _ a o => some (s.ea a o, .load, 3)
  | .lbz _ a o => some (s.ea a o, .load, 0)
  | .lhz _ a o => some (s.ea a o, .load, 1)
  | .lwz _ a o => some (s.ea a o, .load, 2)
  | .sb _ a o => some (s.ea a o, .store, 0)
  | .sh _ a o => some (s.ea a o, .store, 1)
  | .sw _ a o => some (s.ea a o, .store, 2)
  | .sd _ a o => some (s.ea a o, .store, 3)
  | .lda _ a _ => some (s.rd a, .load, 3)
  | .lwa _ a _ => some (s.rd a, .load, 2)
  | .stl a _ _ => some (s.rd a, .store, 3)
  | .swl a _ _ => some (s.rd a, .store, 2)
  | .nLdf _ p => some (s.frame p, .load, 3)
  | .nStf _ p => some (s.frame p, .store, 3)
  | .amoswap _ a _ _ _ => some (s.rd a, .atomic, 3)
  | .amoadd _ a _ _ _ => some (s.rd a, .atomic, 3)
  | .amoand _ a _ _ _ => some (s.rd a, .atomic, 3)
  | .amoor _ a _ _ _ => some (s.rd a, .atomic, 3)
  | .amoxor _ a _ _ _ => some (s.rd a, .atomic, 3)
  | .amomin _ a _ _ _ => some (s.rd a, .atomic, 3)
  | .amomax _ a _ _ _ => some (s.rd a, .atomic, 3)
  | .amocas _ a _ _ _ => some (s.rd a, .atomic, 3)
  | .amowswap _ a _ _ _ => some (s.rd a, .atomic, 2)
  | .amowadd _ a _ _ _ => some (s.rd a, .atomic, 2)
  | .amowand _ a _ _ _ => some (s.rd a, .atomic, 2)
  | .amowor _ a _ _ _ => some (s.rd a, .atomic, 2)
  | .amowxor _ a _ _ _ => some (s.rd a, .atomic, 2)
  | .amowmin _ a _ _ _ => some (s.rd a, .atomic, 2)
  | .amowmax _ a _ _ _ => some (s.rd a, .atomic, 2)
  | .amowcas _ a _ _ _ => some (s.rd a, .atomic, 2)
  | _ => none

/-- Whether a scalar access is a releasing form: it waits for the acknowledgements of the hart's earlier scalar stores (R91, R92,
R355). -/
def releases (i : Instr) : Bool :=
  match i with
  | .stl _ _ _ | .swl _ _ _ => true
  | .amoswap _ _ _ _ o | .amoadd _ _ _ _ o | .amoand _ _ _ _ o | .amoor _ _ _ _ o => o.getLsbD 1
  | .amoxor _ _ _ _ o | .amomin _ _ _ _ o | .amomax _ _ _ _ o | .amocas _ _ _ _ o => o.getLsbD 1
  | .amowswap _ _ _ _ o | .amowadd _ _ _ _ o | .amowand _ _ _ _ o | .amowor _ _ _ _ o => o.getLsbD 1
  | .amowxor _ _ _ _ o | .amowmin _ _ _ _ o | .amowmax _ _ _ _ o | .amowcas _ _ _ _ o => o.getLsbD 1
  | _ => false

end Sys2Proof.Machine
end

