-- ==== Sys2Proof/Certificates/Slice0/Obligations.lean ====
section
/-! DEFINITION. The statements about the model, for the provers. -/

open Sys2Proof Sys2Proof.Machine

/-! ### Encoding -/

/-- Words written out from the spec's encodings decode to the instructions they stand for (R61 to R68 and the encoding
tables of the instruction chapters). -/
def Obligations.WordsDecode : Prop :=
  decode (leBytes 4 0x801CC505) = .ok (.mulh 5 6 7, 4) ∧
  decode (leBytes 4 0x801CC519) = .ok (.srai 5 6 7, 4) ∧
  decode (leBytes 4 0x00812839) = .ok (.bltu 8 9 32, 4) ∧
  decode (leBytes 4 0xFFF0A849) = .ok (.lbz 8 5 0x7FF, 4) ∧
  decode (leBytes 4 0x0088C94D) = .ok (.sw 9 6 4, 4) ∧
  decode (leBytes 4 0xFD1CC551) = .ok (.amocas 5 6 7 10 3, 4) ∧
  decode (leBytes 4 0x2088C561) = .ok (.swapsr 5 6 0x041, 4) ∧
  decode [0, 0] = .error .zeroParcel

/-- Every well-formed instruction that has an encoding decodes back from it, with every operand and whatever bytes follow. -/
def Obligations.EncodedInstructionsDecodeBack : Prop :=
  ∀ (i : Instr) (rest : List Byte), i.wf = true → i.encoded = true →
    decode (encodeBytes i ++ rest) = .ok (i, i.size)

/-- Whatever decodes is a well-formed instruction with an encoding, and the bytes are its encoding and no other: no bit of
an instruction is ignored. -/
def Obligations.DecodedBytesAreTheEncoding : Prop :=
  ∀ (bytes : List Byte) (i : Instr) (n : Nat), decode bytes = .ok (i, n) →
    i.wf = true ∧ i.encoded = true ∧ n = i.size ∧ bytes.take n = encodeBytes i

/-! ### The machine -/

/-- A step at which no module step is due, no committed access is left to perform and nothing happens at the boundary runs the
instruction that the bytes at the program counter decode to. With nothing run ahead the step is the instruction and no more. Where
the front end runs ahead of older vector work (R168, log 40), an instruction that its commit window foresaw leaves it, and one that
ends otherwise, or that the window does not hold, discards what was run ahead; one that was carried out ahead commits as it was
foreseen, and is not run again. -/
def Obligations.StepRunsTheDecodedInstruction : Prop :=
  ∀ (s t : State) (bytes : List Byte) (i : Instr) (n : Nat), s.shut = false → s.agenda = [] → s.h.late = [] → s.boundary = none →
    (∀ f a rest, s.h.front = some f → f.window = a :: rest → a.pc = s.h.pc → a.held = false →
      step s = .next { s with h := { s.h with
        pc := a.after.pc, x := a.after.x, vl := a.after.vl, vcfg := a.after.vcfg, rc := a.after.rc, dl := a.after.dl, dt := a.after.dt
        mt := a.after.mt, nt := a.after.nt, kt := a.after.kt, mm := a.after.mm, fflags := s.h.fflags ||| a.flags
        front := if s.h.viq = [] ∧ rest = [] ∧ f.halted = false then none else some { f with window := rest } } }) ∧
    ((∀ f a rest, s.h.front = some f → f.window = a :: rest → a.pc = s.h.pc → a.held = true) →
      fetchBytes.on s = (.ok bytes, t) → decode bytes = .ok (i, n) →
        step s = commitScalar s (exec i t) ∧
        (∀ u, exec i t = .next u → u.h.front = none ∨ u.h.front ≠ s.h.front → step s = .next u) ∧
        (∀ u f a rest, exec i t = .next u → u.h.front = s.h.front → u.h.front = some f → f.window = a :: rest → a.pc = s.h.pc →
          a.after = u.h.resolved →
          step s = .next { u with h := { u.h with
            front := if u.h.viq = [] ∧ rest = [] ∧ f.halted = false then none else some { f with window := rest } } }) ∧
        (∀ u f, exec i t = .next u → u.h.front = s.h.front → u.h.front = some f →
          (∀ a rest, f.window = a :: rest → ¬ (a.pc = s.h.pc ∧ a.after = u.h.resolved)) →
          step s = .next { u with h := { u.h with tokens := u.h.returned, viq := [], front := none } }))

/-- R5, R29, R30, R34, R104, the rules of the die registers R241, R248, R260, R276, R340, R342, and R303 for memory: the state after module reset.
Which cores run is the spec's; that it is hart 0 whose turn it is, and the die manager cores' program counters and places, are the
model's choices (logs 1 to 4), as are the zeros of registers for which the spec gives no value (log 5). -/
def Obligations.ResetState : Prop :=
  let s := State.reset
  s.h.key = dmKey 0 ∧ s.others.map (·.key) = [dmKey 1, dmKey 2, dmKey 3] ∧
  (∀ h ∈ s.h :: s.others, h.priv = true ∧ h.run = .running ∧ h.vcfg = 2 ∧ h.vl = 0 ∧ h.rc = 1 ∧ h.fflags = 0 ∧
    h.tsave = 2 ∧ h.ih = false ∧ h.event = 0 ∧ h.evmask = 0 ∧ h.timecmp = BitVec.allOnes 64 ∧
    (∀ r : Reg, h.rd r = 0) ∧ h.mm = false ∧ h.tbn = 0 ∧ h.vsi = 0 ∧ h.vsr = 0 ∧ h.vsp = 0 ∧ h.viq = [] ∧ h.front = none ∧
    h.late = [] ∧ h.tcause = 0 ∧ h.tval = 0 ∧ h.tpc = 0 ∧ h.tinfo = 0) ∧
  (∀ d < 4, (s.die d).flsel = 0 ∧ (s.die d).cwake = 0 ∧ (s.die d).qcbase = 0 ∧ (s.die d).qasbase = 0 ∧ (s.die d).mbxbase = 0 ∧
    (s.die d).jbase = 0 ∧ (s.die d).uvpin = 0) ∧
  (∀ k, cellGet s.mem.cells k = 0) ∧ s.gangs = [] ∧ s.launches = [] ∧ s.groves = [] ∧ s.shut = false

/-- Reset memory has its canonical form. -/
def Obligations.ResetIsWellKept : Prop := State.reset.WellKept

/-- Every step keeps memory in its canonical form: addresses rising, no zero byte listed, no clean line listed. -/
def Obligations.StepsKeepMemoryCanonical : Prop :=
  ∀ s t : State, s.WellKept → step s = .next t → t.WellKept

/-! ### Scalar registers and arithmetic -/

/-- R11: `s0` reads zero and a write to it is discarded; another register reads what was last written to it. -/
def Obligations.RegisterZero : Prop :=
  ∀ (s : State) (d r : Reg) (v : Word) (n : Nat), s.rd 0 = 0 ∧ s.wrote 0 v n = s.jumped (s.h.pc + BitVec.ofNat 64 n) ∧
    (d ≠ 0 → (s.wrote d v n).rd d = v) ∧ (r ≠ d → (s.wrote d v n).rd r = s.rd r)

/-- R82: the register operations, division by a nonzero divisor and the counts of leading zeros, trailing zeros and ones
included. Nothing changes but D and the program counter: no flag, no memory. -/
def Obligations.RegisterOperations : Prop :=
  ∀ (s : State) (d a b : Reg),
    let A := s.rd a
    let B := s.rd b
    let gives (i : Instr) (v : Word) : Prop := exec i s = .next (s.wrote d v 4)
    let k := B.toNat % 64
    gives (.add d a b) (BitVec.ofNat 64 (A.toNat + B.toNat)) ∧
    gives (.sub d a b) (BitVec.ofInt 64 (A.toInt - B.toInt)) ∧
    gives (.and d a b) (A &&& B) ∧
    gives (.or d a b) (A ||| B) ∧
    gives (.xor d a b) (A ^^^ B) ∧
    gives (.andn d a b) (A &&& ~~~B) ∧
    gives (.sll d a b) (BitVec.ofNat 64 (A.toNat * 2 ^ k)) ∧
    gives (.srl d a b) (BitVec.ofNat 64 (A.toNat / 2 ^ k)) ∧
    gives (.sra d a b) (BitVec.ofInt 64 (A.toInt / 2 ^ k)) ∧
    gives (.slt d a b) (if A.toInt < B.toInt then 1 else 0) ∧
    gives (.sltu d a b) (if A.toNat < B.toNat then 1 else 0) ∧
    gives (.min d a b) (BitVec.ofInt 64 (min A.toInt B.toInt)) ∧
    gives (.max d a b) (BitVec.ofInt 64 (max A.toInt B.toInt)) ∧
    gives (.minu d a b) (BitVec.ofNat 64 (min A.toNat B.toNat)) ∧
    gives (.maxu d a b) (BitVec.ofNat 64 (max A.toNat B.toNat)) ∧
    gives (.mul d a b) (BitVec.ofInt 64 (A.toInt * B.toInt)) ∧
    gives (.mulh d a b) (BitVec.ofInt 64 (A.toInt * B.toInt / 2 ^ 64)) ∧
    gives (.mulhu d a b) (BitVec.ofNat 64 (A.toNat * B.toNat / 2 ^ 64)) ∧
    gives (.addw d a b) ((BitVec.ofNat 32 (A.toNat + B.toNat)).signExtend 64) ∧
    gives (.subw d a b) ((BitVec.ofInt 32 (A.toInt - B.toInt)).signExtend 64) ∧
    (B ≠ 0 →
      gives (.div d a b) (BitVec.ofInt 64 (A.toInt.tdiv B.toInt)) ∧
      gives (.divu d a b) (BitVec.ofNat 64 (A.toNat / B.toNat)) ∧
      gives (.rem d a b) (BitVec.ofInt 64 (A.toInt.tmod B.toInt)) ∧
      gives (.remu d a b) (BitVec.ofNat 64 (A.toNat % B.toNat))) ∧
    (∃ n ≤ 64, gives (.clz d a) (BitVec.ofNat 64 n) ∧ A.toNat < 2 ^ (64 - n) ∧
      (n < 64 → 2 ^ (63 - n) ≤ A.toNat)) ∧
    (∃ n ≤ 64, gives (.ctz d a) (BitVec.ofNat 64 n) ∧ A.toNat % 2 ^ n = 0 ∧
      (n < 64 → A.toNat / 2 ^ n % 2 = 1)) ∧
    gives (.popc d a) (BitVec.ofNat 64 ((List.range 64).filter fun i => A.getLsbD i).length)

/-- R83: division by zero. `div` and `divu` write all ones, `rem` and `remu` write A, and all four set `DZ`; with `DZT` set
they raise DIVZ and write nothing. The most negative number divided by −1 gives itself and the remainder 0, with no flag. -/
def Obligations.DivisionByZero : Prop :=
  ∀ (s : State) (d a b : Reg),
    (s.rd b = 0 → field s.h.vcfg 9 1 = 0 →
      exec (.div d a b) s = .next ((s.flagged 2).wrote d (BitVec.allOnes 64) 4) ∧
      exec (.divu d a b) s = .next ((s.flagged 2).wrote d (BitVec.allOnes 64) 4) ∧
      exec (.rem d a b) s = .next ((s.flagged 2).wrote d (s.rd a) 4) ∧
      exec (.remu d a b) s = .next ((s.flagged 2).wrote d (s.rd a) 4)) ∧
    (s.rd b = 0 → field s.h.vcfg 9 1 = 1 → ∀ i ∈ [Instr.div d a b, .divu d a b, .rem d a b, .remu d a b],
      exec i s = .next (s.takeTrap 0x07 0 1 s.h.pc)) ∧
    (s.rd a = BitVec.intMin 64 → s.rd b = -1 →
      exec (.div d a b) s = .next (s.wrote d (BitVec.intMin 64) 4) ∧ exec (.rem d a b) s = .next (s.wrote d 0 4))

/-- R84: the immediate operations. -/
def Obligations.ImmediateOperations : Prop :=
  ∀ (s : State) (d a : Reg) (imm : BitVec 14) (long : BitVec 19) (k : BitVec 6),
    let A := s.rd a
    let gives (i : Instr) (v : Word) : Prop := exec i s = .next (s.wrote d v 4)
    gives (.addi d a imm) (BitVec.ofInt 64 (A.toInt + imm.toInt)) ∧
    gives (.andi d a imm) (A &&& BitVec.ofInt 64 imm.toInt) ∧
    gives (.ori d a imm) (A ||| BitVec.ofInt 64 imm.toInt) ∧
    gives (.xori d a imm) (A ^^^ BitVec.ofInt 64 imm.toInt) ∧
    gives (.slti d a imm) (if A.toInt < imm.toInt then 1 else 0) ∧
    gives (.slli d a k) (BitVec.ofNat 64 (A.toNat * 2 ^ k.toNat)) ∧
    gives (.srli d a k) (BitVec.ofNat 64 (A.toNat / 2 ^ k.toNat)) ∧
    gives (.srai d a k) (BitVec.ofInt 64 (A.toInt / 2 ^ k.toNat)) ∧
    gives (.lui d long) (BitVec.ofInt 64 (long.toInt * 2 ^ 13)) ∧
    gives (.addpc d long) (BitVec.ofInt 64 (s.h.pc.toInt + long.toInt * 2 ^ 13))

/-! ### Control -/

/-- R85: a branch goes on at its own address plus twice its offset where its condition holds, and at the next instruction
otherwise; it changes nothing else. R86: the jumps write the address of the next instruction to D; `jalr` reads A before D is
written and clears bit 0 of its target. -/
def Obligations.BranchesAndJumps : Prop :=
  (∀ (s : State) (a b : Reg) (off : BitVec 14),
      let A := s.rd a
      let B := s.rd b
      let goes (i : Instr) (c : Prop) : Prop :=
        (c → exec i s = .next (s.jumped (BitVec.ofInt 64 (s.h.pc.toInt + 2 * off.toInt)))) ∧
        (¬ c → exec i s = .next (s.jumped (BitVec.ofNat 64 (s.h.pc.toNat + 4))))
      goes (.beq a b off) (A = B) ∧ goes (.bne a b off) (A ≠ B) ∧
      goes (.blt a b off) (A.toInt < B.toInt) ∧ goes (.bge a b off) (A.toInt ≥ B.toInt) ∧
      goes (.bltu a b off) (A.toNat < B.toNat) ∧ goes (.bgeu a b off) (A.toNat ≥ B.toNat)) ∧
  (∀ (s : State) (d a : Reg) (off : BitVec 19) (imm : BitVec 14),
      exec (.jal d off) s =
        .next ((s.wrote d (s.h.pc + 4) 4).jumped (BitVec.ofInt 64 (s.h.pc.toInt + 2 * off.toInt))) ∧
      exec (.jalr d a imm) s =
        .next ((s.wrote d (s.h.pc + 4) 4).jumped (BitVec.ofInt 64 ((s.rd a).toInt + imm.toInt) &&& ~~~1)))

/-- R65: the compressed forms act as what they expand to, and the next instruction is two bytes on. -/
def Obligations.CompressedForms : Prop :=
  ∀ (s : State) (d a : Reg) (p : BitVec 7) (far : BitVec 12),
    let next : Word := BitVec.ofNat 64 (s.h.pc.toNat + 2)
    let target (o : Int) : Word := BitVec.ofInt 64 (s.h.pc.toInt + 2 * o)
    exec (.nInc d p) s = .next (s.wrote d (BitVec.ofInt 64 ((s.rd d).toInt + p.toInt)) 2) ∧
    exec (.nCopy d a) s = .next (s.wrote d (s.rd a) 2) ∧
    exec (.nAcc d a) s = .next (s.wrote d (BitVec.ofNat 64 ((s.rd d).toNat + (s.rd a).toNat)) 2) ∧
    exec (.nBrz d p) s = .next (s.jumped (if s.rd d = 0 then target p.toInt else next)) ∧
    exec (.nBrnz d p) s = .next (s.jumped (if s.rd d = 0 then next else target p.toInt)) ∧
    exec (.nGo far) s = .next (s.jumped (target far.toInt))

/-! ### Scalar accesses -/

/-- R87, R92, R65, R89: a load whose access lands and whose line reads without SEV2 writes the value read to D, sets `SEV1`
where the line was delivered bounded, and goes on. `t` is the state after translation and `u` the state after the read at
the home; neither touches the hart. A load whose line reads uncorrectable twice raises SEV2 with its address and writes nothing. -/
def Obligations.ScalarLoads : Prop :=
  (∀ (s t : State) (d a : Reg) (o : BitVec 11) (p : BitVec 7) (c : BitVec 4) (x : Xlat),
      let completes (i : Instr) (va : Word) (lg n : Nat) (f : Nat → Word) : Prop :=
        s.Lands va .load lg x t → (t.readAt x.key (2 ^ lg)).2.1 < 2 →
          let (bs, sev, u) := t.readAt x.key (2 ^ lg)
          u.h = s.h ∧ exec i s = .next ((if sev = 1 then u.flagged 64 else u).wrote d (f (ofBytes bs)) n)
      let sx (w : Nat) (v : Nat) : Word := BitVec.ofInt 64 (BitVec.ofNat w v).toInt
      let zx (v : Nat) : Word := BitVec.ofNat 64 v
      completes (.lb d a o) (s.ea a o) 0 4 (sx 8) ∧ completes (.lh d a o) (s.ea a o) 1 4 (sx 16) ∧
      completes (.lw d a o) (s.ea a o) 2 4 (sx 32) ∧ completes (.ld d a o) (s.ea a o) 3 4 zx ∧
      completes (.lbz d a o) (s.ea a o) 0 4 zx ∧ completes (.lhz d a o) (s.ea a o) 1 4 zx ∧
      completes (.lwz d a o) (s.ea a o) 2 4 zx ∧
      completes (.lda d a c) (s.rd a) 3 4 zx ∧ completes (.lwa d a c) (s.rd a) 2 4 (sx 32) ∧
      completes (.nLdf d p) (s.rd 2 + BitVec.ofNat 64 (8 * p.toNat)) 3 2 zx) ∧
  (∀ (s t : State) (i : Instr) (va : Word) (lg : Nat) (x : Xlat), scalarAccess i s = some (va, .load, lg) →
      s.Lands va .load lg x t →
      let u := (t.readAt x.key (2 ^ lg)).2.2
      let again := u.readAt x.key (2 ^ lg)
      u.reachable s.h.key.die x.key = true → (t.readAt x.key (2 ^ lg)).2.1 = 2 → again.2.1 = 2 →
        exec i s = .next (again.2.2.takeTrap 0x0C va (BitVec.ofNat 64 (16 * lg)) s.h.pc))

/-- R87, R92, R65: a store whose access lands writes the low bytes of its register there, and nothing else but what
translation wrote; a releasing one, where no acknowledgement that it waits for is lost (R355). -/
def Obligations.Stores : Prop :=
  ∀ (s t : State) (d a b : Reg) (o : BitVec 11) (p : BitVec 7) (c : BitVec 4) (x : Xlat),
    let completes (i : Instr) (va : Word) (lg n : Nat) (v : Word) : Prop :=
      s.Lands va .store lg x t →
        t.h = s.h ∧ exec i s = .next ((t.stored x (toBytes (2 ^ lg) v.toNat)).jumped (s.h.pc + BitVec.ofNat 64 n))
    completes (.sb d a o) (s.ea a o) 0 4 (s.rd d) ∧ completes (.sh d a o) (s.ea a o) 1 4 (s.rd d) ∧
    completes (.sw d a o) (s.ea a o) 2 4 (s.rd d) ∧ completes (.sd d a o) (s.ea a o) 3 4 (s.rd d) ∧
    (s.h.lost = [] → completes (.stl a b c) (s.rd a) 3 4 (s.rd b) ∧ completes (.swl a b c) (s.rd a) 2 4 (s.rd b)) ∧
    completes (.nStf d p) (s.rd 2 + BitVec.ofNat 64 (8 * p.toNat)) 3 2 (s.rd d)

/-- R90, R91: an atomic whose access lands reads the old value, writes the new one at the same place, and gives the old one
to D; `cas` writes nothing where the old value differs from D. All of it is one step. One that reads a bounded line sets `SEV1` (log
71); one that releases finds no acknowledgement lost (R355). -/
def Obligations.Atomics : Prop :=
  ∀ (s t : State) (d a b : Reg) (c : BitVec 4) (o : BitVec 2) (x : Xlat),
    let completes (i : Instr) (w lg : Nat) (f : BitVec w → BitVec w → BitVec w → Option (BitVec w)) : Prop :=
      (s.h.lost = [] ∨ o.getLsbD 1 = false) → s.Lands (s.rd a) .atomic lg x t → (t.readAt x.key (2 ^ lg)).2.1 < 2 →
      (t.readAt x.key (2 ^ lg)).2.2.reachable s.h.key.die x.key = true →
      (x.mir = true → (t.readAt x.key (2 ^ lg)).2.2.unreachable.contains ((t.readAt x.key (2 ^ lg)).2.2.pkg ^^^ 1) = false) →
        let (bs, sev, u) := t.readAt x.key (2 ^ lg)
        let old : BitVec w := BitVec.ofNat w (ofBytes bs)
        let u := if sev = 1 then u.flagged 64 else u
        let v := match f old ((s.rd b).setWidth w) ((s.rd d).setWidth w) with
          | some y => u.stored x (toBytes (2 ^ lg) y.toNat)
          | none => u
        exec i s = .next (v.wrote d (BitVec.ofInt 64 old.toInt) 4)
    let swap {w : Nat} (_ y _ : BitVec w) : Option (BitVec w) := some y
    let add {w : Nat} (x y _ : BitVec w) : Option (BitVec w) := some (x + y)
    let and {w : Nat} (x y _ : BitVec w) : Option (BitVec w) := some (x &&& y)
    let or {w : Nat} (x y _ : BitVec w) : Option (BitVec w) := some (x ||| y)
    let xor {w : Nat} (x y _ : BitVec w) : Option (BitVec w) := some (x ^^^ y)
    let min {w : Nat} (x y _ : BitVec w) : Option (BitVec w) := some (if x.toInt ≤ y.toInt then x else y)
    let max {w : Nat} (x y _ : BitVec w) : Option (BitVec w) := some (if x.toInt ≤ y.toInt then y else x)
    let cas {w : Nat} (x y old : BitVec w) : Option (BitVec w) := if x = old then some y else none
    completes (.amoswap d a b c o) 64 3 swap ∧ completes (.amoadd d a b c o) 64 3 add ∧
    completes (.amoand d a b c o) 64 3 and ∧ completes (.amoor d a b c o) 64 3 or ∧
    completes (.amoxor d a b c o) 64 3 xor ∧ completes (.amomin d a b c o) 64 3 min ∧
    completes (.amomax d a b c o) 64 3 max ∧ completes (.amocas d a b c o) 64 3 cas ∧
    completes (.amowswap d a b c o) 32 2 swap ∧ completes (.amowadd d a b c o) 32 2 add ∧
    completes (.amowand d a b c o) 32 2 and ∧ completes (.amowor d a b c o) 32 2 or ∧
    completes (.amowxor d a b c o) 32 2 xor ∧ completes (.amowmin d a b c o) 32 2 min ∧
    completes (.amowmax d a b c o) 32 2 max ∧ completes (.amowcas d a b c o) 32 2 cas

/-- R88, R275: the checks of a scalar access come in order. A misaligned address raises ALIGN; an aligned one that is neither
canonical nor in the scratchpad window, or names a core above 47 there, raises PAGE with reason 2; nothing else happens. A
releasing form (R91, R92) finds no acknowledgement lost (R355). -/
def Obligations.AccessChecks : Prop :=
  ∀ (s : State) (i : Instr) (va : Word) (k : Kind) (lg : Nat), scalarAccess i s = some (va, k, lg) →
    (s.h.lost = [] ∨ releases i = false) →
    (va.toNat % 2 ^ lg ≠ 0 → exec i s = .next (s.takeTrap 0x04 va (BitVec.ofNat 64 (k.code + 16 * lg)) s.h.pc)) ∧
    (va.toNat % 2 ^ lg = 0 →
      ((va.toNat / 2 ^ 24 ≠ 0xFE00000000 ∧ va.toNat / 2 ^ 56 ≠ 0 ∧ va.toNat / 2 ^ 56 ≠ 0xFF) ∨
        (va.toNat / 2 ^ 24 = 0xFE00000000 ∧ 48 ≤ va.toNat / 2 ^ 18 % 2 ^ 6)) →
      exec i s = .next (s.takeTrap 0x05 va (BitVec.ofNat 64 (k.code + 16 * lg + 512)) s.h.pc))

/-- R217, R219, R220: a window address is not translated. On a launched hart it lands in the scratchpad of its cluster, for
unprivileged code inside the partition alone, and translation changes nothing; outside the partition it raises PAGE with
reason 1. R276, R297: with no page table a die manager core reaches physical addresses of its own package below 2^42, but for
those that the map marks none, which raise PAGE with reason 5; above, PAGE with reason 0. -/
def Obligations.UntranslatedAddresses : Prop :=
  ∀ (s : State) (va : Word) (k : Kind) (lg : Nat),
    let core := va.toNat / 2 ^ 18 % 2 ^ 6
    let off := va.toNat % 2 ^ 18
    let inside := s.h.priv || inPartition s.h.sppart core off
    let gives (x : Xlat) : Prop := (translate s.h.ctx va k lg).on s = (.ok x, s)
    let faults (reason : Nat) : Prop :=
      (translate s.h.ctx va k lg).on s = (.error (.trap 0x05 va (BitVec.ofNat 64 (k.code + 16 * lg + 256 * reason))), s)
    (s.h.key.dm = false → va.toNat / 2 ^ 24 = 0xFE00000000 → core < 48 →
      (inside = true → gives ⟨spadKey s.h.key.die s.h.key.clu core off, 0, false, false, true⟩) ∧ (inside = false → faults 1)) ∧
    (s.h.key.dm = true → field s.h.ptroot 12 30 = 0 → va.toNat < 2 ^ 56 →
      (va.toNat < 2 ^ 42 → inNone va.toNat = false → gives ⟨s.pkg * 2 ^ 42 + va.toNat, 0, false, false, false⟩) ∧
      (va.toNat < 2 ^ 42 → inNone va.toNat = true → faults 5) ∧ (2 ^ 42 ≤ va.toNat → faults 0))

/-- R277 to R282: the walk, for an address whose translation the core does not hold, over tables that can be read: `t n`
is the table of level `n`, `e n` the entry it gives, and a level is reached through well-formed pointers alone. An entry
that is not present raises PAGE with reason 0 and a malformed one PAGE with reason 5. A block of level 2 or 1, or a leaf
entry, gives the frame with the address's low bits, the layout, seal and mirror bits, and its home package; its A bit is
then set, and D before a store or an atomic; the other entries of a leaf line that offers a summary may have A set too. A
translation that is not allowed writes no memory. R278, R283: the permission check of a translation. R for a load, W for a
store, both for an atomic, X for a fetch, and U for unprivileged code, or PAGE with reason 1; then a reserved layout
raises PAGE with reason 3. -/
def Obligations.PagePermissions : Prop :=
  (∀ (s : State) (c : Ctx) (va : Word) (k : Kind) (lg : Nat) (t : Nat → Nat),
    let a := va.toNat
    let own (l : Nat) : Nat := s.pkg * 2 ^ 42 + l
    let index (n : Nat) : Nat := a / 2 ^ (12 + 9 * n) % 512
    let place (n : Nat) : Nat := t n + 8 * index n
    let e (n : Nat) : Nat := ofBytes (s.mem.bytes (own (place n)) 8)
    let line : Nat := t 0 + 64 * (a / 2 ^ 15 % 64)
    let i : Nat := a / 2 ^ 12 % 8
    let f : Nat := ofBytes (s.mem.bytes (own (line + 7 * i)) 7)
    let valid : Prop := ofBytes (s.mem.bytes (own (line + 56)) 8) / 2 ^ 63 = 1
    let readable (l : Nat) : Prop := inMemory l = true ∧ s.mem.intact (own l / 64) ∧ s.reachable c.die (own l) = true
    let frame (n : Nat) : Nat := e n / 2 ^ 16 % 2 ^ 30
    let pkg (n : Nat) : Nat := e n / 2 ^ 52
    let home (p : Nat) : Nat := if p = 0xFFF then s.pkg else p
    let here (p : Nat) : Prop := home p = s.pkg
    let sound (x p l : Nat) : Prop := inNone l = false ∧ (here p ∨ inHostWindow l = false) ∧
      (x / 2 ^ 13 % 2 = 1 → here p ∧ s.hasPartner = true)
    let tidy (n : Nat) : Prop := e n / 2 ^ 46 % 2 ^ 6 = 0 ∧ e n / 2 ^ 14 % 4 = 0 ∧ (pkg n = 0xFFF ∨ pkg n < 1152)
    let pointer (n : Nat) : Prop := tidy n ∧ e n / 2 % 2 ^ 13 = 0 ∧ (n = 1 ∨ here (pkg n)) ∧ inMemory (frame n * 4096) = true
    let isBlock (n : Nat) : Prop := tidy n ∧ n ≤ 2 ∧ e n / 2 ^ 7 % 2 = 1 ∧ frame n % 2 ^ (9 * n) = 0 ∧ sound (e n) (pkg n) (frame n * 4096)
    let isPage : Prop := f / 2 ^ 14 % 4 = 0 ∧ f / 2 ^ 46 = 0 ∧ (f / 2 ^ 7 % 2 = 1 → f / 2 ^ 16 % 16 = 0) ∧
      sound f (pkg 1) (f / 2 ^ 16 * 4096)
    let ready (n : Nat) : Prop := inMemory (t n) = true ∧ readable (place n) ∧ ∀ m, n < m → m ≤ 4 →
      inMemory (t m) = true ∧ readable (place m) ∧ e m % 2 = 1 ∧ pointer m
    let r := (translate c va k lg).on s
    let fails (reason : Nat) : Prop :=
      r.1 = .error (.trap 0x05 va (BitVec.ofNat 64 (k.code + 16 * lg + 256 * reason))) ∧ r.2.mem = s.mem
    let gives (x byte key : Nat) (others : Nat → Prop) : Prop :=
      let bit (j : Nat) : Prop := x / 2 ^ j % 2 = 1
      let allowed : Prop := (match k with
        | .load => bit 1
        | .store => bit 2
        | .atomic => bit 1 ∧ bit 2
        | .fetch => bit 3) ∧ (c.priv = true ∨ bit 4)
      (¬ allowed → fails 1) ∧ (allowed → 12 ≤ x / 2 ^ 8 % 16 → fails 3) ∧
      (allowed → x / 2 ^ 8 % 16 < 12 →
        r.1 = .ok ⟨key, x / 2 ^ 8 % 16, decide (bit 12), decide (bit 13), false⟩ ∧
        { r.2 with mem := s.mem, cores := s.cores, dies := s.dies } = s ∧
        cellGet r.2.mem.cells (own byte) =
          cellGet s.mem.cells (own byte) ||| (if k = .store ∨ k = .atomic then 0x60 else 0x20) ∧
        ∀ n, n ≠ own byte → cellGet r.2.mem.cells n = cellGet s.mem.cells n ∨
          (others n ∧ cellGet r.2.mem.cells n = cellGet s.mem.cells n ||| 0x20))
    s.WellKept → s.pkg < 1152 → canonical va = true → (c.dm = false ∨ field c.ptroot 12 30 ≠ 0) →
    s.held c va = none → t 4 = field c.ptroot 12 30 * 4096 → (∀ n, 1 ≤ n → n ≤ 4 → t (n - 1) = frame n * 4096) →
    (∀ n, 1 ≤ n → n ≤ 4 → ready n →
      (e n % 2 = 0 → fails 0) ∧ (e n % 2 = 1 → ¬ pointer n → ¬ isBlock n → fails 5) ∧
      (e n % 2 = 1 → isBlock n →
        gives (e n) (place n) (home (pkg n) * 2 ^ 42 + frame n * 4096 + a % 2 ^ (12 + 9 * n)) fun _ => False)) ∧
    (readable line → (∀ m, 1 ≤ m → m ≤ 4 →
        inMemory (t m) = true ∧ readable (place m) ∧ e m % 2 = 1 ∧ pointer m) →
      (f % 2 = 0 → fails 0) ∧ (f % 2 = 1 → ¬ isPage → fails 5) ∧
      (f % 2 = 1 → isPage → gives f (line + 7 * i)
        (home (pkg 1) * 2 ^ 42 + f / 2 ^ 16 * 4096 + a % 2 ^ (if f / 2 ^ 7 % 2 = 1 then 16 else 12))
        fun n => valid ∧ ∃ j < 8, n = own (line + 7 * j)))) ∧
  ∀ (s : State) (c : Ctx) (e : TlbEntry) (va : Word) (k : Kind) (lg : Nat),
    let bit (i : Nat) : Prop := e.attrs / 2 ^ i % 2 = 1
    let allowed : Prop := (match k with
      | .load => bit 1
      | .store => bit 2
      | .atomic => bit 1 ∧ bit 2
      | .fetch => bit 3) ∧ (c.priv = true ∨ bit 4)
    (allowed → e.attrs / 2 ^ 8 % 16 < 12 → (checkPerm c e va k lg).on s = (.ok (), s)) ∧
    (¬ allowed → (checkPerm c e va k lg).on s = (.error (.trap 0x05 va (BitVec.ofNat 64 (k.code + 16 * lg + 256))), s)) ∧
    (allowed → 12 ≤ e.attrs / 2 ^ 8 % 16 →
      (checkPerm c e va k lg).on s = (.error (.trap 0x05 va (BitVec.ofNat 64 (k.code + 16 * lg + 768))), s))

/-- Memory at an undisturbed line (R301 to R303): a read gives the stored bytes with severity 0 and changes nothing. A write
stores exactly its bytes: they read back, every other byte of memory reads as before, the line's layout is that of the write
and the line stays undisturbed, and nothing but memory changes. -/
def Obligations.IntactLines : Prop :=
  ∀ (s : State) (k n : Nat) (bs : List Byte) (nl : Nat), s.WellKept → s.mem.intact (k / 64) →
    (k % 64 + n ≤ 64 → s.readAt k n = (s.mem.bytes k n, 0, s)) ∧
    (k % 64 + bs.length ≤ 64 →
      let t := s.writeAt k bs (some nl)
      t.mem.bytes k bs.length = bs ∧ (∀ a, ¬ (k ≤ a ∧ a < k + bs.length) → cellGet t.mem.cells a = cellGet s.mem.cells a) ∧
      (t.mem.line (k / 64)).tag = nl ∧ t.mem.intact (k / 64) ∧ (∀ l, l ≠ k / 64 → t.mem.line l = s.mem.line l) ∧
      { t with mem := s.mem } = s)

/-! ### Fences, system registers, traps -/

/-- R93: a fence goes on at the next instruction and changes nothing else, every earlier access of the hart being performed
(R139, log 10); R355: where an acknowledgement that it waits for is lost, it raises LINK with the address of the first such store. R102:
`yieldpt` too goes on in a gang of ANY mode, in one that is neither asked to stop nor felled, whatever happens to other gangs,
and on a hart of no gang; a wait at it ends. -/
def Obligations.FencesAndPassedYields : Prop :=
  ∀ (s : State) (a : Reg) (n : BitVec 1) (c : BitVec 4),
    let on : State := s.jumped (BitVec.ofNat 64 (s.h.pc.toNat + 4))
    exec .fenceI s = .next on ∧
    (∀ p ∈ [(Instr.fence c, true, true), (.fenceSV c, true, false), (.fenceVS c, false, true), (.fenceVV c, false, true),
        (.fenceSS c, true, false)],
      let mine (u : Unacked) : Prop := (u.vector = true ∧ p.2.2 = true) ∨ (u.vector = false ∧ p.2.1 = true)
      let hit (u : Unacked) : Prop := mine u ∧ (c = 7 ∨ c = 8 ∨ c = 9 ∨ (c = 6 ∧ u.pkg / 64 = s.pkg / 64))
      let miss (u : Unacked) : Prop := ¬ mine u ∨ c.toNat < 6 ∨ (c = 6 ∧ u.pkg / 64 ≠ s.pkg / 64)
      ((∀ u ∈ s.h.lost, miss u) → exec p.1 s = .next on) ∧
      ∀ before u after, s.h.lost = before ++ u :: after → (∀ x ∈ before, miss x) → hit u → exec p.1 s = .next (s.linkKill u.va)) ∧
    ((s.h.yld = false ∨ ∀ g ∈ s.gangs, s.h.gang = some g.id → g.felled = false ∧ g.preempt = false) →
      exec (.yieldpt a n) s = .next { on with h := { on.h with wait := .none } })

/-- R97, R5: the five SYS instructions that read and write a register that exists for the hart: the old value goes to D, the
new value where the register takes it, or OPND with the value; bits cleared by writing 1 take `setsrb` as no write. Register
numbers from 0x100 on raise PRIV at unprivileged level, assigned or not; an unassigned number that the level may name raises
ILLOP. Both leave the encoding in `TVAL` and change nothing else. -/
def Obligations.SystemRegisterAccess : Prop :=
  (∀ (s : State) (d a : Reg) (n : BitVec 9), (n.toNat < 0x100 ∨ s.h.priv = true) → assigned s.h.key.dm n.toNat = true →
      let old := s.srValue s.h n.toNat
      let A := s.rd a
      let clears := n = 0x040 ∨ n = 0x15B
      let puts (i : Instr) (v : Word) : Prop :=
        (∀ t, s.srWrite n.toNat v = some t → exec i s = .next ((t.srReadEffect n.toNat).wrote d old 4)) ∧
        (s.srWrite n.toNat v = none → exec i s = .next (s.takeTrap 0x0B v 1 s.h.pc))
      exec (.getsr d n) s = .next ((s.srReadEffect n.toNat).wrote d old 4) ∧
      (∀ t, s.srWrite n.toNat A = some t → exec (.putsr a n) s = .next (t.jumped (t.h.pc + 4))) ∧
      (s.srWrite n.toNat A = none → exec (.putsr a n) s = .next (s.takeTrap 0x0B A 1 s.h.pc)) ∧
      puts (.swapsr d a n) A ∧
      (¬ clears → puts (.setsrb d a n) (old ||| A) ∧ puts (.clrsrb d a n) (old &&& ~~~A)) ∧
      (clears → exec (.setsrb d a n) s = .next ((s.srReadEffect n.toNat).wrote d old 4) ∧ puts (.clrsrb d a n) A)) ∧
  (∀ (s : State) (d a : Reg) (n : BitVec 9), ∀ i ∈ [Instr.getsr d n, .putsr a n, .swapsr d a n, .setsrb d a n, .clrsrb d a n],
      (0x100 ≤ n.toNat → s.h.priv = false → exec i s = .next (s.takeTrap 0x03 (encode i) 0 s.h.pc)) ∧
      ((n.toNat < 0x100 ∨ s.h.priv = true) → assigned s.h.key.dm n.toNat = false →
        exec i s = .next (s.takeTrap 0x01 (encode i) 0 s.h.pc)))

/-- R8, R27, R29 to R34, R104: a register that software reads and writes whole holds what was written, under its writable
bits, and no other register of the hart changes. An unprivileged write of a register that is read-only at that level is ignored;
privileged writes of `VL`, `VCFG` and `RC` hold a legal value and refuse others. -/
def Obligations.SystemRegisterWrites : Prop :=
  (∀ (s : State) (v : Word), ∀ p ∈ ([(0x004, BitVec.allOnes 64), (0x005, BitVec.allOnes 64), (0x006, BitVec.allOnes 64),
        (0x008, 0xFFFF), (0x009, 0xFFFF), (0x00A, 0xFFFF), (0x00C, BitVec.allOnes 64), (0x00D, BitVec.allOnes 64),
        (0x00E, BitVec.allOnes 64), (0x010, 0x7F), (0x011, ~~~15), (0x012, BitVec.allOnes 64), (0x041, 0x1F),
        (0x100, ~~~3), (0x101, 0xFF), (0x102, BitVec.allOnes 64), (0x103, ~~~1), (0x104, BitVec.allOnes 64), (0x105, 3),
        (0x106, BitVec.allOnes 64)] : List (Nat × Word)),
      ∃ t, s.srWrite p.1 v = some t ∧ t.srValue t.h p.1 = v &&& p.2 ∧ (∀ n, n ≠ p.1 → t.srValue t.h n = s.srValue s.h n) ∧
        t.h.pc = s.h.pc ∧ (∀ r, t.rd r = s.rd r) ∧ t.mem = s.mem) ∧
  (∀ (s : State) (v : Word),
      (s.h.priv = false → ∀ n ∈ [0x000, 0x001, 0x002, 0x003, 0x018, 0x019, 0x01A, 0x01B, 0x020, 0x021, 0x022, 0x028, 0x029,
        0x030, 0x038, 0x050, 0x051], s.srWrite n v = some s) ∧
      (s.h.priv = true →
        (s.srWrite 0x000 v = if v.toNat ≤ s.vmax s.h s.h.vcfg then some { s with h := { s.h with vl := v.toNat } } else none) ∧
        (s.srWrite 0x001 v =
          if v.toNat / 2 ^ 12 = 0 ∧ v.toNat % 8 < 4 ∧ v.toNat / 2 ^ 5 % 4 ≠ 3 ∧ s.h.vl ≤ s.vmax s.h v
          then some { s with h := { s.h with vcfg := v } } else none) ∧
        (s.srWrite 0x002 v = if 1 ≤ v.toNat ∧ v.toNat ≤ 32 then some { s with h := { s.h with rc := v.toNat } } else none)))

/-- R107, R99: trap entry, for `trap` and `brkpt` outside a handler. `TPC` is the next instruction's address for `trap` and
its own for `brkpt`; the queue behind is discarded and its tokens return (R165, R169); nothing but that, the trap state, the level
and the program counter changes. -/
def Obligations.RequestedTraps : Prop :=
  ∀ (s : State) (a : Reg) (n : BitVec 9), s.h.ih = false →
    let entered (cause : BitVec 8) (tval tpc : Word) : State := { s with h := { s.h with
      tpc := tpc &&& ~~~1, tcause := cause, tval := tval, tinfo := BitVec.ofNat 64 n.toNat, tsave := s.h.vcfg
      pprv := s.h.priv, ih := true, priv := true, pc := BitVec.ofNat 64 (s.h.tvec.toNat / 4 * 4), wait := .none
      tokens := s.h.returned, viq := [], front := none } }
    exec (.trap a n) s = .next (entered 0x10 (s.rd a) (s.h.pc + 4)) ∧ exec (.brkpt n) s = .next (entered 0x11 0 s.h.pc)

/-- R107: any synchronous trap outside a handler saves the return address, cause, values, configuration and level, makes the
hart privileged and goes on at the handler; the rest of the state stands. R108: one inside a handler whose state is unsaved stops
the hart, ends its gang, which its launch records as failed with `REASON` 4 (R273), and reports the hart, the new cause and the old
`TPC` to its die's mailbox. -/
def Obligations.TrapEntry : Prop :=
  (∀ (s : State) (cause : Nat) (tval tinfo ret : Word), s.h.ih = false →
      let t := s.takeTrap cause tval tinfo ret
      t.h.tpc = BitVec.ofNat 64 (ret.toNat / 2 * 2) ∧ t.h.tcause = BitVec.ofNat 8 cause ∧ t.h.tval = tval ∧ t.h.tinfo = tinfo ∧
      t.h.tsave = s.h.vcfg ∧ t.h.pprv = s.h.priv ∧ t.h.ih = true ∧ t.h.priv = true ∧
      t.h.pc = BitVec.ofNat 64 (s.h.tvec.toNat / 4 * 4) ∧ t.h.vcfg = s.h.vcfg ∧ t.h.vl = s.h.vl ∧ t.h.rc = s.h.rc ∧
      t.h.vsi = s.h.vsi ∧ t.h.vsr = s.h.vsr ∧ t.h.vsp = s.h.vsp ∧ t.h.mm = s.h.mm ∧ t.h.x = s.h.x ∧ t.h.v = s.h.v ∧
      t.h.k = s.h.k ∧ t.h.fflags = s.h.fflags ∧ t.h.viq = [] ∧ t.h.front = none ∧
      ((∀ e ∈ s.h.viq, e.took = false) → t.h.tokens = s.h.tokens) ∧ { t with h := s.h } = s) ∧
  (∀ (s : State) (cause : Nat) (tval tinfo ret : Word) (g : Nat), s.h.ih = true → s.h.gang = some g → s.h.run = .running →
      (∃ x ∈ s.gangs, x.id = g) → s.h.key.die < 4 →
      let t := s.takeTrap cause tval tinfo ret
      t.h.run = .ended ∧ t.h.gang = none ∧ (∀ x ∈ t.gangs, x.id ≠ g) ∧
      (∀ x ∈ s.gangs, x.id = g → (∀ y ∈ s.gangs, y.id = g → y = x) → x.leave = none → x.anyFelled = false →
        ∀ l ∈ s.launches, l.id = x.launch → ∃ l' ∈ t.launches, l'.id = l.id ∧ (x.idx, Leave.failed 4) ∈ l'.left) ∧
      ∃ r, (t.die s.h.key.die).reports = (s.die s.h.key.die).reports ++ [r] ∧
        r.hartid = BitVec.ofNat 32 (hartidWord s.pkg s.h.key).toNat ∧ r.word0 = BitVec.ofNat 64 (1 + cause * 256) ∧
        r.word1 = s.h.tpc)

/-- R109: `tret` goes on at `TPC` with `VCFG` from `TSAVE` and the saved level, `IH` clear, and nothing else changed;
unprivileged it raises PRIV. R5: code on a die manager core stays privileged. -/
def Obligations.TrapReturn : Prop :=
  ∀ s : State,
    (s.h.priv = true → exec .tret s =
      .next { s with h := { s.h with pc := s.h.tpc, vcfg := s.h.tsave, priv := s.h.pprv || s.h.key.dm, ih := false } }) ∧
    (s.h.priv = false → exec .tret s = .next (s.takeTrap 0x03 0x00180061 0 s.h.pc))

/-- R34, R100: an enabled event of an unprivileged hart traps at the boundary, with cause EVT and the pending bits, which are
those set in both registers (log 71); nothing else being due there, as on a hart whose gang is neither cancelled nor felled nor asked
to stop, or on a hart of no gang. A privileged hart goes on. `wfe` gives D the pending
events and goes on at once where one is set, clearing none; otherwise the hart waits at it, and completes at the boundary
after a bit has set, whatever `EVMASK` holds. -/
def Obligations.EventsAndWaiting : Prop :=
  ∀ (s : State) (d : Reg),
    let calm : Prop := ∀ g ∈ s.gangs, s.h.gang = some g.id → g.leave ≠ some .cancelled ∧ g.felled = false ∧ g.preempt = false
    let still : Prop := s.shut = false ∧ s.agenda = [] ∧ s.h.run = .running ∧ s.h.viq = [] ∧ s.h.front = none ∧ s.h.late = [] ∧ calm
    (still → s.h.wait = .none →
      (s.h.priv = false → s.h.event &&& s.h.evmask ≠ 0 →
        step s = .next (s.enterTrap 0x06 0 (BitVec.ofNat 64 (s.h.event &&& s.h.evmask).toNat) s.h.pc)) ∧
      (s.h.priv = true → s.boundary = none)) ∧
    (s.h.event ≠ 0 → s.h.wait = .none → exec (.wfe d) s = .next (s.wrote d (BitVec.ofNat 64 s.h.event.toNat) 4)) ∧
    (s.h.event = 0 → exec (.wfe d) s = .next { s with h := { s.h with wait := .wfe d } }) ∧
    (s.h.event ≠ 0 → s.h.wait = .wfe d → still →
      step s = .next ({ s with h := { s.h with wait := .none } }.wrote d (BitVec.ofNat 64 s.h.event.toNat) 4))

/-- R101, R103: `end` of an unprivileged hart ends it, and its gang's launch gathers its flags; at privileged level it raises
ILLOP, and where an acknowledgement is lost LINK with the first such store's address (R355). `halt` of a privileged hart stops it,
and ends its gang, which its launch records as failed with `REASON` 4 (R273); unprivileged it raises PRIV. -/
def Obligations.HartsEndAndHalt : Prop :=
  ∀ (s : State),
    (s.h.priv = true → exec .endHart s = .next (s.takeTrap 0x01 0x00200061 0 s.h.pc)) ∧
    (s.h.priv = false → s.h.run = .running → s.h.lost = [] → ∃ t, exec .endHart s = .next t ∧ t.h.run = .ended ∧ t.h.x = s.h.x ∧ t.mem = s.mem ∧
      (∀ g ∈ s.gangs, s.h.gang = some g.id → (∀ y ∈ s.gangs, y.id = g.id → y = g) → ∀ l ∈ s.launches, l.id = g.launch →
        (∃ l' ∈ t.launches, l'.id = l.id ∧ l'.flags = l.flags ||| s.h.fflags))) ∧
    (∀ u rest, s.h.priv = false → s.h.lost = u :: rest → exec .endHart s = .next (s.linkKill u.va)) ∧
    (s.h.priv = false → exec .halt s = .next (s.takeTrap 0x03 0x00280061 0 s.h.pc)) ∧
    (s.h.priv = true → s.h.run = .running →
      (s.h.gang = none → ∃ t, exec .halt s = .next t ∧
        t.h = { s.h with run := .ended, wait := .none, viq := [], front := none, late := [], lost := [], ready := [] } ∧ t.mem = s.mem) ∧
      (∀ g ∈ s.gangs, s.h.gang = some g.id → ∃ t, exec .halt s = .next t ∧ t.h.run = .ended ∧ t.mem = s.mem ∧
        (∀ x ∈ t.gangs, x.id ≠ g.id) ∧
        ((∀ y ∈ s.gangs, y.id = g.id → y = g) → g.leave = none → g.anyFelled = false →
          ∀ l ∈ s.launches, l.id = g.launch → ∃ l' ∈ t.launches, l'.id = l.id ∧ (g.idx, Leave.failed 4) ∈ l'.left)))

/-! ### Floating point -/

/-- R50, R52: rounding an exact nonzero value `(-1)^neg * m * 2^e` to a format. Where OF is not set the sign is kept, the
result is the neighbour that the mode asks for (the nearest, ties to the even code; the one nearer zero; the next above; the
next below), NX is set where it is not the value itself, UF where it is also tiny, and no other flag; under `FZ` 1 and 2 a
subnormal result of f32, bf16 or f16 becomes zero of its sign with UF and NX (R51). `V` is the magnitude of a code. R40, R50, R51,
R94, R125: the operations of f32 and f16 round the exact real result once: sum, difference, product, quotient, square root and the
two fused forms. -/
def Obligations.RoundingIsCorrect : Prop :=
  (∀ (p : FmtP) (c : RCtx), p ∈ [fmtF32, fmtF16] → p.Exact c) ∧
  ∀ (p : FmtP) (rm : RMode) (neg : Bool) (m : Nat) (e : Int), p ∈ [fmtF32, fmtBF16, fmtF16, fmtE4M3, fmtE5M2, fmtE2M1] → m ≠ 0 →
    let (x, f) := p.roundFin rm 0 neg m e
    let c := x % 2 ^ (p.width - 1)
    let lo := min e (p.qmin - 2)
    let M := m * 2 ^ (e - lo).toNat
    let V (c : Nat) : Nat :=
      (if c < 2 ^ p.frac then c else (2 ^ p.frac + c % 2 ^ p.frac) * 2 ^ (c / 2 ^ p.frac - 1)) * 2 ^ (p.qmin - lo).toNat
    let down : Prop := V c ≤ M ∧ M < V (c + 1)
    let up : Prop := M ≤ V c ∧ ∀ b, b + 1 = c → V b < M
    let least := V (2 ^ p.frac)
    let quarter := 2 ^ (p.qmin - 2 - lo).toNat
    let tiny : Prop := match rm with
      | .rtz => M < least
      | .rup => if neg then M < least else M ≤ least - 2 * quarter
      | .rdn => if neg then M ≤ least - 2 * quarter else M < least
      | .rne => M < least - quarter
    (∀ fz, p.roundFin rm fz neg m e = if p ∈ [fmtF32, fmtBF16, fmtF16] then p.flushedOut fz (x, f) else (x, f)) ∧
    (f.getLsbD 2 = true → (x, f) = (p.overflow rm neg, 20)) ∧
    (f.getLsbD 2 = false →
      x / 2 ^ (p.width - 1) = (if neg then 1 else 0) ∧ c ≤ p.maxCode ∧ (f.getLsbD 4 = true ↔ V c ≠ M) ∧
      (f.getLsbD 3 = true ↔ tiny ∧ V c ≠ M) ∧ (∀ b ∈ [0, 1, 5, 6], f.getLsbD b = false) ∧
      match rm with
      | .rtz => down
      | .rup => if neg then down else up
      | .rdn => if neg then up else down
      | .rne => (2 * M ≤ V c + V (c + 1) ∧ (2 * M = V c + V (c + 1) → c % 2 = 0)) ∧
          ∀ b, b + 1 = c → V b + V c ≤ 2 * M ∧ (V b + V c = 2 * M → c % 2 = 0))

/-- R94, R95: scalar f32. The operands are bits 31:0; the result fills bits 31:0 and zeros the rest, its flags join the sticky
ones, and nothing else changes. `fadd`, `fsub`, `fmul`, `fdiv` and `fsqrt` round the exact real result. `fcvt` to an integer
appends an exception-list entry for a NaN before D is written, or raises XLFULL where the list is full. -/
def Obligations.ScalarFloat : Prop :=
  ∀ (s t : State) (d a b : Reg) (x : Xlat),
    let A := (s.rd a).toNat % 2 ^ 32
    let B := (s.rd b).toNat % 2 ^ 32
    let c := s.h.rctx
    let gives (i : Instr) (r : Nat × Flags) : Prop := exec i s = .next ((s.flagged r.2).wrote d (BitVec.ofNat 64 r.1) 4)
    let truth (r : Bool × Flags) : Nat × Flags := (if r.1 then 1 else 0, r.2)
    let v := fmtF32.readIn c.fz A
    let n := (s.rd a).toInt
    fmtF32.Exact c ∧
    gives (.fadd d a b) (fmtF32.fadd c A B) ∧ gives (.fsub d a b) (fmtF32.fsub c A B) ∧
    gives (.fmul d a b) (fmtF32.fmul c A B) ∧ gives (.fdiv d a b) (fmtF32.fdiv c A B) ∧
    gives (.fmin d a b) (fmtF32.fminmax false c.fz A B) ∧ gives (.fmax d a b) (fmtF32.fminmax true c.fz A B) ∧
    gives (.fsqrt d a) (fmtF32.fsqrt c A) ∧
    gives (.feq d a b) (truth (fmtF32.ceq c.fz A B)) ∧ gives (.flt d a b) (truth (fmtF32.cless false c.fz A B)) ∧
    gives (.fle d a b) (truth (fmtF32.cless true c.fz A B)) ∧
    gives (.fcvtIF d a) (fmtF32.round c.rm c.fz (.fin (n < 0) n.natAbs 0)) ∧
    (v.isNan = false →
      let r := toIntRange c false (-(2 ^ 63)) (2 ^ 63 - 1) 64 v
      gives (.fcvtFI d a) (r.bits, r.flags)) ∧
    (v.isNan = true → s.h.xlimit.toNat ≤ s.h.xcount.toNat →
      exec (.fcvtFI d a) s = .next (s.takeTrap 0x13 s.h.xlAddr 0 s.h.pc)) ∧
    (v.isNan = true → s.h.xcount.toNat < s.h.xlimit.toNat → s.Lands s.h.xlAddr .store 4 x t →
      let u := t.stored x (xlEntry s.h.pc 0 0 8 3)
      exec (.fcvtFI d a) s = .next ((({ u with h := { u.h with xcount := u.h.xcount + 1 } } : State).flagged 1).wrote d 0 4))

/-! ### Vector configuration -/

/-- R110, R111: `setvl` and `setvlr` grant a length and set the configuration; `setvlr` refuses a malformed one, `setrc` a row
count of 0 or above 32, `setdim` a length above 16 bits. With RP the grant is made after the strip boundary (R179). -/
def Obligations.VectorLength : Prop :=
  ∀ (s : State) (d a b : Reg) (c : BitVec 12) (n : BitVec 2),
    let grants (i : Instr) (w : Word) : Prop :=
      let u := if w.getLsbD 10 then s.stripBoundary else s
      let G := if w.getLsbD 11 then u.gangGroups u.h else (u.groups u.h.key).length
      let vmax := 256 * G * 2 ^ (w.toNat / 8 % 4) / 2 ^ (w.toNat % 4)
      let req := (s.rd a).toNat
      ∃ vl, exec i s = .next (({ u with h := { u.h with vcfg := w, vl := vl } } : State).wrote d (BitVec.ofNat 64 vl) 4) ∧
        (req ≤ vmax → vl = req) ∧ (3 * vmax ≤ req → vl = vmax) ∧
        (vmax < req → req < 3 * vmax →
          let k := (req + vmax - 1) / vmax
          vl = (req + k - 1) / k)
    let cfg := s.rd b
    let good := cfg.toNat / 2 ^ 12 = 0 ∧ cfg.toNat % 8 < 4 ∧ cfg.toNat / 2 ^ 5 % 4 ≠ 3
    grants (.setvl d a c) (c.setWidth 64) ∧
    (good → grants (.setvlr d a b) cfg) ∧
    (¬ good → exec (.setvlr d a b) s = .next (s.takeTrap 0x0B cfg 2 s.h.pc)) ∧
    (1 ≤ (s.rd a).toNat → (s.rd a).toNat ≤ 32 →
      exec (.setrc d a) s = .next (({ s with h := { s.h with rc := (s.rd a).toNat } } : State).wrote d (s.rd a) 4)) ∧
    ((s.rd a).toNat = 0 ∨ 32 < (s.rd a).toNat → exec (.setrc d a) s = .next (s.takeTrap 0x0B (s.rd a) 1 s.h.pc)) ∧
    ((s.rd a).toNat < 2 ^ 16 → n.toNat < 3 → ∃ t, exec (.setdim a b n) s = .next t ∧
      t = { s with h := { s.h with dl := t.h.dl, dt := t.h.dt, pc := s.h.pc + 4 } } ∧
      t.h.dlen n.toNat = (s.rd a).toNat ∧ t.h.dstride n.toNat = s.rd b ∧
      ∀ m, m ≠ n.toNat → t.h.dlen m = s.h.dlen m ∧ t.h.dstride m = s.h.dstride m) ∧
    (2 ^ 16 ≤ (s.rd a).toNat → exec (.setdim a b n) s = .next (s.takeTrap 0x0B (s.rd a) 1 s.h.pc))

/-! ### Vector arithmetic -/

/-- R112, R124: the integer functions, in every form, on a hart whose vector work is at rest and in every stored encoding of the
sources. Active elements receive the table's value, inactive ones keep theirs; SAT and DZ are set by the active elements that
saturate or divide by zero, and no other flag. The divisions assume that no active divisor is zero where `DZT` is set. -/
def Obligations.VectorIntegers : Prop :=
  ∀ (s : State) (d a b : Reg) (imm : BitVec 5) (k : BitVec 3) (e : BitVec 1),
    s.Ready → s.RowsSound → s.h.mm = false → s.h.vl ≠ 0 → s.fits d → s.fits a → s.apart d a →
    let w := s.h.sew
    let S (x : Nat) : Int := sext x w
    let U (x : Nat) : Int := x
    let low (x : Int) : Nat × Flags := (wrap x w, 0)
    let bits (x : Nat) : Nat × Flags := (x, 0)
    let clamp (lo hi x : Int) : Nat × Flags := if x < lo then (wrap lo w, 32) else if hi < x then (wrap hi w, 32) else (wrap x w, 0)
    let signed := clamp (-(2 ^ (w - 1))) (2 ^ (w - 1) - 1)
    let unsigned := clamp 0 (2 ^ w - 1)
    let byZero (y : Nat) (z r : Nat × Flags) : Nat × Flags := if y = 0 then z else r
    let all : Nat × Flags := (2 ^ w - 1, 2)
    let VV : Prop := s.fits b ∧ s.apart d b
    let form (i : Instr) (B : Nat → Nat → Nat) (f : Nat → Nat → Nat → Nat × Flags) : Prop :=
      s.writesRows i d w (s.active k) fun q j => f (s.elem a w q j) (B q j) (s.elem d w q j)
    let vs : Nat → Nat → Nat := fun _ _ => (s.rd b).toNat % 2 ^ w
    let vi : Nat → Nat → Nat := fun _ _ => wrap imm.toInt w
    let forms (v x i : Instr) (f : Nat → Nat → Nat → Nat × Flags) : Prop :=
      (VV → form v (s.elem b w) f) ∧ form x vs f ∧ form i vi f
    let safe (B : Nat → Nat → Nat) : Prop :=
      field s.h.vcfg 9 1 = 1 → ∀ q < s.h.rc, ∀ j < s.h.vl, s.active k q j = true → B q j ≠ 0
    let divides (v x i : Instr) (f : Nat → Nat → Nat → Nat × Flags) : Prop :=
      (VV → safe (s.elem b w) → form v (s.elem b w) f) ∧ (safe vs → form x vs f) ∧ (safe vi → form i vi f)
    forms (.vaddVV d a b k e) (.vaddVS d a b k e) (.vaddVI d a imm k e) (fun x y _ => low (U x + U y)) ∧
    forms (.vsubVV d a b k e) (.vsubVS d a b k e) (.vsubVI d a imm k e) (fun x y _ => low (U x - U y)) ∧
    forms (.vrsubVV d a b k e) (.vrsubVS d a b k e) (.vrsubVI d a imm k e) (fun x y _ => low (U y - U x)) ∧
    forms (.vmulVV d a b k e) (.vmulVS d a b k e) (.vmulVI d a imm k e) (fun x y _ => low (U x * U y)) ∧
    forms (.vmulhVV d a b k e) (.vmulhVS d a b k e) (.vmulhVI d a imm k e) (fun x y _ => low (S x * S y / 2 ^ w)) ∧
    forms (.vmulhuVV d a b k e) (.vmulhuVS d a b k e) (.vmulhuVI d a imm k e) (fun x y _ => low (U x * U y / 2 ^ w)) ∧
    divides (.vdivVV d a b k e) (.vdivVS d a b k e) (.vdivVI d a imm k e)
      (fun x y _ => byZero y all (low ((S x).tdiv (S y)))) ∧
    divides (.vdivuVV d a b k e) (.vdivuVS d a b k e) (.vdivuVI d a imm k e) (fun x y _ => byZero y all (low (U x / U y))) ∧
    divides (.vremVV d a b k e) (.vremVS d a b k e) (.vremVI d a imm k e)
      (fun x y _ => byZero y (x, 2) (low ((S x).tmod (S y)))) ∧
    divides (.vremuVV d a b k e) (.vremuVS d a b k e) (.vremuVI d a imm k e)
      (fun x y _ => byZero y (x, 2) (low (U x % U y))) ∧
    forms (.vminVV d a b k e) (.vminVS d a b k e) (.vminVI d a imm k e) (fun x y _ => bits (if S x ≤ S y then x else y)) ∧
    forms (.vmaxVV d a b k e) (.vmaxVS d a b k e) (.vmaxVI d a imm k e) (fun x y _ => bits (if S x ≤ S y then y else x)) ∧
    forms (.vminuVV d a b k e) (.vminuVS d a b k e) (.vminuVI d a imm k e) (fun x y _ => bits (min x y)) ∧
    forms (.vmaxuVV d a b k e) (.vmaxuVS d a b k e) (.vmaxuVI d a imm k e) (fun x y _ => bits (max x y)) ∧
    forms (.vandVV d a b k e) (.vandVS d a b k e) (.vandVI d a imm k e) (fun x y _ => bits (x &&& y)) ∧
    forms (.vorVV d a b k e) (.vorVS d a b k e) (.vorVI d a imm k e) (fun x y _ => bits (x ||| y)) ∧
    forms (.vxorVV d a b k e) (.vxorVS d a b k e) (.vxorVI d a imm k e) (fun x y _ => bits (x ^^^ y)) ∧
    forms (.vsllVV d a b k e) (.vsllVS d a b k e) (.vsllVI d a imm k e) (fun x y _ => low (U x * 2 ^ (y % w))) ∧
    forms (.vsrlVV d a b k e) (.vsrlVS d a b k e) (.vsrlVI d a imm k e) (fun x y _ => bits (x / 2 ^ (y % w))) ∧
    forms (.vsraVV d a b k e) (.vsraVS d a b k e) (.vsraVI d a imm k e) (fun x y _ => low (S x / 2 ^ (y % w))) ∧
    forms (.vsaddVV d a b k e) (.vsaddVS d a b k e) (.vsaddVI d a imm k e) (fun x y _ => signed (S x + S y)) ∧
    forms (.vssubVV d a b k e) (.vssubVS d a b k e) (.vssubVI d a imm k e) (fun x y _ => signed (S x - S y)) ∧
    forms (.vsadduVV d a b k e) (.vsadduVS d a b k e) (.vsadduVI d a imm k e) (fun x y _ => unsigned (U x + U y)) ∧
    forms (.vssubuVV d a b k e) (.vssubuVS d a b k e) (.vssubuVI d a imm k e) (fun x y _ => unsigned (U x - U y)) ∧
    forms (.vmaccVV d a b k e) (.vmaccVS d a b k e) (.vmaccVI d a imm k e) (fun x y z => low (U z + U x * U y)) ∧
    form (.vabs d a k e) (fun _ _ => 0) (fun x _ _ => low (if S x < 0 then -S x else S x)) ∧
    form (.vneg d a k e) (fun _ _ => 0) (fun x _ _ => low (-S x))

/-- R121, R124: with `DZT` set, a vector division or remainder, in every form, masked or not, whose first active element with a
zero divisor is element `j` of row `q`, raises DIVZ there. The rows below and the elements before hold their results, row `q` is
PLAIN of length `vl` with the old elements from `j` on, the rows above hold what they held; `VSI` and `VSR` name the element, no
flag is set, and the return address is the instruction's. `TINFO` counts the active elements with a zero divisor from `j` on: to
the end of the run for a RUN divisor, to the first other element for any other. R123: with `vl` = 0 every legal instruction of
the chapter touches no row, mask or flag and goes on, but for `kpop` and `vextr`, which give zero, `kfirst`, which gives all ones,
the reductions, which write their identities, and `veinfo`; `vins` has no element to name and raises OPND. -/
def Obligations.VectorDivisionTrapAndEmptyVectors : Prop :=
  (∀ (s : State) (d a b : Reg) (imm : BitVec 5) (k : BitVec 3) (e : BitVec 1) (q j : Nat), s.Ready → s.RowsSound →
      s.h.mm = false → s.fits d → s.fits a → s.apart d a → field s.h.vcfg 9 1 = 1 → s.h.ih = false → q < s.h.rc → j < s.h.vl →
      s.active k q j = true →
      let w := s.h.sew
      let S (x : Nat) : Int := sext x w
      let VV : Prop := s.fits b ∧ s.apart d b
      let stored := (((Src.vec b.toNat w).read s.vctx s.h q false)).row
      let zeros (B : Nat → Nat → Nat) (i : Nat) : Prop := s.active k q i = true ∧ B q i = 0
      let first (B : Nat → Nat → Nat) (n : Nat) : Prop :=
        j + n ≤ s.h.vl ∧ (∀ i, j ≤ i → i < j + n → zeros B i) ∧ (j + n < s.h.vl → ¬ zeros B (j + n))
      let inRun (n : Nat) : Prop := ∀ pre x c post, stored = .run (pre ++ (x, c) :: post) →
        (pre.map Prod.snd).sum ≤ j → j < (pre.map Prod.snd).sum + c →
          n = ((List.range s.h.vl).filter fun i => j ≤ i && i < (pre.map Prod.snd).sum + c && s.active k q i).length
      let traps (i : Instr) (B : Nat → Nat → Nat) (count : Nat → Prop) (f : Nat → Nat → Nat) : Prop :=
        B q j = 0 → (∀ r < s.h.rc, ∀ i < s.h.vl, (r < q ∨ (r = q ∧ i < j)) → s.active k r i = true → B r i ≠ 0) →
        ∃ t n, exec i s = .next t ∧ s.KeptAround t ∧ count n ∧
          Hart.Same { s.h with
            v := t.h.v, vsi := BitVec.ofNat 64 j, vsr := BitVec.ofNat 64 q, vsp := 0, tpc := s.h.pc &&& ~~~1, tcause := 0x07, tval := 0
            tinfo := BitVec.ofNat 64 n, tsave := s.h.vcfg, pprv := s.h.priv, ih := true, priv := true, pc := s.h.tvec &&& ~~~3
            wait := .none, front := none } t.h ∧
          (∀ r < q + 1, ∀ i < s.h.vl, t.elem d w r i =
            if s.active k r i && (r < q || i < j) then f (s.elem a w r i) (B r i) else s.elem d w r i) ∧
          (∃ els, els.length = s.h.vl ∧ (t.h.vreg (d.toNat + q * s.h.grp)).row = .plain els) ∧
          ∀ m, ¬ (d.toNat ≤ m ∧ m < d.toNat + (q + 1) * s.h.grp) → t.h.vreg m = s.h.vreg m
      let forms (v x i : Instr) (f : Nat → Nat → Nat) : Prop :=
        (VV → traps v (s.elem b w) (fun n => if stored.isRun then inRun n else first (s.elem b w) n) f) ∧
        traps x (fun _ _ => (s.rd b).toNat % 2 ^ w) (first fun _ _ => (s.rd b).toNat % 2 ^ w) f ∧
        traps i (fun _ _ => wrap imm.toInt w) (first fun _ _ => wrap imm.toInt w) f
      forms (.vdivVV d a b k e) (.vdivVS d a b k e) (.vdivVI d a imm k e) (fun x y => wrap ((S x).tdiv (S y)) w) ∧
      forms (.vdivuVV d a b k e) (.vdivuVS d a b k e) (.vdivuVI d a imm k e) (fun x y => x / y) ∧
      forms (.vremVV d a b k e) (.vremVS d a b k e) (.vremVI d a imm k e) (fun x y => wrap ((S x).tmod (S y)) w) ∧
      forms (.vremuVV d a b k e) (.vremuVS d a b k e) (.vremuVI d a imm k e) (fun x y => x % y)) ∧
  (∀ (s : State) (d a b : Reg) (imm : BitVec 5) (k : BitVec 3) (e : BitVec 1), s.Ready → s.h.vl = 0 →
      let w := s.h.sew
      let p := if w = 16 then fmtF16 else fmtF32
      let floats : Prop := w = 16 ∨ w = 32
      let goesOn (is : List Instr) : Prop := ∀ i ∈ is, exec i s = .next (s.jumped (s.h.pc + 4))
      let one : Prop := s.fits d ∧ s.fits a ∧ s.apart d a
      let two : Prop := one ∧ s.fits b ∧ s.apart d b
      let mask : Prop := d ≠ 0 ∧ d.toNat < 8
      let crossing : Prop := s.fits d ∧ s.fits a ∧ s.disjoint d a
      let row (r : Reg) : Prop := r.toNat % s.h.grp = 0 ∧ r.toNat + s.h.grp ≤ 32
      let reduces (i : Instr) (identity : Nat) : Prop := ∃ t, exec i s = .next t ∧
        t = { s with h := { s.h with v := t.h.v, pc := s.h.pc + 4 } } ∧
        (∀ n, d.toNat ≤ n → n < d.toNat + s.h.grp →
          t.h.vreg n = ⟨field s.h.vcfg 0 2, field s.h.vcfg 3 2, n - d.toNat, .plain (List.replicate s.h.rc identity), []⟩) ∧
        ∀ n, ¬ (d.toNat ≤ n ∧ n < d.toNat + s.h.grp) → t.h.vreg n = s.h.vreg n
      (s.h.mm = false →
        (two → goesOn
          [.vaddVV d a b k e, .vsubVV d a b k e, .vrsubVV d a b k e, .vmulVV d a b k e, .vmulhVV d a b k e, .vmulhuVV d a b k e,
           .vdivVV d a b k e, .vdivuVV d a b k e, .vremVV d a b k e, .vremuVV d a b k e, .vminVV d a b k e, .vmaxVV d a b k e,
           .vminuVV d a b k e, .vmaxuVV d a b k e, .vandVV d a b k e, .vorVV d a b k e, .vxorVV d a b k e, .vsllVV d a b k e,
           .vsrlVV d a b k e, .vsraVV d a b k e, .vsaddVV d a b k e, .vssubVV d a b k e, .vsadduVV d a b k e, .vssubuVV d a b k e,
           .vmaccVV d a b k e]) ∧
        (one → goesOn
          [.vaddVS d a b k e, .vsubVS d a b k e, .vrsubVS d a b k e, .vmulVS d a b k e, .vmulhVS d a b k e, .vmulhuVS d a b k e,
           .vdivVS d a b k e, .vdivuVS d a b k e, .vremVS d a b k e, .vremuVS d a b k e, .vminVS d a b k e, .vmaxVS d a b k e,
           .vminuVS d a b k e, .vmaxuVS d a b k e, .vandVS d a b k e, .vorVS d a b k e, .vxorVS d a b k e, .vsllVS d a b k e,
           .vsrlVS d a b k e, .vsraVS d a b k e, .vsaddVS d a b k e, .vssubVS d a b k e, .vsadduVS d a b k e, .vssubuVS d a b k e,
           .vmaccVS d a b k e, .vabs d a k e, .vneg d a k e]) ∧
        (one → goesOn
          [.vaddVI d a imm k e, .vsubVI d a imm k e, .vrsubVI d a imm k e, .vmulVI d a imm k e, .vmulhVI d a imm k e,
           .vmulhuVI d a imm k e, .vdivVI d a imm k e, .vdivuVI d a imm k e, .vremVI d a imm k e, .vremuVI d a imm k e,
           .vminVI d a imm k e, .vmaxVI d a imm k e, .vminuVI d a imm k e, .vmaxuVI d a imm k e, .vandVI d a imm k e,
           .vorVI d a imm k e, .vxorVI d a imm k e, .vsllVI d a imm k e, .vsrlVI d a imm k e, .vsraVI d a imm k e,
           .vsaddVI d a imm k e, .vssubVI d a imm k e, .vsadduVI d a imm k e, .vssubuVI d a imm k e, .vmaccVI d a imm k e]) ∧
        (floats → two → goesOn
          [.vfaddVV d a b k e, .vfsubVV d a b k e, .vfmulVV d a b k e, .vfdivVV d a b k e, .vfminVV d a b k e, .vfmaxVV d a b k e,
           .vfmaVV d a b k e, .vfnmsVV d a b k e, .vfscaleVV d a b k e]) ∧
        (floats → one → goesOn
          [.vfaddVS d a b k e, .vfsubVS d a b k e, .vfmulVS d a b k e, .vfdivVS d a b k e, .vfminVS d a b k e, .vfmaxVS d a b k e,
           .vfmaVS d a b k e, .vfnmsVS d a b k e, .vfscaleVS d a b k e, .vfsqrt d a k e, .vfabs d a k e, .vfneg d a k e,
           .vfrnd d a k e, .vfclass d a k e]) ∧
        (mask → s.fits a → goesOn
          [.vceqVS d a b k, .vcneVS d a b k, .vcltVS d a b k, .vcleVS d a b k, .vcltuVS d a b k, .vcleuVS d a b k]) ∧
        (mask → s.fits a → s.fits b → goesOn
          [.vceqVV d a b k, .vcneVV d a b k, .vcltVV d a b k, .vcleVV d a b k, .vcltuVV d a b k, .vcleuVV d a b k]) ∧
        (floats → mask → s.fits a →
          goesOn [.vfceqVS d a b k, .vfcltVS d a b k, .vfcleVS d a b k, .vfcunVS d a b k] ∧
          (s.fits b → goesOn [.vfceqVV d a b k, .vfcltVV d a b k, .vfcleVV d a b k, .vfcunVV d a b k])) ∧
        (s.fits a → s.fits d → goesOn [.vscan d a k e] ∧ (floats → goesOn [.vfscan d a k e])) ∧
        (s.fits a → row d → (d.toNat + s.h.grp ≤ a.toNat ∨ a.toNat + s.h.rc * s.h.grp ≤ d.toNat) →
          reduces (.vredsum d a k e) 0 ∧ reduces (.vredor d a k e) 0 ∧ reduces (.vredand d a k e) (2 ^ w - 1) ∧
          reduces (.vredmin d a k e) (2 ^ (w - 1) - 1) ∧ reduces (.vredminu d a k e) (2 ^ w - 1) ∧
          reduces (.vredmax d a k e) (2 ^ (w - 1)) ∧ reduces (.vredmaxu d a k e) 0 ∧
          (floats → reduces (.vfredsum d a k e) 0 ∧ reduces (.vfredsumo d a k e) 0 ∧
            reduces (.vfredmin d a k e) (p.maxCode + 1) ∧ reduces (.vfredmax d a k e) (2 ^ (w - 1) + p.maxCode + 1)))) ∧
      (mask → goesOn [.kand d a b, .kor d a b, .kxor d a b, .kandn d a b, .knot d a, .kset d, .kclr d, .kmov d a, .klt d a b,
          .kenc d a 0, .kenc d a 1] ∧
        (s.fits a → goesOn [.kfromv d a] ∧ (1 ≤ (s.rd b).toNat → (s.rd b).toNat < 2 ^ 16 → goesOn [.kblk d a b]))) ∧
      exec (.kpop d a) s = .next (s.wrote d 0 4) ∧ exec (.kfirst d a) s = .next (s.wrote d (BitVec.allOnes 64) 4) ∧
      (s.fits d → goesOn [.ktov d a, .vsplat d a k e, .viota d a k e] ∧
        (s.rd b = 0 → exec (.vins d a b e) s = .next (s.takeTrap 0x0B 0 2 s.h.pc)) ∧
        (s.fits a → goesOn [.vmov d a k e] ∧ ((s.rd b).toNat ≤ 4 → goesOn [.venc d a b]))) ∧
      (crossing → goesOn [.vslup d a b k e, .vsldn d a b k e, .vcmprs d a k e] ∧
        (s.fits b → s.disjoint d b → goesOn [.vrgath d a b k e])) ∧
      exec (.veinfo d a e) s = .next (s.wrote d (s.h.vreg a.toNat).desc 4) ∧
      (s.fits a → s.rd b = 0 → 1 ≤ s.h.rc → exec (.vextr d a b e) s = .next (s.wrote d 0 4)) ∧
      (∀ (x y : BitVec 5) (S D : Fmt), Fmt.ofCode x.toNat = some S → Fmt.ofCode y.toNat = some D → S.width ≤ w → D.width ≤ w →
        one → goesOn [.vcvt d a x y k e]) ∧
      (w = 32 → (row a → goesOn [.vtabld a]) ∧ (row d → goesOn [.vtabst d]) ∧
        (s.fits d → s.fits a → goesOn [.vdictg d a k e])) ∧
      (s.fits d → s.fits a → ((s.rd b = 8 ∧ w = 32) ∨ (s.rd b = 9 ∧ w = 16) ∨ (s.rd b = 10 ∧ w = 16)) → goesOn [.vlatd d a b k e]))

/-- R112, R125: the floating-point functions, as the integer ones, at SEW 16 in f16 and at SEW 32 in f32: sum, difference,
product, quotient, square root and the fused forms round the exact real result. `vfscale` adds to the exponent the element of B, or
the whole of the scalar register. -/
def Obligations.VectorFloats : Prop :=
  ∀ (s : State) (d a b : Reg) (k : BitVec 3) (e : BitVec 1),
    s.Ready → s.RowsSound → s.h.mm = false → s.h.vl ≠ 0 → s.fits d → s.fits a → s.apart d a → s.h.sew = 16 ∨ s.h.sew = 32 →
    let w := s.h.sew
    let p := if w = 16 then fmtF16 else fmtF32
    let c := s.h.rctx
    let VV : Prop := s.fits b ∧ s.apart d b
    let form (i : Instr) (B : Nat → Nat → Nat) (f : Nat → Nat → Nat → Nat × Flags) : Prop :=
      s.writesRows i d w (s.active k) fun q j => f (s.elem a w q j) (B q j) (s.elem d w q j)
    let forms (v x : Instr) (f : Nat → Nat → Nat → Nat × Flags) : Prop :=
      (VV → form v (s.elem b w) f) ∧ form x (fun _ _ => (s.rd b).toNat % 2 ^ w) f
    let unary (i : Instr) (f : Nat → Nat × Flags) : Prop := form i (fun _ _ => 0) fun x _ _ => f x
    p.Exact c ∧
    forms (.vfaddVV d a b k e) (.vfaddVS d a b k e) (fun x y _ => p.fadd c x y) ∧
    forms (.vfsubVV d a b k e) (.vfsubVS d a b k e) (fun x y _ => p.fsub c x y) ∧
    forms (.vfmulVV d a b k e) (.vfmulVS d a b k e) (fun x y _ => p.fmul c x y) ∧
    forms (.vfdivVV d a b k e) (.vfdivVS d a b k e) (fun x y _ => p.fdiv c x y) ∧
    forms (.vfminVV d a b k e) (.vfminVS d a b k e) (fun x y _ => p.fminmax false c.fz x y) ∧
    forms (.vfmaxVV d a b k e) (.vfmaxVS d a b k e) (fun x y _ => p.fminmax true c.fz x y) ∧
    forms (.vfmaVV d a b k e) (.vfmaVS d a b k e) (fun x y z => p.ffma c x y z) ∧
    forms (.vfnmsVV d a b k e) (.vfnmsVS d a b k e) (fun x y z => p.ffnms c x y z) ∧
    unary (.vfsqrt d a k e) (p.fsqrt c) ∧ unary (.vfabs d a k e) (p.fsign c.fz false) ∧
    unary (.vfneg d a k e) (p.fsign c.fz true) ∧ unary (.vfrnd d a k e) (p.frnd c) ∧
    unary (.vfclass d a k e) (fun x => (p.fclass x, 0)) ∧
    (VV → form (.vfscaleVV d a b k e) (s.elem b w) fun x y _ => p.fscale c x (sext y w)) ∧
    form (.vfscaleVS d a b k e) (fun _ _ => 0) fun x _ _ => p.fscale c x (s.rd b).toInt

/-- R126: the compares write the bits of a mask register, `k1` to `k7`: the active ones the comparison, the others kept. Float
compares set NV as R126 says and exist at SEW 16 and 32. -/
def Obligations.VectorCompares : Prop :=
  ∀ (s : State) (d a b : Reg) (k : BitVec 3),
    s.Ready → s.RowsSound → s.h.mm = false → s.h.vl ≠ 0 → d ≠ 0 → d.toNat < 8 → s.fits a →
    let w := s.h.sew
    let p := if w = 16 then fmtF16 else fmtF32
    let fz := s.h.rctx.fz
    let form (i : Instr) (B : Nat → Nat → Nat) (f : Nat → Nat → Bool × Flags) : Prop :=
      s.writesMask i d (s.active k) fun q j => f (s.elem a w q j) (B q j)
    let forms (v x : Instr) (f : Nat → Nat → Bool × Flags) : Prop :=
      (s.fits b → form v (s.elem b w) f) ∧ form x (fun _ _ => (s.rd b).toNat % 2 ^ w) f
    let ints (v x : Instr) (c : Nat → Nat → Bool) : Prop := forms v x fun x y => (c x y, 0)
    ints (.vceqVV d a b k) (.vceqVS d a b k) (fun x y => x == y) ∧
    ints (.vcneVV d a b k) (.vcneVS d a b k) (fun x y => x != y) ∧
    ints (.vcltVV d a b k) (.vcltVS d a b k) (fun x y => decide (sext x w < sext y w)) ∧
    ints (.vcleVV d a b k) (.vcleVS d a b k) (fun x y => decide (sext x w ≤ sext y w)) ∧
    ints (.vcltuVV d a b k) (.vcltuVS d a b k) (fun x y => decide (x < y)) ∧
    ints (.vcleuVV d a b k) (.vcleuVS d a b k) (fun x y => decide (x ≤ y)) ∧
    (w = 16 ∨ w = 32 →
      forms (.vfceqVV d a b k) (.vfceqVS d a b k) (p.ceq fz) ∧
      forms (.vfcltVV d a b k) (.vfcltVS d a b k) (p.cless false fz) ∧
      forms (.vfcleVV d a b k) (.vfcleVS d a b k) (p.cless true fz) ∧
      forms (.vfcunVV d a b k) (.vfcunVS d a b k) (p.cun fz))

/-- R127: the mask functions. `k0` reads all-true as a source. `kpop` counts true bits, `kfirst` gives the position of the first
one in row-major order or all ones. -/
def Obligations.MaskFunctions : Prop :=
  ∀ (s : State) (d a b : Reg), s.Ready → s.RowsSound → s.h.vl ≠ 0 → s.h.rc ≤ 32 →
    let w := s.h.sew
    let rc := s.h.rc
    let vl := s.h.vl
    let mask (i : Instr) (f : Nat → Nat → Bool) : Prop :=
      d ≠ 0 → d.toNat < 8 → s.writesMask i d (fun _ _ => true) fun q j => (f q j, 0)
    let A := s.kbit a
    let B := s.kbit b
    let trues := (List.range (rc * vl)).filter fun n => A (n / vl) (n % vl)
    mask (.kand d a b) (fun q j => A q j && B q j) ∧ mask (.kor d a b) (fun q j => A q j || B q j) ∧
    mask (.kxor d a b) (fun q j => A q j != B q j) ∧ mask (.kandn d a b) (fun q j => A q j && !B q j) ∧
    mask (.knot d a) (fun q j => !A q j) ∧ mask (.kset d) (fun _ _ => true) ∧ mask (.kclr d) (fun _ _ => false) ∧
    mask (.kmov d a) A ∧
    mask (.klt d a b) (fun _ j => decide ((j : Int) < (s.rd b).toInt - (s.rd a).toInt)) ∧
    (b.toNat ≤ 1 → mask (.kenc d a b) A) ∧
    (s.fits a → mask (.kfromv d a) fun q j => decide (s.elem a w q j ≠ 0)) ∧
    (s.fits a → 1 ≤ (s.rd b).toNat → (s.rd b).toNat < 2 ^ 16 →
      mask (.kblk d a b) fun q j => ((s.vctx.entries s.h a.toNat q).1).contains (j / (s.rd b).toNat)) ∧
    (s.fits d → s.writesRows (.ktov d a) d w (fun _ _ => true) fun q j => (if A q j then 1 else 0, 0)) ∧
    s.retires (.kpop d a) (s.wrote d (BitVec.ofNat 64 trues.length) 4).h ∧
    s.retires (.kfirst d a) (s.wrote d (match trues with | n :: _ => BitVec.ofNat 64 n | [] => BitVec.allOnes 64) 4).h

/-- R128, R56 to R58: reductions write one row of `rc` elements, element `q` from the active elements of row `q` of A, the
identity where there are none; scans write running sums to the active elements. `sum` wraps, the ordered float sum and the
float scan go from the lowest active element up. The other float reductions follow the tree of R56: element `i` belongs to lane
position `i * w / 32 mod n` of the hart's `n` lanes, each position folds its active elements in ascending order, and pairs join
up to the smallest power of two that is not below `n`, an empty partner passing the other on. A lone active element is the result
bit for bit (log 71), and a scan may name its source as destination, or overlap it (log 47). -/
def Obligations.Reductions : Prop :=
  ∀ (s : State) (d a : Reg) (k : BitVec 3) (e : BitVec 1), s.Ready → s.RowsSound → s.h.mm = false → s.h.vl ≠ 0 → s.fits a →
    let w := s.h.sew
    let g := s.h.grp
    let p := if w = 16 then fmtF16 else fmtF32
    let L := s.activeVals a k
    let join (x y : Nat × Flags) : Nat × Flags := let r := p.fadd s.h.rctx x.1 y.1; (r.1, x.2 ||| y.2 ||| r.2)
    let fold (f : Nat × Flags → Nat × Flags → Nat × Flags) (l : List Nat) : Option (Nat × Flags) := match l with
      | [] => none
      | x :: t => some ((t.map fun y => (y, 0)).foldl f (x, 0))
    let chain (l : List Nat) : Nat × Flags := (fold join l).getD (0, 0)
    let extreme (isMax : Bool) (x y : Nat × Flags) : Nat × Flags :=
      let r := p.fminmax isMax s.h.rctx.fz x.1 y.1; (r.1, x.2 ||| y.2 ||| r.2)
    let n := 8 * (s.groups s.h.key).length
    let lane (f : Nat × Flags → Nat × Flags → Nat × Flags) (q i : Nat) : Option (Nat × Flags) :=
      if i < n then fold f (((List.range s.h.vl).filter fun j => s.active k q j && j * (w / 8) / 4 % n == i).map (s.elem a w q)) else none
    let tree (f : Nat × Flags → Nat × Flags → Nat × Flags) (identity q : Nat) (r : Nat × Flags) : Prop :=
      ∀ m, n ≤ 2 ^ m → (∀ m', n ≤ 2 ^ m' → m ≤ m') → r = (pairing f (lane f q) m 0).getD (identity, 0)
    let upTo (q j : Nat) : List Nat := ((List.range (j + 1)).filter (s.active k q)).map (s.elem a w q)
    let apartRow : Prop := d.toNat % g = 0 ∧ d.toNat + g ≤ 32 ∧
      (d.toNat + g ≤ a.toNat ∨ a.toNat + s.h.rc * g ≤ d.toNat)
    let reduces (i : Instr) (ok : Nat → Nat × Flags → Prop) : Prop := apartRow → ∃ t r, exec i s = .next t ∧ s.KeptAround t ∧
      Hart.Same { s.h with v := t.h.v, fflags := s.h.fflags ||| (r.map Prod.snd).foldl (· ||| ·) 0, pc := s.h.pc + 4 } t.h ∧
      r.length = s.h.rc ∧ (∀ q < s.h.rc, ok q (nth r q (0, 0))) ∧
      (∀ n, d.toNat ≤ n → n < d.toNat + g →
        t.h.vreg n = ⟨field s.h.vcfg 0 2, field s.h.vcfg 3 2, n - d.toNat, .plain (r.map Prod.fst), []⟩) ∧
      ∀ n, ¬ (d.toNat ≤ n ∧ n < d.toNat + g) → t.h.vreg n = s.h.vreg n
    let best (le : Nat → Nat → Prop) (empty : Nat) (q : Nat) (r : Nat × Flags) : Prop :=
      r.2 = 0 ∧ (L q = [] → r.1 = empty) ∧ (L q ≠ [] → r.1 ∈ L q ∧ ∀ x ∈ L q, le r.1 x)
    reduces (.vredsum d a k e) (fun q r => r = (wrap ((L q).foldl (· + ·) 0 : Nat) w, 0)) ∧
    reduces (.vredand d a k e) (fun q r => r = ((L q).foldl (· &&& ·) (2 ^ w - 1), 0)) ∧
    reduces (.vredor d a k e) (fun q r => r = ((L q).foldl (· ||| ·) 0, 0)) ∧
    reduces (.vredmin d a k e) (best (fun x y => sext x w ≤ sext y w) (2 ^ (w - 1) - 1)) ∧
    reduces (.vredmax d a k e) (best (fun x y => sext y w ≤ sext x w) (2 ^ (w - 1))) ∧
    reduces (.vredminu d a k e) (best (· ≤ ·) (2 ^ w - 1)) ∧
    reduces (.vredmaxu d a k e) (best (fun x y => y ≤ x) 0) ∧
    (s.fits d → s.writesRows (.vscan d a k e) d w (s.active k) fun q j => (wrap ((upTo q j).foldl (· + ·) 0 : Nat) w, 0)) ∧
    (w = 16 ∨ w = 32 →
      reduces (.vfredsum d a k e) (tree join 0) ∧
      reduces (.vfredmin d a k e) (tree (extreme false) (p.maxCode + 1)) ∧
      reduces (.vfredmax d a k e) (tree (extreme true) (2 ^ (w - 1) + p.maxCode + 1)) ∧
      reduces (.vfredsumo d a k e) (fun q r => r = chain (L q)) ∧
      (s.fits d → s.writesRows (.vfscan d a k e) d w (s.active k) fun q j => chain (upTo q j)))

/-- R129, R131, R132: functions that write rows element by element: moves, splats, index rows, slides, gathers, compression,
conversions and table look-ups. Slides, gathers and compression share no register with a source. A conversion appends one entry to
the exception list for each active NaN that its format does not have, in element order, and traps at the first where the list is
full (R33, R54, R55). -/
def Obligations.RowFunctions : Prop :=
  ∀ (s : State) (d a b : Reg) (k : BitVec 3) (e : BitVec 1), s.Ready → s.RowsSound → s.h.vl ≠ 0 → s.fits d →
    let w := s.h.sew
    let A := s.elem a w
    let old := s.elem d w
    let off := (s.rd b).toNat
    let writes (i : Instr) (f : Nat → Nat → Nat) : Prop := s.writesRows i d w (s.active k) fun q j => (f q j, 0)
    let crossing : Prop := s.fits a ∧ s.disjoint d a
    writes (.vsplat d a k e) (fun _ _ => (s.rd a).toNat % 2 ^ w) ∧
    writes (.viota d a k e) (fun _ j => ((s.rd a).toNat + j) % 2 ^ w) ∧
    (s.fits a → writes (.vmov d a k e) A) ∧
    (s.fits a → (s.rd b).toNat ≤ 4 → s.writesRows (.venc d a b) d w (fun _ _ => true) fun q j => (A q j, 0)) ∧
    (crossing → writes (.vslup d a b k e) fun q j => if off ≤ j then A q (j - off) else old q j) ∧
    (crossing → writes (.vsldn d a b k e) fun q j => if j + off < s.h.vl then A q (j + off) else 0) ∧
    (crossing → s.fits b → s.disjoint d b → writes (.vrgath d a b k e) fun q j =>
      if s.elem b w q j < s.h.vl then A q (s.elem b w q j) else 0) ∧
    (crossing → s.writesRows (.vcmprs d a k e) d w (fun _ _ => true) fun q j => (nth (s.activeVals a k q) j 0, 0)) ∧
    (s.fits a → w = 32 → (∀ q < s.h.rc, ∀ j < s.h.vl, s.active k q j = true → A q j < s.h.tbn) →
      writes (.vdictg d a k e) fun q j => s.h.tbEntry (A q j)) ∧
    (∀ p, s.fits a → (p, off, w) ∈ [(fmtF32, 8, 32), (fmtBF16, 9, 16), (fmtF16, 10, 16)] →
      let word (q j : Nat) : Nat := s.elem a 16 q (j / 8)
      (∀ q < s.h.rc, ∀ j < s.h.vl, s.active k q j = true → word q j / 256 < s.h.tbn) →
      writes (.vlatd d a b k e) fun q j =>
        (p.round .rne 0 (nth (l8Components (word q j) (s.h.tbEntry (word q j / 256))) (j % 8) (.fin false 0 0))).1) ∧
    (∀ (src dst : BitVec 5) (S D : Fmt), Fmt.ofCode src.toNat = some S → Fmt.ofCode dst.toNat = some D →
      s.fits a → s.apart d a → S.width ≤ w → D.width ≤ w →
      (∀ q < s.h.rc, ∀ j < s.h.vl, s.active k q j = true →
        ∃ r, convertElem S D s.h.rctx (s.elem a S.width q j) = some r ∧ r.entry = false) →
      s.writesRows (.vcvt d a src dst k e) d D.width (s.active k) fun q j =>
        match convertElem S D s.h.rctx (s.elem a S.width q j) with
        | some r => (r.bits, r.flags)
        | none => (0, 0)) ∧
    (∀ (src dst : BitVec 5) (S D : Fmt) (X : Nat → Xlat), Fmt.ofCode src.toNat = some S → Fmt.ofCode dst.toNat = some D →
      s.fits a → s.apart d a → S.width ≤ w → D.width ≤ w →
      let r (q j : Nat) : Cvt := (convertElem S D s.h.rctx (s.elem a S.width q j)).getD ⟨0, 0, false⟩
      (∀ q < s.h.rc, ∀ j < s.h.vl, s.active k q j = true → (convertElem S D s.h.rctx (s.elem a S.width q j)).isSome = true) →
      let es := (List.range s.h.rc).flatMap fun q =>
        ((List.range s.h.vl).filter fun j => s.active k q j && (r q j).entry).map fun j => (q, j)
      (s.listTakes es X → s.appends (.vcvt d a src dst k e) es X src.toNat dst.toNat fun t =>
        (∀ n, ¬ (d.toNat ≤ n ∧ n < d.toNat + s.h.rc * s.h.grp) → t.h.vreg n = s.h.vreg n) ∧
        (∀ q < s.h.rc, ∀ j < s.h.vl, t.elem d D.width q j = if s.active k q j then (r q j).bits else s.elem d D.width q j) ∧
        s.flagsOf t (s.active k) fun q j => (r q j).flags) ∧
      ∀ q j rest, es = (q, j) :: rest → s.h.ih = false → s.h.xlimit.toNat ≤ s.h.xcount.toNat →
        s.listFull (.vcvt d a src dst k e) q j)

/-- R129, R132, R25: functions on single elements, on descriptors and on the table. `vextr` gives an element sign-extended, or
zero beyond `vl`; `vins` replaces one element; `vtabld` and `vtabst` move up to 256 table entries; `veinfo` gives the descriptor. -/
def Obligations.ElementsAndTables : Prop :=
  ∀ (s : State) (d a b : Reg) (e : BitVec 1), s.Ready → s.RowsSound → s.h.vl ≠ 0 →
    let w := s.h.sew
    let g := s.h.grp
    let i := (s.rd b).toNat % 2 ^ 16
    let q := (s.rd b).toNat / 2 ^ 16
    let m := min s.h.vl 256
    s.retires (.veinfo d a e) (s.wrote d (s.h.vreg a.toNat).desc 4).h ∧
    (s.fits a → q < s.h.rc → s.h.rc ≤ 32 → s.retires (.vextr d a b e)
      (s.wrote d (if i < s.h.vl then BitVec.ofInt 64 (sext (s.elem a w q i) w) else 0) 4).h) ∧
    (s.fits d → q < s.h.rc → s.h.rc ≤ 32 → i < s.h.vl → ∃ t, exec (.vins d a b e) s = .next t ∧ s.KeptAround t ∧
      Hart.Same { s.h with v := t.h.v, pc := s.h.pc + 4 } t.h ∧
      (∀ j < s.h.vl, t.elem d w q j = if j = i then (s.rd a).toNat % 2 ^ w else s.elem d w q j) ∧
      ∀ n, ¬ (d.toNat + q * g ≤ n ∧ n < d.toNat + (q + 1) * g) → t.h.vreg n = s.h.vreg n) ∧
    (w = 32 → a.toNat % g = 0 → a.toNat + g ≤ 32 → ∃ t, exec (.vtabld a) s = .next t ∧ s.KeptAround t ∧
      Hart.Same { s.h with tb := t.h.tb, tbn := m, pc := s.h.pc + 4 } t.h ∧ (∀ j < m, t.h.tbEntry j = s.elem a 32 0 j % 2 ^ 32) ∧
      ∀ j, m ≤ j → t.h.tb[j]? = s.h.tb[j]?) ∧
    (w = 32 → d.toNat % g = 0 → d.toNat + g ≤ 32 → ∃ t, exec (.vtabst d) s = .next t ∧ s.KeptAround t ∧
      Hart.Same { s.h with v := t.h.v, pc := s.h.pc + 4 } t.h ∧ (∀ j < s.h.vl, t.elem d 32 0 j = s.h.tbEntry j) ∧
      ∀ n, ¬ (d.toNat ≤ n ∧ n < d.toNat + g) → t.h.vreg n = s.h.vreg n)


/-! ### Vector memory -/

/-- R134 to R137, R145, R146, R153, R155: the vector loads on a hart at rest, where every access they make goes through. `va` is
the address of element `j` of row `q`: contiguous, strided, indexed by the zero-extended index, or in a box. `vldff` marks the
elements loaded in `kff`; `vgacq` loads those whose page is not SYNC or whose home lies inside the scope, and marks the others
in `ksm`. Rows that the form does not reach, and memory, stay. -/
def Obligations.VectorLoads : Prop :=
  ∀ (s : State) (d a b : Reg) (tok : BitVec 2) (k : BitVec 3) (o : BitVec 1) (scope : BitVec 4) (X : Nat → Nat → Xlat),
    s.Ready → s.h.vl ≠ 0 → s.fits d → s.h.rc ≤ 32 → s.h.TokensReady tok →
    let base := s.rd a
    let vl := s.h.vl
    let lg := field s.h.vcfg 0 2
    let key (q j : Nat) : Nat := (X q j).key
    let flat (q j : Nat) : Word := BitVec.ofNat 64 (q * vl + j)
    let served (rows : Nat) (on : Nat → Nat → Bool) (va : Nat → Nat → Word) : Prop :=
      ∀ q < rows, ∀ j < vl, on q j = true → s.Serves (va q j) .load lg (X q j)
    let size : Word := BitVec.ofNat 64 (2 ^ lg)
    let plain (t : State) : Prop := t.h.k = s.h.k
    let marks (n : Nat) (f : Nat → Nat → Bool) (t : State) : Prop :=
      (∀ m q, m ≠ n ∨ s.h.rc ≤ q → t.h.mrow m q = s.h.mrow m q) ∧
      ∀ q < s.h.rc, ∀ j < vl, nth (t.h.mbits n q vl) j false = f q j
    let on := s.active k
    let indexed : Prop := s.fits b ∧ s.disjoint d b ∧ vl * s.h.indexWidth b.toNat ≤ 8 * s.vctx.bytes
    let ix (q j : Nat) : Word := BitVec.ofNat 64 (s.elem b (s.h.indexWidth b.toNat) q j)
    let inBox (q j : Nat) : Bool := on q j && decide (j < s.h.dlen 0)
    let here (q j : Nat) : Bool := (X q j).nl != 10 || s.homeInside s.h scope.toNat (key q j)
    (served s.h.rc on (fun q j => base + flat q j * size) →
      s.loadsRows (.vld d a tok k o) d s.h.rc tok on key plain ∧
      s.loadsRows (.vldff d a tok k o) d s.h.rc tok on key (marks 8 on)) ∧
    (served s.h.rc on (fun q j => base + flat q j * s.rd b) → s.loadsRows (.vlds d a b tok k o) d s.h.rc tok on key plain) ∧
    (indexed → served s.h.rc on (fun q j => base + ix q j) → s.loadsRows (.vldx d a b tok k o) d s.h.rc tok on key plain) ∧
    (1 ≤ s.h.dlen 0 → s.h.dlen 0 ≤ vl → 1 ≤ s.h.dlen 1 * s.h.dlen 2 → s.h.dlen 1 * s.h.dlen 2 ≤ s.h.rc →
      served (s.h.dlen 1 * s.h.dlen 2) inBox (s.boxAddr base) →
      s.loadsRows (.vld3 d a tok k o) d (s.h.dlen 1 * s.h.dlen 2) tok inBox key plain) ∧
    (indexed → served s.h.rc (fun _ _ => true) (fun q j => base + ix q j) →
      s.loadsRows (.vgacq d a b scope) d s.h.rc 0 here key (marks 9 fun q j => !here q j))

/-- R134, R138, R146, R151, R152, R154: the vector stores on a hart at rest, where every access they make goes through, no two
elements share an address, and those of one line go through pages of one layout (log 15); `vsrel` where no acknowledgement that it
waits for is lost (R355, log 25). The scatter-adds add at the home of each address, which reads and writes once. -/
def Obligations.VectorStores : Prop :=
  ∀ (s : State) (d a b : Reg) (tok : BitVec 2) (k : BitVec 3) (o : BitVec 1) (scope : BitVec 4) (X : Nat → Nat → Xlat),
    s.Ready → s.WellKept → s.h.vl ≠ 0 → s.fits d → s.h.TokensReady tok →
    let base := s.rd a
    let vl := s.h.vl
    let w := s.h.sew
    let lg := field s.h.vcfg 0 2
    let key (q j : Nat) : Nat := (X q j).key
    let flat (q j : Nat) : Word := BitVec.ofNat 64 (q * vl + j)
    let served (kind : Kind) (rows : Nat) (on : Nat → Nat → Bool) (va : Nat → Nat → Word) : Prop :=
      (∀ q < rows, ∀ j < vl, on q j = true → s.Serves (va q j) kind lg (X q j)) ∧
      ∀ q < rows, ∀ j < vl, on q j = true → ∀ r < rows, ∀ i < vl, on r i = true →
        (key q j = key r i → q = r ∧ j = i) ∧ (key q j / 64 = key r i / 64 → (X q j).nl = (X r i).nl)
    let size : Word := BitVec.ofNat 64 (2 ^ lg)
    let D (q j : Nat) : Nat × Flags := (s.elem d w q j, 0)
    let on := s.active k
    let all : Nat → Nat → Bool := fun _ _ => true
    let indexed : Prop := s.fits b ∧ vl * s.h.indexWidth b.toNat ≤ 8 * s.vctx.bytes
    let ix (q j : Nat) : Word := BitVec.ofNat 64 (s.elem b (s.h.indexWidth b.toNat) q j)
    let inBox (q j : Nat) : Bool := on q j && decide (j < s.h.dlen 0)
    let old (q j : Nat) : Nat := ofBytes (s.mem.bytes (key q j) (w / 8))
    let p := if w = 16 then fmtF16 else fmtF32
    (served .store s.h.rc on (fun q j => base + flat q j * size) → s.storesRows (.vst d a tok k o) s.h.rc tok on key D) ∧
    (served .store s.h.rc on (fun q j => base + flat q j * s.rd b) → s.storesRows (.vsts d a b tok k o) s.h.rc tok on key D) ∧
    (indexed → served .store s.h.rc on (fun q j => base + ix q j) → s.storesRows (.vstx d a b tok k o) s.h.rc tok on key D) ∧
    (s.h.lost = [] → indexed → served .store s.h.rc all (fun q j => base + ix q j) → s.storesRows (.vsrel d a b scope) s.h.rc 0 all key D) ∧
    (1 ≤ s.h.dlen 0 → s.h.dlen 0 ≤ vl → 1 ≤ s.h.dlen 1 * s.h.dlen 2 → s.h.dlen 1 * s.h.dlen 2 ≤ s.h.rc →
      served .store (s.h.dlen 1 * s.h.dlen 2) inBox (s.boxAddr base) →
      s.storesRows (.vst3 d a tok k o) (s.h.dlen 1 * s.h.dlen 2) tok inBox key D) ∧
    (indexed → served .store s.h.rc on (fun q j => base + ix q j) → served .atomic s.h.rc on (fun q j => base + ix q j) →
      s.storesRows (.vscadd d a b tok k) s.h.rc tok on key (fun q j => ((old q j + s.elem d w q j) % 2 ^ w, 0)) ∧
      (w = 16 ∨ w = 32 →
        s.storesRows (.vscfadd d a b tok k) s.h.rc tok on key fun q j => p.fadd s.h.rctx (old q j) (s.elem d w q j)))

/-- R147 to R149, R288, R289: block streams, where every byte they touch goes through at a compressed page. `line` gives the
physical line of each line of addresses. `vldc` decodes the whole blocks that memory holds, `blocks q` for row `q`, into one row
each; `vstc` stores the blocks of each row one after another. Both give B the address after the last block. -/
def Obligations.BlockStreams : Prop :=
  ∀ (s : State) (d a b : Reg) (tok : BitVec 2) (line : Nat → Nat) (spad : Bool) (blocks : Nat → List (List Byte)),
    s.Ready → s.WellKept → s.h.vl ≠ 0 → s.fits d → s.h.TokensReady tok → (s.rd a).toNat % 16 = 0 →
    let base := s.rd a
    let lg := field s.h.vcfg 0 2
    let va (i : Nat) : Word := base + BitVec.ofNat 64 i
    let key (i : Nat) : Nat := line ((va i).toNat / 64) * 64 + (va i).toNat % 64
    let served (kind : Kind) (i : Nat) : Prop := s.MapsTo (va i) kind lg ⟨key i, 11, false, false, spad⟩ ∧
      s.mem.intact (key i / 64) ∧ s.reachable s.h.key.die (key i) = true ∧ s.reachable s.h.key.die (key i / 64 * 64) = true
    let ends (t : State) (n : Nat) : Prop := Hart.Same { (s.wrote b (va n) 4).h with v := t.h.v, tokens := s.h.tokensAfter tok } t.h
    let stream := (List.range s.h.rc).flatMap fun q =>
      (rowBlocks lg ((List.range s.h.vl).map (s.elem d s.h.sew q))).flatten
    let bytes := (List.range s.h.rc).flatMap fun q => (blocks q).flatten
    let head (bs : List Byte) : BlockHead := BlockHead.ofWord (ofBytes (bs.take 8))
    let inner (bs : List Byte) : List Byte := (bs.drop 8).take (head bs).body
    let whole (q : Nat) : Prop := (∀ bs ∈ blocks q, (head bs).failure (some lg) (inner bs) = none ∧ bs.length = (head bs).stride) ∧
      s.h.vl ≤ ((blocks q).map fun bs => (head bs).count).sum ∧
      (((blocks q).dropLast).map fun bs => (head bs).count).sum < s.h.vl
    ((∀ i < stream.length, served .store i) → stream.length ≤ 2 ^ 64 →
      (∀ i < stream.length, ∀ j < stream.length, key i = key j → i = j) →
      ∃ t, exec (.vstc d a b tok) s = .next t ∧ s.KeptAround { t with mem := s.mem } ∧ ends t stream.length ∧ t.h.v = s.h.v ∧
        (∀ i < stream.length, cellGet t.mem.cells (key i) = nth stream i 0) ∧
        ∀ n, (∀ i < stream.length, key i ≠ n) → cellGet t.mem.cells n = cellGet s.mem.cells n) ∧
    ((∀ i < bytes.length, served .load i ∧ cellGet s.mem.cells (key i) = nth bytes i 0) → (∀ q < s.h.rc, whole q) →
      ∃ t, exec (.vldc d a b tok) s = .next t ∧ s.KeptAround t ∧ ends t bytes.length ∧
        (∀ n, ¬ (d.toNat ≤ n ∧ n < d.toNat + s.h.rc * s.h.grp) → t.h.vreg n = s.h.vreg n) ∧
        ∀ q < s.h.rc, (t.h.vreg (d.toNat + q * s.h.grp)).row =
          (s.vctx.blocksRow ((blocks q).map fun bs => (head bs).row (inner bs))).norm)

/-! ### Matrix mode -/

/-- R193, R195, R209 to R212: entering and leaving matrix mode drops the tile grant; `settile` grants the smaller of the edge
asked for and the largest that the lane groups carry (none where they carry none), and a depth that is a multiple of 4;
`mzero`, `maccadd` and `mrdf` clear, add and read accumulators (R198, R46 to R49), and `mrdf` appends an exception-list entry for
each NaN that its format does not have, or traps where the list is full (R33, R54, R55); `mcmprs` keeps four of eight with their
positions. These four are for a grant that is not empty. Outside matrix mode all five raise MODE (R69, R70). -/
def Obligations.MatrixMode : Prop :=
  ∀ (s : State) (d a b : Reg),
    let switched (mm : Bool) : State := { s with h := { s.h with mm := mm, mt := 0, nt := 0, kt := 0, pc := s.h.pc + 4 } }
    let n := s.h.mt * s.h.nt
    let G := (s.groups s.h.key).length
    let g := s.h.grp
    let carried (c : Nat) : Prop := c * c ≤ 64 * G * g ∧ c * c ≤ 128 * G
    let edge (n : Nat) : Nat := if n = 0 then 0 else if n ≤ 8 then 8 else if n ≤ 16 then 16 else 32
    (s.h.mm = false → ∀ i ∈ [Instr.settile d a b, .mzero d, .mrdf d a b, .mcmprs d a b, .maccadd d a],
      exec i s = .next (s.takeTrap 0x02 (encode i) 0 s.h.pc)) ∧
    (s.h.mm = false → exec .menter s = .next (switched true) ∧ exec .mexit s = .next (s.takeTrap 0x02 (encode .mexit) 0 s.h.pc)) ∧
    (s.h.mm = true → exec .mexit s = .next (switched false) ∧ exec .menter s = .next (s.takeTrap 0x02 (encode .menter) 0 s.h.pc)) ∧
    (s.h.mm = true → s.Ready →
      (∃ cap,
        (cap = 0 ∨ (cap ∈ [8, 16, 32] ∧ carried cap)) ∧ (∀ c ∈ [8, 16, 32], carried c → c ≤ cap) ∧
        let m := min (edge (s.rd a).toNat) cap
        let k := min (4 * (((s.rd b).toNat + 3) / 4)) 256
        s.retires (.settile d a b)
          ({ s with h := { s.h with mt := m, nt := m, kt := k } }.wrote d (BitVec.ofNat 64 (m + k * 2 ^ 16)) 4).h) ∧
      (s.h.mt ≠ 0 → s.holds d.toNat 3 →
        s.writesTile (.mzero d) d 3 4 0 fun t => t.tripleIs d (List.replicate n A96.zero)) ∧
      (s.h.mt ≠ 0 → s.holds d.toNat 3 → s.holds a.toNat 3 →
        d = a ∨ d.toNat + 3 * g ≤ a.toNat ∨ a.toNat + 3 * g ≤ d.toNat →
        let r (x : Nat) : A96 × Flags := (s.acc d x).step [⟨(s.acc a x).value, false⟩]
        s.writesTile (.maccadd d a) d 3 4 (((List.range n).map fun x => (r x).2).foldl (· ||| ·) 0) fun t =>
          t.tripleIs d ((List.range n).map fun x => (r x).1)) ∧
      (∀ f, Fmt.ofCode b.toNat = some f → s.h.mt ≠ 0 → s.holds d.toNat 1 → s.holds a.toNat 3 →
        d.toNat + g ≤ a.toNat ∨ a.toNat + 3 * g ≤ d.toNat →
        let r (x : Nat) : Cvt := f.convert s.h.rctx false (s.acc a x).value
        let els := (List.range n).map fun x => (r x).bits
        (∀ x < n, (r x).entry = false) →
        s.writesTile (.mrdf d a b) d 1 4 (((List.range n).map fun x => (r x).flags).foldl (· ||| ·) 0) fun t =>
          t.plainRow d.toNat (sewcOf f.width) (if f.width = 4 then packNibbles els else els)) ∧
      (∀ f (X : Nat → Xlat), Fmt.ofCode b.toNat = some f → s.h.mt ≠ 0 → s.holds d.toNat 1 → s.holds a.toNat 3 →
        d.toNat + g ≤ a.toNat ∨ a.toNat + 3 * g ≤ d.toNat →
        let r (x : Nat) : Cvt := f.convert s.h.rctx false (s.acc a x).value
        let els := (List.range n).map fun x => (r x).bits
        let es := ((List.range n).filter fun x => (r x).entry).map fun x => (0, x)
        (s.listTakes es X → s.appends (.mrdf d a b) es X 16 b.toNat fun t =>
          (∀ m, ¬ (d.toNat ≤ m ∧ m < d.toNat + g) → t.h.vreg m = s.h.vreg m) ∧
          t.h.fflags = s.h.fflags ||| ((List.range n).map fun x => (r x).flags).foldl (· ||| ·) 0 ∧
          t.plainRow d.toNat (sewcOf f.width) (if f.width = 4 then packNibbles els else els)) ∧
        ∀ j rest, es = (0, j) :: rest → s.h.ih = false → s.h.xlimit.toNat ≤ s.h.xcount.toNat → s.listFull (.mrdf d a b) 0 j) ∧
      (s.h.mt ≠ 0 → s.h.kt % 8 = 0 → s.holds d.toNat 2 → s.holds a.toNat 1 →
        d.toNat + 2 * g ≤ a.toNat ∨ a.toNat + g ≤ d.toNat →
        let f := (s.rd b).toNat
        f ∈ [0, 9, 10, 11, 12] → s.h.mt * s.h.kt * fmtWidth f ≤ 8 * s.vctx.bytes →
        let x (o m p : Nat) : Nat :=
          nth (s.vctx.elems s.h a.toNat (fmtWidth f) (s.h.mt * s.h.kt)).els ((2 * o + p / 4) * 4 * s.h.mt + 4 * m + p % 4) 0
        s.writesTile (.mcmprs d a b) d 2 4 0 fun t => ∃ K : Nat → Nat → List Nat,
          t.plainRow d.toNat (sewcOf (fmtWidth f)) ((List.range (s.h.kt / 8)).flatMap fun o => (List.range s.h.mt).flatMap fun m =>
            (K o m).map (x o m)) ∧
          t.plainRow (d.toNat + g) 1 ((List.range (s.h.kt / 8)).flatMap fun o => (List.range s.h.mt).map fun m =>
            nth (K o m) 0 0 + 8 * nth (K o m) 1 0 + 64 * nth (K o m) 2 0 + 512 * nth (K o m) 3 0) ∧
          ∀ o < s.h.kt / 8, ∀ m < s.h.mt,
            (K o m).length = 4 ∧ (K o m).Pairwise (· < ·) ∧ (∀ p ∈ K o m, p < 8) ∧
            ∀ p ∈ K o m, ∀ r < 8, r ∉ K o m →
              keyAbove (pruneKey f (x o m r)) (pruneKey f (x o m p)) = false ∧
              (keyAbove (pruneKey f (x o m p)) (pruneKey f (x o m r)) = false → p < r)))

/-- R66, R199 to R205: the four tile forms. Outside matrix mode they raise MODE (R69). Under the checks of R199 and R200 (the
model's `tileOk`), a grant that is not empty, operands that can be read (R201, R202) and hold no reserved scale, table index or
metadata word that an active row meets (R205, the model's `tileFault`), every element of an active row receives its accumulator
after all steps in order (R203, R204, the model's `tileStep`), and the others keep theirs (R198). -/
def Obligations.TileForms : Prop :=
  ∀ (s : State) (t : Tile),
    let form (i : Instr) (tm : Nat) : Prop :=
      (s.h.mm = false → exec i s = .next (s.takeTrap 0x02 (encode i) 0 s.h.pc)) ∧
      (s.Ready → s.h.mm = true → s.h.mt ≠ 0 → s.h.kt ≠ 0 →
      let z := s.tileShape tm t
      let x := s.tileOperands tm t
      let live := (List.range s.h.mt).filter (tileLive s.h t)
      let r (m n : Nat) : A96 × Flags :=
        (List.range z.steps).foldl (fun acc k => tileStep s.h z x m n k acc) (s.acc t.acc (m * s.h.nt + n), 0)
      tileOk s.h s.vctx tm t = true → (t.asp = 1 → s.padOk t.a (s.padA tm t)) → (t.bsp = 1 → s.padOk t.b (s.padB t)) →
      (t.asp = 1 ∨ t.bsp = 1 → s.h.key.dm = false) → tileFault s.h z x live = none →
      s.writesTile i t.acc 3 8 ((live.flatMap fun m => (List.range s.h.nt).map fun n => (r m n).2).foldl (· ||| ·) 0) fun u =>
        u.tripleIs t.acc ((List.range s.h.mt).flatMap fun m => (List.range s.h.nt).map fun n =>
          if m ∈ live then (r m n).1 else s.acc t.acc (m * s.h.nt + n)))
    form (.mop t) 0 ∧ form (.mops t) 1 ∧ form (.mopl t) 2 ∧ form (.mopd t) 3

/-! ### Streams, tokens, engines, events and queries -/

/-- R181, R187, R188, R191, R192, R243, R244, R261, R331, R332: token posts and waits on the scalar side and in the vector queue; stream
bindings; pushes to an engine, its records and its status; event counters; launches, with the queue's entry and the journal's, or
the number that refuses one; and what `lpinfo`, `gangid`, `fluest`,
`curcls` and `qinfo` give. A token FIFO holds 15 tokens and an engine FIFO 8 commands. The model's choices: a post of a queue's
instruction that finds 15 waits beside the hart (log 50), that waits of tokens, engines, events and launches are boundaries
(log 51), the class that `curcls` gives a hart of no gang (log 13), and what `fluest` gives a die manager core (log 58). -/
def Obligations.QueuesAndQueries : Prop :=
  ∀ (s : State) (d a b : Reg) (f : Reg) (x : BitVec 4) (X : Nat → Xlat),
    let waits (i : Instr) (w : Wait) : Prop := exec i s = .next { s with h := { s.h with wait := w } }
    let passed (t : State) : State := { t with h := { t.h with wait := .none, pc := s.h.pc + 4 } }
    let set (n : Nat) : Hart := { s.h with tokens := s.h.tokens.setIfInBounds f.toNat n, pc := s.h.pc + 4 }
    let idle : Prop := ({ s with h := { s.h with binds := [] } } : State).Ready
    let A := s.rd a
    let q := s.h.fifo x.toNat
    let away : Prop := ¬ (s.h.key.dm = true ∧ x = 5)
    let core := s.core (coreOf s.h.key)
    let fl := s.ownFlue s.h
    let own := coreOf s.h.key
    let ended := min 16 (s.windows - (if own.dm then 0 else (s.flue (flueOf own)).since))
    let draw : Rat := ((core.history.take ended).sum : Rat) / (64 * (ended : Rat))
    (f = 0 ∨ f = 1 →
      (s.h.token f.toNat < 15 → exec (.tkpost f) s = .next { s with h := { set (s.h.token f.toNat + 1) with wait := .none } }) ∧
      (s.h.token f.toNat = 15 → waits (.tkpost f) (.token f.toNat))) ∧
    (f = 2 ∨ f = 4 →
      (s.h.token f.toNat ≠ 0 → f.toNat ∉ s.h.pend →
        exec (.tkwait f) s = .next { s with h := { set (s.h.token f.toNat - 1) with wait := .none } }) ∧
      (s.h.token f.toNat ≠ 0 → f.toNat ∈ s.h.pend →
        exec (.tkwait f) s = .next (passed { s with h := { s.h with pend := s.h.pend.filter (· != f.toNat) } })) ∧
      (s.h.token f.toNat = 0 → waits (.tkwait f) (.token f.toNat))) ∧
    (idle → (f = 2 ∨ f = 3 ∨ f = 4 ∨ f = 5) → s.h.token f.toNat < 15 → s.retires (.tkpost f) (set (s.h.token f.toNat + 1))) ∧
    (idle → (f = 2 ∨ f = 3 ∨ f = 4 ∨ f = 5) → s.h.token f.toNat = 15 →
      s.retires (.tkpost f) { s.h with pend := [f.toNat], pc := s.h.pc + 4 }) ∧
    (idle → (f = 0 ∨ f = 1 ∨ f = 3 ∨ f = 5) → s.h.token f.toNat ≠ 0 → s.retires (.tkwait f) (set (s.h.token f.toNat - 1))) ∧
    (idle → s.retires (.vunbind d) { s.h with binds := s.h.binds.filter (fun y => y.reg != d.toNat), pc := s.h.pc + 4 }) ∧
    (idle → s.h.binds.length < 4 → (∀ i < 4, s.Serves (A + BitVec.ofNat 64 (8 * i)) .load 3 (X i)) →
      ofBytes (s.mem.bytes (X 3).key 8) < 16 →
      s.retires (.vbind d a) { s.h with
        binds := s.h.binds.filter (fun y => y.reg != d.toNat) ++ [⟨d.toNat, A⟩]
        pc := s.h.pc + 4 }) ∧
    (away →
      (q.out = 8 → ∀ i ∈ [Instr.epush d a x, .epush2 d a b x],
        exec i s = .next (passed (s.wrote d (BitVec.allOnes 64) 4))) ∧
      (q.out ≠ 8 → (x = 3 → s.h.lost = []) → (x = 5 → (s.die s.h.key.die).inbox.isSome = true) → x.toNat < 6 → ∀ two : Bool,
        ∃ t, exec (if two then .epush2 d a b x else .epush d a x) s = .next t ∧
          t.h = (passed { s with h := { (s.wrote d (q.ticket.setWidth 64) 4).h with
            eng := s.h.eng.setIfInBounds x.toNat ⟨q.out + 1, q.ticket + 1, q.ready⟩ } }).h ∧
          t.cmds = s.cmds ++ [s.cmdOf x.toNat two A (if two then s.rd b else 0)] ∧
          (x ≠ 5 → { t with h := s.h, cmds := s.cmds, freeCount := s.freeCount } = s)) ∧
      (q.out = 0 → exec (.epop d x) s = .next (passed (s.wrote d (recordWord 0 x.toNat 0xFF q.ticket) 4))) ∧
      (q.out ≠ 0 → q.head = none → waits (.epop d x) (.engine x.toNat)) ∧
      (∀ r, q.out ≠ 0 → q.head = some r → exec (.epop d x) s = .next (passed { s with h := { (s.wrote d r 4).h with
        eng := s.h.eng.setIfInBounds x.toNat ⟨q.out - 1, q.ticket, q.ready.erase r⟩ } })) ∧
      exec (.estat d x) s = .next (s.wrote d (BitVec.ofNat 64
        (q.out + q.ready.length * 2 ^ 4 + (if q.out = 8 then 2 ^ 8 else 0) + q.ticket.toNat * 2 ^ 16)) 4)) ∧
    (A.toNat < 256 → s.h.key.die < 4 →
      let n := (s.die s.h.key.die).eventCount A.toNat
      let counts (m : Nat) : State := s.setDie s.h.key.die fun k =>
        { k with events := k.events.setIfInBounds A.toNat (BitVec.ofNat 32 m) }
      exec (.evsig d a) s = .next ((counts (min (n + 1) (2 ^ 32 - 1))).wrote d (BitVec.ofNat 64 (min (n + 1) (2 ^ 32 - 1))) 4) ∧
      (n = 0 → waits (.evwait d a) .event) ∧
      (n ≠ 0 → exec (.evwait d a) s = .next (passed ((counts (n - 1)).wrote d (BitVec.ofNat 64 n) 4)))) ∧
    (A.toNat % 64 = 0 → (s.rd b).toNat < 256 →
      let die := (s.rd b).toNat / 64
      let n := (s.rd b).toNat % 64
      ((s.die die).journal = none → exec (.launch d a b) s = .next (passed (s.wrote d (BitVec.ofInt 64 (-3)) 4))) ∧
      (∀ v t, s.appendLaunch die n A = some (v, t) → exec (.launch d a b) s = .next ((t.wr d v).passWait)) ∧
      (s.appendLaunch die n A = none → waits (.launch d a b) .launch) ∧
      (∀ l, (s.die die).journal.isSome = true → s.qline die n = (some l, s) →
        (l.en = false → exec (.launch d a b) s = .next (passed (({ s with dies := (s.forgetTail die n).dies } : State).wrote d
          (BitVec.ofInt 64 (-2)) 4))) ∧
        (l.en = true → s.badQueue die n l = false →
          let seen : State := { s with launches := s.launches.map fun y => if y.die = die ∧ y.queue = n then { y with prio := l.prio } else y }
          l.dev = true → l.tail - l.head = 2 ^ l.log → exec (.launch d a b) s = .next (passed (seen.wrote d (BitVec.ofInt 64 (-1)) 4)))) ∧
      (∀ l base lg, (s.die die).journal = some (base, lg) → s.qline die n = (some l, s) → l.en = true → l.dev = true →
        s.badQueue die n l = false → l.tail - l.head < 2 ^ l.log → s.WellKept →
        let own (k : Nat) : Nat := s.pkg * 2 ^ 42 + k
        let word (k : Nat) : Nat := ofBytes (s.mem.bytes (own k) 8)
        let line := (s.die die).qcbase.toNat / 2 ^ 12 * 2 ^ 12 + 64 * n
        let entry := base + 64 + 32 * (word base % 2 ^ lg)
        let slot := l.ring + 8 * (l.tail % 2 ^ l.log)
        let at' := [base, entry, line, slot]
        (∀ k ∈ at', k % 8 = 0 ∧ k < 2 ^ 42 ∧ inMemory k = true ∧ s.reachable die (own k) = true ∧ s.mem.intact (own k / 64)) →
        (at'.map (· / 64)).Nodup → word (entry + 24) / 2 ^ 8 % 8 ∉ [5, 6] →
        ∃ t, exec (.launch d a b) s = .next t ∧ t.h = (passed (s.wrote d (BitVec.ofNat 64 (word base)) 4)).h ∧
          (t.die die).waiting n = (s.die die).waiting n ++ [word base] ∧
          t.mem.bytes (own slot) 8 = toBytes 8 A.toNat ∧ t.mem.bytes (own line) 8 = toBytes 8 (l.tail + 1) ∧
          t.mem.bytes (own entry) 32 = toBytes 8 (word base) ++ toBytes 8 A.toNat ++ toBytes 8 s.time.toNat ++
            toBytes 8 (n + die * 2 ^ 6 + 5 * 2 ^ 8) ∧
          t.mem.bytes (own base) 16 = toBytes 8 (word base + 1) ++ toBytes 8 lg ∧
          ∀ k, (∀ p ∈ [(base, 16), (entry, 32), (line, 8), (slot, 8)], k < own p.1 ∨ own p.1 + p.2 ≤ k) →
            cellGet t.mem.cells k = cellGet s.mem.cells k)) ∧
    exec (.lpinfo d) s = .next (s.wrote d (core.lprNext ++ core.lprCur) 4) ∧
    (A.toNat < 16 → A.toNat ≤ s.h.gangSize - 1 →
      exec (.gangid d a) s = .next (s.wrote d (hartidWord s.pkg (s.memberKey A.toNat)) 4)) ∧
    (16 ≤ A.toNat ∨ s.h.gangSize - 1 < A.toNat % 16 → exec (.gangid d a) s = .next (s.takeTrap 0x0B A 1 s.h.pc)) ∧
    (∃ w, exec (.fluest d) s = .next (s.wrote d w 4) ∧
      w.toNat % 2 ^ 32 = (s.flue fl).read 0x120 % 2 ^ 32 ∧
      (w.getLsbD 32 = true ↔ (s.flue fl).read 0x120 / 2 ^ 40 % 2 = 1) ∧
      (∀ c < 4, w.getLsbD (36 + c) = true ↔ (s.core ⟨false, fl.die, fl.clu, 4 * fl.flue + c⟩).emberRate ≠ 0) ∧
      ∀ b, (33 ≤ b ∧ b < 36) ∨ 40 ≤ b → w.getLsbD b = false) ∧
    (A.toNat < 8 ∨ A.toNat = 15 →
      let t : State := match s.h.gang with
        | some g => if A.toNat < 8 then s.setGang g fun y => { y with cls := A.toNat } else s
        | none => s
      let c := match t.myGang with
        | some g => g.cls
        | none => Config.noGangClass.toNat
      ∃ m, (m = if ended = 0 then 0 else min 7 (draw / 24).floor.toNat) ∧
        exec (.curcls d a) s = .next (t.wrote d (BitVec.ofNat 64 (c + m * 2 ^ 8)) 4)) ∧
    (A.toNat < 256 → ∀ l t, s.qline (A.toNat / 64) (A.toNat % 64) = (some l, t) → t.h = s.h →
      exec (.qinfo d a) s = .next (t.wrote d (BitVec.ofNat 64 (min (l.tail - l.head) 0xFFFF + l.prio * 2 ^ 16 +
        (if l.en then 2 ^ 19 else 0) + (if l.dev then 2 ^ 20 else 0) + l.head % 2 ^ 32 * 2 ^ 32)) 4)) ∧
    (256 ≤ A.toNat → ∀ i ∈ [Instr.evsig d a, .evwait d a, .qinfo d a], exec i s = .next (s.takeTrap 0x0B A 1 s.h.pc))

/-! ### Scratchpad keys, probes and invalidation -/

/-- R222 and R223: what `splook`, `spinst` and `spdrop` do to the tag table of the hart's core for an address whose block its
gang owns, and for one that misses; and when they raise OPND or ILLOP. `spzero` writes zero to every byte of a range of scratchpad
within reach and to no other byte, does nothing for a count of zero, and raises OPND, ALIGN and PAGE before anything is written.
The order of these checks, OPND before ALIGN and both before a count of zero and PAGE, is the model's choice (log 55). -/
def Obligations.Scratchpad : Prop :=
  (∀ (s : State) (d a b : Reg) (g : Nat) (e : TagEntry),
      let A := s.rd a
      let B := s.rd b
      let c := coreOf s.h.key
      let tags := (s.core c).tags
      let names (t : TagEntry) : Prop := t.gang = g ∧ t.set = A.toNat / 2 ^ 8 % 2 ^ 8 ∧ t.key = A.toNat / 2 ^ 8 % 2 ^ 49
      let owns : Prop := canonical A = true ∧ e ∈ tags ∧ names e ∧ ∀ t ∈ tags, names t → t = e
      let misses : Prop := canonical A = false ∨ ∀ t ∈ tags, ¬ names t
      let used (w : Nat) : Prop := ∃ t ∈ tags, t.set = A.toNat / 2 ^ 8 % 2 ^ 8 ∧ t.way = w
      let base : Nat := 0xFE00000000000000 + s.h.key.core * 2 ^ 18
      let legal : Prop := B.toNat / 2 ^ 18 * 2 ^ 18 = base ∧ B.toNat % 2 ^ 8 = 0 ∧
        inPartition s.h.sppart s.h.key.core (B.toNat % 2 ^ 18) = true
      (s.h.key.dm = false → s.h.gang = some g → s.h.key.core < 48 →
        (owns → e.slot < 2 ^ 18 →
          exec (.splook d a) s = .next (s.wrote d (BitVec.ofNat 64 (base + e.slot + A.toNat % 2 ^ 8)) 4) ∧
          exec (.spdrop d a) s = .next ((s.setCore c fun x => { x with tags := tags.filter fun t => t != e }).wrote d
            (BitVec.ofNat 64 (base + e.slot)) 4)) ∧
        (misses → ∀ i ∈ [Instr.splook d a, .spdrop d a], exec i s = .next (s.wrote d 0 4)) ∧
        (owns → legal → exec (.spinst d a b) s = .next ((s.setCore c fun x => { x with
          tags := tags.map fun t => if t = e then { t with slot := B.toNat % 2 ^ 18 } else t }).wrote d 1 4)) ∧
        (canonical A = true → misses → legal →
          (∀ w < 4, ¬ used w → (∀ v < w, used v) → exec (.spinst d a b) s = .next ((s.setCore c fun x => { x with
            tags := tags ++ [⟨A.toNat / 2 ^ 8 % 2 ^ 8, w, g, A.toNat / 2 ^ 8 % 2 ^ 49, B.toNat % 2 ^ 18⟩] }).wrote d 0 4)) ∧
          ((∀ w < 4, used w) → exec (.spinst d a b) s = .next (s.wrote d (BitVec.allOnes 64) 4))) ∧
        (canonical A = false → exec (.spinst d a b) s = .next (s.takeTrap 0x0B A 1 s.h.pc)) ∧
        (canonical A = true → ¬ legal → exec (.spinst d a b) s = .next (s.takeTrap 0x0B B 2 s.h.pc))) ∧
      (s.h.key.dm = true → ∀ i ∈ [Instr.splook d a, .spinst d a b, .spdrop d a, .spzero a b],
        exec i s = .next (s.takeTrap 0x01 (encode i) 0 s.h.pc))) ∧
  (∀ (s : State) (a b : Reg), s.h.key.dm = false →
      let A := s.rd a
      let n := (s.rd b).toNat
      let off := windowOff A
      (s.WellKept → inWindow A = true → windowCore A < 48 → A.toNat % 64 = 0 → n % 64 = 0 → 0 < n → off + n ≤ 2 ^ 18 →
        (s.h.priv = true ∨ ∀ x < n, inPartition s.h.sppart (windowCore A) (off + x) = true) →
        ∃ t, exec (.spzero a b) s = .next t ∧ t.h = { s.h with pc := s.h.pc + 4 } ∧ { t with h := s.h, mem := s.mem } = s ∧
          ∀ k, cellGet t.mem.cells k = if s.padKey A ≤ k ∧ k < s.padKey A + n then 0 else cellGet s.mem.cells k) ∧
      (A.toNat % 64 = 0 → n = 0 → exec (.spzero a b) s = .next (s.jumped (s.h.pc + 4))) ∧
      (A.toNat % 64 ≠ 0 → n % 64 = 0 → ¬ (inWindow A = true ∧ 2 ^ 18 < off + n) →
        exec (.spzero a b) s = .next (s.takeTrap 0x04 A 0x31 s.h.pc)) ∧
      (n % 64 ≠ 0 ∨ (inWindow A = true ∧ 2 ^ 18 < off + n) → exec (.spzero a b) s = .next (s.takeTrap 0x0B (s.rd b) 2 s.h.pc)) ∧
      (inWindow A = false → A.toNat % 64 = 0 → n % 64 = 0 → 0 < n →
        exec (.spzero a b) s = .next (s.takeTrap 0x05 A 0x231 s.h.pc)) ∧
      (inWindow A = true → 48 ≤ windowCore A → A.toNat % 64 = 0 → n % 64 = 0 → 0 < n → off + n ≤ 2 ^ 18 →
        exec (.spzero a b) s = .next (s.takeTrap 0x05 A 0x231 s.h.pc)) ∧
      (∀ x, inWindow A = true → windowCore A < 48 → A.toNat % 64 = 0 → n % 64 = 0 → off + n ≤ 2 ^ 18 → s.h.priv = false →
        x % 64 = 0 → x < n → inPartition s.h.sppart (windowCore A) (off + x) = false →
        (∀ y < x, inPartition s.h.sppart (windowCore A) (off + y) = true) →
        exec (.spzero a b) s = .next (s.takeTrap 0x05 (A + BitVec.ofNat 64 x) 0x131 s.h.pc)))

/-- R286 and R287: what `probe` writes for a window address, for one that is not canonical and for a translation that the core
holds, with and without permission; which translations `tlbinv` and `tlbinva` remove, from every core, where no hart has an
access still to be performed; and what each raises. That every window address reads as status 6, whichever core it names, is the
model's choice (log 55). -/
def Obligations.ProbesAndInvalidation : Prop :=
  ∀ (s : State) (d a b : Reg) (e : TlbEntry),
    let A := s.rd a
    let B := s.rd b
    let at4 (v : Word) : Host.Outcome State Fault Refusal := .next (s.wrote d v 4)
    let bit (n : Nat) : Bool := e.attrs / 2 ^ n % 2 == 1
    let kind := B.toNat % 4
    let allowed : Prop := (s.h.priv = true ∨ bit 4 = true) ∧
      ((kind = 0 ∨ kind = 2) → bit 1 = true) ∧ ((kind = 1 ∨ kind = 2) → bit 2 = true) ∧ (kind = 3 → bit 3 = true)
    let held : Prop := canonical A = true ∧ s.h.key.dm = false ∧ (s.core (coreOf s.h.key)).tlb.find? (·.hits s.h.asid A) = some e
    let removes (i : Instr) (sel : Word) (p : TlbEntry → Prop) : Prop :=
      (∀ h ∈ s.harts, h.late = []) → ∃ t, exec i s = .next t ∧ t.h = { s.h with pc := s.h.pc + 4 } ∧
        { t with h := s.h, cores := s.cores } = s ∧
        ∀ k, { t.core k with tlb := (s.core k).tlb } = s.core k ∧ ∀ x, x ∈ (t.core k).tlb ↔
          x ∈ (s.core k).tlb ∧ ¬ ((sel.getLsbD 16 = true ∨ x.asid = sel.setWidth 16) ∧ p x)
    (4 ≤ B.toNat → exec (.probe d a b) s = .next (s.takeTrap 0x0B B 2 s.h.pc)) ∧
    (B.toNat < 4 →
      (inWindow A = true → exec (.probe d a b) s = at4 6) ∧
      (inWindow A = false → canonical A = false → exec (.probe d a b) s = at4 3) ∧
      (held → ¬ allowed → exec (.probe d a b) s = at4 2) ∧
      (held → allowed → e.attrs / 2 ^ 8 % 16 < 12 → s.reachable s.h.key.die (e.phys A) = true →
        ∃ w, exec (.probe d a b) s = at4 w ∧ w.toNat % 16 = 0 ∧
          w.toNat / 2 ^ 4 % 4 = (if e.lg = 16 then 1 else if e.lg = 21 then 2 else if e.lg = 30 then 3 else 0) ∧
          (w.getLsbD 6 = true ↔ e.stride.isSome = true) ∧ w.getLsbD 7 = bit 12 ∧ w.toNat / 2 ^ 8 % 16 = e.attrs / 2 ^ 8 % 16 ∧
          w.toNat / 2 ^ 12 % 2 ^ 42 = e.phys A / 2 ^ 12 % 2 ^ 42 ∧ w.getLsbD 54 = bit 13 ∧
          (∀ i, 1 ≤ i → i ≤ 5 → w.getLsbD (54 + i) = bit i) ∧ w.getLsbD 60 = e.dirty.getLsbD (e.page A) ∧
          w.toNat / 2 ^ 61 = 0)) ∧
    (s.h.priv = true → canonical A = true → B.toNat < 2 ^ 17 →
      removes (.tlbinv a b) B fun x => x.vbase ≤ A.toNat ∧ A.toNat < x.vbase + 2 ^ x.lg ∧ x.vbase % 2 ^ x.lg = 0) ∧
    (s.h.priv = true → A.toNat < 2 ^ 17 → removes (.tlbinva a) A fun _ => True) ∧
    (s.h.priv = true → canonical A = false → exec (.tlbinv a b) s = .next (s.takeTrap 0x0B A 1 s.h.pc)) ∧
    (s.h.priv = true → canonical A = true → 2 ^ 17 ≤ B.toNat → exec (.tlbinv a b) s = .next (s.takeTrap 0x0B B 2 s.h.pc)) ∧
    (s.h.priv = true → 2 ^ 17 ≤ A.toNat → exec (.tlbinva a) s = .next (s.takeTrap 0x0B A 1 s.h.pc)) ∧
    (s.h.priv = false → ∀ i ∈ [Instr.tlbinv a b, .tlbinva a], exec i s = .next (s.takeTrap 0x03 (encode i) 0 s.h.pc))

/-! ### Barriers and ballots -/

/-- R226: an arrival at the gang barrier adds the member and its value, the last one completes the generation, every member
receives the sum, and a generation that completed meanwhile releases a waiting member at once; what `gbarw` reads; and ILLOP
at privileged level and on the die manager core. R228: an arrival at a named counter, a wait for its generation, and the operands
that raise OPND. -/
def Obligations.Barriers : Prop :=
  (∀ (s : State) (d a : Reg) (g : Gang),
      let n := s.h.gangSize
      let arr := g.arr ||| BitVec.ofNat 16 (2 ^ s.h.member)
      let full (x : BitVec 16) : Prop := x ||| g.endedMap = BitVec.ofNat 16 (2 ^ n - 1)
      let slot (f : Gang → Gang) (pv : Bool) (pg : BitVec 32) (w : Wait) : State :=
        ({ s with h := { s.h with pv := pv, pg := pg, wait := w } } : State).setGang g.id fun _ => f g
      let arrives (i : Instr) (d : Reg) (v : Word) : Prop :=
        (s.h.pv = true → s.h.pg ≠ g.gen →
          exec i s = .next (({ s with h := { s.h with pv := false, wait := .none } } : State).wrote d g.last 4)) ∧
        (s.h.pv = true → s.h.pg = g.gen → ¬ full g.arr → exec i s = .next (slot id true g.gen (.gangBarrier d))) ∧
        (s.h.pv = false → s.h.member < 16 → ¬ full arr → exec i s = .next
          (slot (fun y => { y with arr := arr, sum := g.sum + v }) true g.gen (.gangBarrier d))) ∧
        (s.h.pv = false → s.h.member < 16 → full arr → exec i s = .next
          ((slot (fun y => { y with arr := 0, sum := 0, last := g.sum + v, gen := g.gen + 1 }) false g.gen .none).wrote d (g.sum + v) 4))
      (s.h.key.dm = false → s.myGang = some g →
        (s.h.priv = false → arrives .gbar 0 0 ∧ arrives (.gbarv d a) d (s.rd a)) ∧
        exec (.gbarw d) s = .next (s.wrote d (BitVec.ofNat 64 (g.gen.toNat * 2 ^ 32 + g.arr.toNat * 2 ^ 16 + (n - 1))) 4)) ∧
      (s.h.key.dm = true ∨ s.h.priv = true → ∀ i ∈ [Instr.gbar, .gbarv d a], exec i s = .next (s.takeTrap 0x01 (encode i) 0 s.h.pc)) ∧
      (s.h.key.dm = true → exec (.gbarw d) s = .next (s.takeTrap 0x01 (encode (.gbarw d)) 0 s.h.pc))) ∧
  (∀ (s : State) (d a b : Reg) (c : Counter),
      let A := s.rd a
      let i := A.toNat % 2 ^ 6
      let e := A.toNat / 2 ^ 8 % 2 ^ 16
      let granted : Prop := s.h.nbar.getLsbD i = true
      let tgt := if c.cnt = 0 then e else c.tgt
      let counts (x : Counter) : State :=
        s.setCluster s.h.key.die s.h.key.clu fun y => { y with counters := y.counters.setIfInBounds i x }
      (s.h.key.dm = false → (s.cluster s.h.key.die s.h.key.clu).counters[i]? = some c →
        (granted → e ≠ 0 → A.toNat / 2 ^ 6 % 4 = 0 → A.toNat < 2 ^ 24 →
          (c.cnt + 1 = tgt → exec (.barrive d a) s = .next
            ((counts { c with cnt := 0, tgt := tgt, gen := c.gen + 1 }).wrote d (c.gen.setWidth 64) 4)) ∧
          (c.cnt + 1 ≠ tgt → exec (.barrive d a) s = .next
            ((counts { c with cnt := c.cnt + 1, tgt := tgt }).wrote d (c.gen.setWidth 64) 4))) ∧
        (granted → A.toNat < 2 ^ 6 →
          (c.gen = (s.rd b).setWidth 32 → exec (.bwait d a b) s = .next { s with h := { s.h with wait := .counter } }) ∧
          (c.gen ≠ (s.rd b).setWidth 32 → exec (.bwait d a b) s = .next
            (({ s with h := { s.h with wait := .none } } : State).wrote d (c.gen.setWidth 64) 4)))) ∧
      (s.h.key.dm = false → (¬ granted ∨ e = 0 ∨ A.toNat / 2 ^ 6 % 4 ≠ 0 ∨ 2 ^ 24 ≤ A.toNat) →
        exec (.barrive d a) s = .next (s.takeTrap 0x0B A 1 s.h.pc)) ∧
      (s.h.key.dm = false → (¬ granted ∨ 2 ^ 6 ≤ A.toNat) → exec (.bwait d a b) s = .next (s.takeTrap 0x0B A 1 s.h.pc)) ∧
      (s.h.key.dm = true → ∀ j ∈ [Instr.barrive d a, .bwait d a b], exec j s = .next (s.takeTrap 0x01 (encode j) 0 s.h.pc)))

/-- R316 to R322: what the ballot unit does for a member of a grove of this package: page lists, posts and the decision they
complete, where no acknowledgement that they wait for is lost (R355), the ballot word, a leave, and `bchk` as a cancellation
point; and what these do outside a grove. -/
def Obligations.Ballots : Prop :=
  ∀ (s : State) (d a b : Reg) (y : Gang) (v : Grove) (m : Member) (slot i : Nat),
    let A := s.rd a
    let done := (v.members.filter fun x => x.posted.isSome || x.left).length
    let undecided : Prop := v.winner = none ∧ v.noAnswer = false ∧ (∀ p ∈ v.posts, p.2.1 < v.quorum) ∧ done < v.n
    let settled : Prop := v.winner.isSome = true ∨ v.noAnswer = true ∨ undecided
    let counted : Prop := undecided ∧ m.posted = none ∧ m.left = false
    let b2n (x : Bool) : Nat := if x then 1 else 0
    let cnt := ((v.posts.filter fun p => p.1 == A).map fun p => p.2.1).foldl (· + ·) 0 + 1
    let posts := if v.posts.any (fun p => p.1 == A) then v.posts.map fun p => if p.1 = A then (p.1, p.2.1 + 1, p.2.2) else p
      else v.posts ++ [(A, 1, i)]
    let w : Grove := { v with posts := posts, tot := v.tot + 1, members := v.members.set i { m with posted := some A } }
    let unit (x : Grove) : State := s.setGrove slot fun _ => x
    let word (x : Grove) (dec widx cnt : Nat) : Word := BitVec.ofNat 64 (dec * 2 ^ 63 + b2n (x.felled.contains i) * 2 ^ 62 +
      b2n ((x.members[i]?.map fun y => y.left) == some true) * 2 ^ 61 + widx * 2 ^ 32 +
      (x.members.filter fun x => x.posted.isSome || x.left).length * 2 ^ 16 + x.tot * 2 ^ 8 + cnt)
    let leads (p : Word × Nat × Nat) (ps : List (Word × Nat × Nat)) : Prop :=
      ∃ l r, ps = l ++ p :: r ∧ (∀ q ∈ l, q.2.1 < p.2.1) ∧ ∀ q ∈ r, q.2.1 ≤ p.2.1
    let decides (p : Word × Nat × Nat) (how : Nat) : Prop := ∃ t x, exec (.bpost d a) s = .next t ∧
      t.groveAt slot = some x ∧ { x with winner := none, felled := w.felled } = w ∧ x.winner = some (p.1, p.2.1, p.2.2, how) ∧
      (∀ j, j ∈ x.felled ↔ ∃ z, w.members[j]? = some z ∧ z.gone = false ∧ z.left = false ∧ z.posted ≠ some p.1) ∧
      t.h = { (s.wrote d (BitVec.ofNat 64 (2 ^ 63 + cnt)) 4).h with
        event := if x.felled.contains i then s.h.event ||| 2 else s.h.event }
    let all (P : Instr → Prop) (is : List Instr) : Prop := ∀ j ∈ is, P j
    (s.h.key.dm = false → s.h.run = .running → s.myGang = some y → y.resident = true → y.grove = some (s.pkg, slot, i) →
      s.groveAt slot = some v → (∀ x ∈ s.groves, x.slot = slot → x = v) → v.members[i]? = some m → settled →
      (canonical A = true → A.toNat % 64 = 0 → (s.rd b).toNat < 2 →
        (m.left = true → exec (.bjoin d a b) s = .next (s.wrote d 2 4)) ∧
        (m.left = false → s.rd b = 1 → exec (.bjoin d a b) s = .next
          ((unit { v with shared := some (i, A) }).wrote d (if v.shared.isSome then 1 else 0) 4)) ∧
        (m.left = false → s.rd b = 0 → exec (.bjoin d a b) s = .next
          ((unit { v with members := v.members.set i { m with priv := some A, returned := false } }).wrote d
            (if m.priv.isSome then 1 else 0) 4))) ∧
      (¬ counted → s.h.lost = [] → (v.noAnswer = true → m.posted.isSome || m.left) → exec (.bpost d a) s = .next (s.wrote d (BitVec.ofNat 64
        (b2n v.winner.isSome * 2 ^ 62 + b2n m.posted.isSome * 2 ^ 61 + b2n m.left * 2 ^ 60)) 4)) ∧
      (counted → s.h.lost = [] → (v.posts.map fun p => p.1).Nodup →
        (cnt < v.quorum → done + 1 < v.n → exec (.bpost d a) s = .next ((unit w).wrote d (BitVec.ofNat 64 cnt) 4)) ∧
        ((∀ x ∈ s.gangs, x.resident = true) → (∀ l ∈ s.launches, l.next = l.record.ctl.toNat % 2 ^ 16) →
          (∀ p ∈ posts, p.1 = A → v.quorum ≤ cnt → decides p 1) ∧
          (∀ p, cnt < v.quorum → done + 1 = v.n → leads p posts → decides p 2))) ∧
      (∀ j ∈ [Instr.bpoll d, .bchk d], y.felled = false →
        (∀ h c f how, v.winner = some (h, c, f, how) → exec j s = .next (s.wrote d (word v 1 f c) 4)) ∧
        (v.winner = none → v.posts = [] → exec j s = .next (s.wrote d (word v 0 0 0) 4)) ∧
        (∀ p, v.winner = none → leads p v.posts → exec j s = .next (s.wrote d (word v 0 0 p.2.1) 4))) ∧
      (y.felled = true → s.h.viq = [] → s.h.late = [] → ∃ t, exec (.bchk d) s = .next t ∧ t.h.run = .ended ∧ t.h.x = s.h.x) ∧
      (∀ h c f how, v.winner = some (h, c, f, how) → exec (.bleave d) s = .next (s.wrote d (word v 1 f c) 4)) ∧
      (let x : Grove := { v with members := v.members.set i { m with left := true } }
       undecided → done + 1 < v.n →
        (v.posts = [] → exec (.bleave d) s = .next ((unit x).wrote d (word x 0 0 0) 4)) ∧
        (∀ p, leads p v.posts → exec (.bleave d) s = .next ((unit x).wrote d (word x 0 0 p.2.1) 4)))) ∧
    (s.h.key.dm = false → s.myGang = some y → y.grove.isSome = true →
      ((canonical A = false ∨ A.toNat % 64 ≠ 0) → exec (.bjoin d a b) s = .next (s.takeTrap 0x0B A 1 s.h.pc)) ∧
      (canonical A = true → A.toNat % 64 = 0 → 2 ≤ (s.rd b).toNat →
        exec (.bjoin d a b) s = .next (s.takeTrap 0x0B (s.rd b) 2 s.h.pc))) ∧
    (s.h.key.dm = false → s.myGang = some y → y.grove = none → y.felled = false →
      all (fun j => exec j s = .next (s.wrote d 0 4)) [.bpoll d, .bchk d] ∧
      all (fun j => exec j s = .next (s.takeTrap 0x01 (encode j) 0 s.h.pc)) [.bjoin d a b, .bpost d a, .bleave d]) ∧
    (s.h.key.dm = true → s.h.gang = none →
      all (fun j => exec j s = .next (s.takeTrap 0x01 (encode j) 0 s.h.pc)) [.bjoin d a b, .bpost d a, .bpoll d, .bchk d, .bleave d])

/-! ### Steps of a hart -/

/-- R34, R60, R69, R70, R100, R169, R177, R184, R185, R187, R226, R322: the steps of the hart at its place that no word
encodes, with no access left to perform (R139): an event trap, the timers, the end of a `WFE` and of a gang barrier, dispatch and retirement of the queue's entries
with and without a lane error, a stop, an end by felling, an encoding that is no instruction, and a fetch that fails. That
these act as steps of their own, for the hart at a place, is the model's choice (log 70), as are which bits of `EVENT` the
trap's `TINFO` shows (log 71), what a lane error that meets no dispatched entry does (log 21), which waits are boundaries (log
51), that a stop saves the hart's layout of log 22, and that a fetch faults at the first parcel (log 54). -/
def Obligations.HartSteps : Prop :=
  ∀ (s : State) (d f : Reg) (g : Gang) (e : VEntry) (older rest : List VEntry) (w addr info : Word) (lane : BitVec 6),
    let k := s.h.key
    let due : Prop := s.h.event &&& s.h.evmask ≠ 0
    let mine : Prop := s.h.run = .running
    let late (h : Hart) : Prop := h.run = .running ∧ h.timecmp.toNat ≤ s.time.toNat
    let rung (h : Hart) : Hart := { h with event := h.event ||| 8 }
    let core (t : State) : CoreSt := t.core (coreOf k)
    let owns : Prop := lane.toNat / 8 ∈ s.groups k
    let gated : Prop := (core s).shut = true ∨ (k.dm = false ∧ (s.flue (flueOf (coreOf k))).damped = true)
    let heads : Prop := s.h.viq = e :: rest ∧ e.st.pc = s.h.pc
    let posted : Hart := { s.h with
      vsi := 0, vsr := 0, vsp := 0, viq := rest, pc := s.h.pc + 4
      front := s.h.front.bind fun f => if rest = [] ∧ f.window = [] ∧ f.halted = false then none else some f }
    let still : Prop := mine ∧ s.h.late = []
    (mine → due → s.h.priv = false → s.h.viq = [] → s.h.wait = .none → s.myGang = some g → g.leave = none → g.felled = false →
      g.preempt = false → exec .eventTrap s = .next (s.enterTrap 0x06 0 ((s.h.event &&& s.h.evmask).setWidth 64) s.h.pc)) ∧
    (¬ due ∨ s.h.priv = true → exec .eventTrap s = .next s) ∧
    (∃ t, exec .timerCompare s = .next t ∧ (late s.h → t.h = rung s.h) ∧ (¬ late s.h → t.h = s.h) ∧
      (∀ h ∈ s.others, (late h → rung h ∈ t.others) ∧ (¬ late h → h ∈ t.others)) ∧ t.others.length = s.others.length ∧
      { t with h := s.h, others := s.others } = s) ∧
    (mine → s.h.wait = .wfe d →
      (s.h.event = 0 → exec (.wfeWake k) s = .next s) ∧
      (s.h.event ≠ 0 → exec (.wfeWake k) s = .next
        (({ s with h := { s.h with wait := .none } } : State).wrote d (s.h.event.setWidth 64) 4))) ∧
    (mine → s.h.wait = .gangBarrier d → s.myGang = some g → s.h.pv = true →
      (s.h.pg = g.gen → exec (.gangBarrierRelease k) s = .next s) ∧
      (s.h.pg ≠ g.gen → exec (.gangBarrierRelease k) s = .next
        (({ s with h := { s.h with pv := false, wait := .none } } : State).wrote d g.last 4))) ∧
    (still → s.h.viq = [] →
      (∀ i ∈ [Instr.viqDispatch k, .vectorRetire k none], exec i s = .next s) ∧
      exec (.vectorRetire k (some lane)) s =
        .next (if owns then { s with h := { s.h with upset := s.h.upset ++ [lane] } } else s)) ∧
    (still → s.h.viq = e :: rest → e.dispatched = false →
      exec (.vectorRetire k none) s = .next s ∧
      (e.op = .tkpost f → f.toNat < 6 → s.h.pend = [] → s.h.binds = [] → ¬ gated →
        exec (.viqDispatch k) s = .next { s with h := { s.h with
          viq := { e with dispatched := true, took := false, tally := ⟨0, 0, 0⟩ } :: rest } })) ∧
    (still → s.h.viq = older ++ e :: rest → (∀ x ∈ older, x.dispatched = true) → e.dispatched = false → e.op = .tkwait f →
      s.h.token f.toNat = 0 → exec (.viqDispatch k) s = .next s) ∧
    (still → heads → e.dispatched = true → e.op = .tkpost f → f.toNat < 6 → s.h.binds = [] →
      exec (.vectorRetire k (some lane)) s = .next s ∧ (rest = [] → exec (.viqDispatch k) s = .next s) ∧
      (s.h.token f.toNat < 15 → exec (.vectorRetire k none) s = .next { s with h := { posted with
        tokens := s.h.tokens.setIfInBounds f.toNat (s.h.token f.toNat + 1) } }) ∧
      (s.h.token f.toNat = 15 → exec (.vectorRetire k none) s = .next { s with h := { posted with
        pend := s.h.pend ++ [f.toNat] } })) ∧
    (∀ c u, still → heads → e.dispatched = true → s.runVector e.op e.look = (.done c, u) → c.units ≠ [] →
      (¬ owns → exec (.vectorRetire k (some lane)) s = .next s) ∧
      (owns → e.replayed = false → (∀ x ∈ s.h.viq, x.took = false) →
        ∃ t, exec (.vectorRetire k (some lane)) s = .next t ∧ s.KeptAround { t with cores := s.cores } ∧
          (core t).chk = (core s).chk + 1 ∧ t.h = { s.h with viq := { e with dispatched := false, took := false, replayed := true } ::
            (rest.map fun x => { x with dispatched := false, took := false }) }) ∧
      (owns → e.replayed = true → s.h.ih = false → ∃ t, exec (.vectorRetire k (some lane)) s = .next t ∧ t.h.tcause = 0x0D ∧
        t.h.tpc = s.h.pc &&& ~~~1 ∧ t.h.tval = s.h.pc ∧ t.h.tinfo.setWidth 6 = lane ∧ t.h.viq = [] ∧ t.h.v = s.h.v)) ∧
    (mine → s.myGang = some g → (g.preempt = false ∨ s.h.yld = true ∨ s.h.priv = true) → exec (.hartStop k) s = .next s) ∧
    (mine → s.myGang = some g → g.preempt = true → g.leave = none → g.felled = false → s.h.yld = false → s.h.priv = false →
      s.h.viq = [] → s.h.late = [] → (∃ l ∈ s.launches, l.id = g.launch) → ∃ t, exec (.hartStop k) s = .next t ∧
        ((t.h.run = .stopped ∧ t.h.x = s.h.x ∧ t.h.pc = s.h.pc ∧ t.groups k = []) ∨ t.h.run = .ended)) ∧
    (mine → s.myGang = some g →
      (g.felled = false ∨ (s.h.yld = true ∧ s.h.wait = .none) → exec (.hartFelled k) s = .next s) ∧
      (g.felled = true → s.h.yld = false → s.h.viq = [] → s.h.late = [] → ∃ t, exec (.hartFelled k) s = .next t ∧ t.h.run = .ended)) ∧
    (s.hartAt k = none → ∀ i ∈ [Instr.wfeWake k, .gangBarrierRelease k, .viqDispatch k, .vectorRetire k none, .hartStop k,
      .hartFelled k], exec i s = .next s) ∧
    exec (.encodingNotInstruction w) s = .next (s.takeTrap 0x01 w 0 s.h.pc) ∧
    exec (.instructionFetchFault addr info) s = .next (s.takeTrap 0x05 addr info s.h.pc)

/-! ### Writes and reads of single registers -/

/-- R8, R25, R29, R34, R97, R98, R104, R178, R180, R182, R185, R215, R241, R276, R342: what the steps that write or read one
register of the hart, its core or its flue do at privileged level, and which writes wait: for older vector instructions, or for
accesses that are still to be performed. A value that the register does not take raises OPND with the value in
`TVAL`; below privileged level a read-only register ignores the write. That each acts as a `putsr` or a `getsr` by the current
hart but for the program counter, which stays, with the word of that `putsr` in `TVAL` where the number is out of reach, is the
model's choice (log 70); so is that bits 63:12 of a `TSAVE` write are reserved field values (log 71). -/
def Obligations.HartRegisterSteps : Prop :=
  ∀ (s : State) (d : Reg) (v : Word) (n : BitVec 9),
    let takes (i : Instr) (ok : Prop) (t : State) : Prop :=
      (ok → exec i s = .next t) ∧ (¬ ok → exec i s = .next (s.takeTrap 0x0B v 1 s.h.pc))
    let hart (h : Hart) : State := { s with h := h }
    let k := coreOf s.h.key
    let c := s.core k
    let configOk : Prop := v.toNat / 2 ^ 12 = 0 ∧ v.toNat % 8 < 4 ∧ v.toNat / 2 ^ 5 % 4 ≠ 3
    let nib (x : BitVec 32) (g : Nat) : Nat := x.toNat / 16 ^ g % 16
    let next : BitVec 32 := (v >>> 32).setWidth 32
    let keeps (h : Hart) : Prop := h.run = .running → coreOf h.key = k → ∃ g < 8, 8 ≤ nib next g ∧ nib next g % 4 = h.key.slot
    let fl := s.ownFlue s.h
    let late : Prop := s.h.run = .running ∧ s.h.timecmp.toNat ≤ s.time.toNat
    let waits : Prop := (n.toNat ∈ [0x004, 0x005, 0x006, 0x010, 0x011, 0x012, 0x014, 0x138, 0x139] ∧ s.h.viq ≠ []) ∨
      (n.toNat = 0x110 ∧ ∃ x ∈ s.h.late, x.isVector = false) ∨ (n.toNat ∈ [0x138, 0x139] ∧ s.h.late ≠ [])
    (s.h.priv = false → ∀ i ∈ [Instr.vlWrite v, .vcfgWrite v, .rcWrite v], exec i s = .next s) ∧
    (s.h.viq = [] → takes (.tbnWrite v) (v.toNat ≤ 256) (hart { s.h with tbn := v.toNat })) ∧
    (∃ t, exec (.eventClear v) s = .next t ∧
      t.h = { s.h with event := if late then (s.h.event &&& ~~~v.setWidth 5) ||| 8 else s.h.event &&& ~~~v.setWidth 5 } ∧
      { t with h := s.h, others := s.others } = s) ∧
    ((n.toNat < 0x100 ∨ s.h.priv = true) → assigned s.h.key.dm n.toNat = true →
      (waits → exec (.sysregWrite n v) s = .next (hart { s.h with wait := .write n.toNat v })) ∧
      (∀ t, ¬ waits → s.srWrite n.toNat v = some t → exec (.sysregWrite n v) s = .next t) ∧
      (¬ waits → s.srWrite n.toNat v = none → exec (.sysregWrite n v) s = .next (s.takeTrap 0x0B v 1 s.h.pc))) ∧
    (0x100 ≤ n.toNat → s.h.priv = false → exec (.sysregWrite n v) s = .next (s.takeTrap 0x03 (encode (.putsr 0 n)) 0 s.h.pc)) ∧
    ((n.toNat < 0x100 ∨ s.h.priv = true) → assigned s.h.key.dm n.toNat = false →
      exec (.sysregWrite n v) s = .next (s.takeTrap 0x01 (encode (.putsr 0 n)) 0 s.h.pc)) ∧
    (s.h.priv = true →
      takes (.vlWrite v) (v.toNat ≤ s.vmax s.h s.h.vcfg) (hart { s.h with vl := v.toNat }) ∧
      takes (.vcfgWrite v) (configOk ∧ s.h.vl ≤ s.vmax s.h v) (hart { s.h with vcfg := v }) ∧
      takes (.rcWrite v) (1 ≤ v.toNat ∧ v.toNat ≤ 32) (hart { s.h with rc := v.toNat }) ∧
      takes (.tsaveWrite v) configOk (hart { s.h with tsave := v }) ∧
      ((∀ x ∈ s.h.late, x.isVector = true) → takes (.lprWrite v)
        ((∀ g < 8, nib next g / 4 % 2 = 0 ∧ (8 ≤ nib next g → c.lgoff.getLsbD g = false)) ∧ keeps s.h ∧ ∀ h ∈ s.others, keeps h)
        (s.setCore k fun x => { x with lprNext := next })) ∧
      (∃ t, exec (.lgoffWrite v) s = .next t ∧ { t with cores := s.cores } = s ∧
        (∀ j, j ≠ k → t.core j = s.core j) ∧ { t.core k with lgoff := c.lgoff, lprNext := c.lprNext } = c ∧
        (t.core k).lgoff = v.setWidth 8 ∧ ∀ g < 8, nib (t.core k).lprNext g =
          if v.getLsbD g = true ∧ c.lgoff.getLsbD g = false ∧ 8 ≤ nib c.lprCur g then nib c.lprNext g % 8 else nib c.lprNext g) ∧
      takes (.gatecfgWrite v) (v.toNat / 2 ^ 16 % 2 ^ 32 ≠ 0 ∧ v.toNat % 2 ^ 16 ≠ 0)
        (s.setCore k fun x => { x with gateCap := (v >>> 16).setWidth 32, gateLeak := v.setWidth 16 }) ∧
      takes (.seedchkWrite v) (v ≠ 0) (s.setCore k fun x => { x with seed := v }) ∧
      ((s.flue fl).held = true → exec (.flcfgWrite v) s = .next s) ∧
      ((s.flue fl).held = false → takes (.flcfgWrite v)
        (v.toNat % 16 ≠ 0 ∧ v.toNat / 2 ^ 8 % 16 ≠ 0 ∧ v.toNat / 2 ^ 16 % 16 ≠ 0 ∧ v.toNat / 2 ^ 8 % 16 ≤ v.toNat % 16)
        (s.setFlue fl fun x => { x with pending := some (v.toNat / 2 ^ 16 % 16, v.toNat / 2 ^ 8 % 16, v.toNat % 16) })) ∧
      (s.h.viq = [] → s.h.late = [] →
        takes (.ptrootWrite v) (v.toNat % 2 ^ 12 = 0 ∧ v.toNat < 2 ^ 42) (hart { s.h with ptroot := v }) ∧
        takes (.asidWrite v) (v.toNat < 2 ^ 16) (hart { s.h with asid := v.setWidth 16 })) ∧
      exec (.energyloRead d) s = .next
        (({ s with h := { s.h with energyHi := (s.energyCount >>> 32).setWidth 32 } } : State).wrote d
          ((s.energyCount.setWidth 32).setWidth 64) 0))

/-- R241, R242, R249 to R251, R254, R255, R305, R306, R331, R339, R340, R343: the registers that the die manager core alone
writes or reads, by the steps that do so; elsewhere they raise ILLOP. With the host channel at rest, an inbox set by `MBXBASE`
receives the message that waits for it, with its entry in memory, `MBXTAIL` raised and `EVENT.WAKE` set; a write of `MBXREPLY`
answers one message, to its hart or into the host's reply ring, and any other write of it does nothing. That these writes act
as steps with the program counter kept, and the word that `TVAL` then holds, are the model's choice (log 70). -/
def Obligations.DieRegisterSteps : Prop :=
  ∀ (s : State) (d : Reg) (v : Word) (on : Bool) (m : Message) (pre post : List Message), s.h.priv = true →
    let die := s.h.key.die
    let D := s.die die
    let takes (i : Instr) (v : Word) (ok : Prop) (t : State) : Prop :=
      (ok → exec i s = .next t) ∧ (¬ ok → exec i s = .next (s.takeTrap 0x0B v 1 s.h.pc))
    let clu := D.flsel.toNat / 2 ^ 8 % 16
    let fl : FlueKey := ⟨die, clu, D.flsel.toNat % 16⟩
    let K := s.cluster die clu
    let r := v.toNat % 4
    let busy : Prop := ∃ h ∈ s.h :: s.others, h.run = .running ∧ h.key.dm = false ∧ flueOf (coreOf h.key) = fl
    let here (g : Gang) : Prop := g.resident = true ∧ g.die = die ∧ g.clu = clu
    let own (a : Nat) : Nat := s.pkg * 2 ^ 42 + a
    let word (a : Nat) : Nat := ofBytes (s.mem.bytes (own a) 8)
    let chan := D.qcbase.toNat / 2 ^ 12 * 2 ^ 12 + 4096
    let calm : Prop := s.WellKept ∧ chan < 2 ^ 42 ∧ s.mem.intact (own chan / 64) ∧ word (chan + 24) / 2 ^ 8 % 2 = 0 ∧ D.reports = []
    let taken (y : Message) : Prop := y.seq.isSome = true
    let base := v.toNat / 2 ^ 12 * 2 ^ 12
    let entry := own (base + 32 * (D.mbxtail.toNat % 2 ^ (v.toNat % 16)))
    let named (y : Message) : Prop := y.answered = false ∧ ∃ q, y.seq = some q ∧ q % 2 ^ 16 = v.toNat % 2 ^ 16
    let record : Word := recordWord (v.toNat / 2 ^ 32) 5 (v.toNat / 2 ^ 16 % 256) m.ticket
    (s.h.key.dm = false → ∀ i ∈ [Instr.flselWrite v, .flrailWrite v, .cqctlClose on, .cqctlPre on, .cqctlSleep on, .cwakeWrite v,
      .uvpinClear v, .jbaseWrite v, .mbxbaseWrite v, .mbxreplyWrite v, .mfaqPop d], ∃ w, exec i s = .next (s.takeTrap 0x01 w 0 s.h.pc)) ∧
    (s.h.key.dm = true → die < 4 →
      takes (.flselWrite v) v (v.toNat % 16 < 12) (s.setDie die fun x => { x with flsel := v &&& 0xF0F }) ∧
      (¬ (r < 3 ∧ (r ≠ 0 → ¬ busy) ∧ (r ≠ 2 → K.clock = .on)) → exec (.flrailWrite v) s = .next (s.takeTrap 0x0B v 1 s.h.pc)) ∧
      (r < 3 → (r ≠ 0 → ¬ busy) → (r ≠ 2 → K.clock = .on) → ∃ t, exec (.flrailWrite v) s = .next t ∧
        { t with flues := s.flues } = s ∧ { t.flue fl with railReq := (s.flue fl).railReq, railTo := (s.flue fl).railTo } = s.flue fl ∧
        (t.flue fl).railReq = r ∧ (∀ x, x ≠ fl → t.flue x = s.flue x) ∧ (t.flue fl).railTo =
          if (s.flue fl).railTo.isSome then (s.flue fl).railTo else if (s.flue fl).railState < r then some ((s.flue fl).railState + 1)
          else if r < (s.flue fl).railState then some ((s.flue fl).railState - 1) else none) ∧
      (K.pre = false → K.sleep = false → exec (.cqctlClose on) s = .next (s.setCluster die clu fun x => { x with close := on })) ∧
      (K.pre = true → (∃ g ∈ s.gangs, here g) → on = false → ∃ w, exec (.cqctlClose on) s = .next (s.takeTrap 0x0B w 1 s.h.pc)) ∧
      (K.close = true → K.sleep = false → (∃ g ∈ s.gangs, here g) → (s.gangs.map fun g => g.id).Nodup →
        ∃ t, exec (.cqctlPre true) s = .next t ∧ (t.cluster die clu).pre = true ∧ t.h.pc = s.h.pc ∧
        (∀ g ∈ s.gangs, here g → { g with preempt := true, askedBy := if g.preempt then g.askedBy else none } ∈ t.gangs) ∧
        (∀ g ∈ s.gangs, ¬ here g → g ∈ t.gangs) ∧
        ∀ h ∈ s.others, ∀ g ∈ s.gangs, here g → g.preempt = false → h.gang = some g.id → { h with event := h.event ||| 16 } ∈ t.others) ∧
      ((K.close = false ∨ K.sleep = true) → (∃ g ∈ s.gangs, here g) →
        ∃ w, exec (.cqctlPre true) s = .next (s.takeTrap 0x0B w 1 s.h.pc)) ∧
      (K.pre = false → K.sleep = false → exec (.cqctlPre false) s = .next (s.setCluster die clu fun x => x)) ∧
      (K.close = true → K.pre = false → K.sleep = false → K.clock = .on → (∀ g ∈ s.gangs, ¬ here g) → s.ceBusy die clu = false →
        (∀ f < 12, (s.flue ⟨die, clu, f⟩).railState = 2 ∧ (s.flue ⟨die, clu, f⟩).railTo = none) →
        exec (.cqctlSleep true) s = .next (s.setCluster die clu fun x => { x with sleep := true, clock := .stopping })) ∧
      (K.close = true → K.pre = false → K.sleep = true →
        exec (.cqctlSleep false) s = .next (s.setCluster die clu fun x => { x with sleep := false, clock := .starting })) ∧
      (∃ t, exec (.cwakeWrite v) s = .next t ∧ t.die die = { D with cwake := v.setWidth 16 } ∧ (s.h.at (dmKey die) = true →
        t.h = { s.h with event := if v.setWidth 16 &&& ~~~D.cwake ≠ 0 then s.h.event ||| 4 else s.h.event })) ∧
      exec (.uvpinClear v) s = .next (s.setDie die fun x => { x with uvpin := D.uvpin &&& ~~~v.setWidth 17 }) ∧
      takes (.jbaseWrite v) v (10 ≤ v.toNat % 32 ∧ v.toNat % 32 ≤ 20) (s.setDie die fun x => { x with jbase := v &&& ~~~0xFE0 }) ∧
      (¬ (4 ≤ v.toNat % 16 ∧ v.toNat % 16 ≤ 7) → exec (.mbxbaseWrite v) s = .next (s.takeTrap 0x0B v 1 s.h.pc)) ∧
      (4 ≤ v.toNat % 16 → v.toNat % 16 ≤ 7 → ∃ t, exec (.mbxbaseWrite v) s = .next t ∧ (t.die die).mbxbase = v &&& ~~~0xFF0 ∧
        t.h.pc = s.h.pc ∧ t.h.x = s.h.x) ∧
      (4 ≤ v.toNat % 16 → v.toNat % 16 ≤ 7 → calm → (∀ y ∈ D.messages, taken y) →
        exec (.mbxbaseWrite v) s = .next (s.setDie die fun x => { x with mbxbase := v &&& ~~~0xFF0 })) ∧
      (4 ≤ v.toNat % 16 → v.toNat % 16 ≤ 7 → calm → D.messages = pre ++ m :: post → m.seq = none → (∀ y ∈ pre ++ post, taken y) →
        base ≠ 0 → base + 2 ^ 12 ≤ 2 ^ 42 → (D.mbxtail - D.mbxhead).toNat < 2 ^ (v.toNat % 16) →
        ∃ t, exec (.mbxbaseWrite v) s = .next t ∧ (t.die die).mbxtail = D.mbxtail + 1 ∧
          (t.die die).messages = pre ++ { m with seq := some D.mbxtail.toNat } :: post ∧
          t.mem.bytes entry 8 = toBytes 8 (D.mbxtail.toNat + m.src * 2 ^ 32) ∧
          t.mem.bytes (entry + 8) 8 = toBytes 8 (m.hartid.toNat + m.ticket.toNat * 2 ^ 32) ∧
          t.mem.bytes (entry + 16) 8 = toBytes 8 m.word0.toNat ∧ t.mem.bytes (entry + 24) 8 = toBytes 8 m.word1.toNat ∧
          (s.h.at (dmKey die) = true → t.h = { s.h with event := s.h.event ||| 4 })) ∧
      ((∀ y ∈ D.messages, ¬ named y) → exec (.mbxreplyWrite v) s = .next s) ∧
      (m ∈ D.messages → named m → (∀ y ∈ D.messages, y ≠ m → ¬ named y) →
        ∃ t, exec (.mbxreplyWrite v) s = .next t ∧ t.h.pc = s.h.pc ∧ t.h.x = s.h.x ∧
          { m with answered := true } ∈ (t.die die).messages ∧
          (m.src ≠ 1 → t.cmds = s.cmds.map fun y =>
            if y.uid = m.uid ∧ y.eng = 5 ∧ y.ticket = m.ticket ∧ y.record = none then { y with record := some record } else y) ∧
          (m.src = 1 → calm → (∀ y ∈ D.messages, taken y) →
            let at' := own (word (chan + 32) + 8 * (m.ticket.toNat % 2 ^ (word (chan + 24) % 16)))
            word (chan + 32) % 64 = 0 → word (chan + 32) + 2 ^ 18 ≤ 2 ^ 42 → at' / 64 ≠ own chan / 64 →
            t.mem.bytes at' 8 = toBytes 8 record.toNat)) ∧
      (D.selected.queue = [] → exec (.mfaqPop d) s = .next (s.wrote d 0 0)) ∧
      (∀ e q, D.selected.queue = e :: q → exec (.mfaqPop d) s = .next
        ((s.setCtl die D.mssel.toNat fun x => { x with queue := q, ovf := false }).wrote d
          (if D.selected.ovf then e ||| BitVec.ofNat 64 (2 ^ 62) else e) 0)))

/-! ### Power and storage -/

/-- R183, R233 to R237, R242, R253, R254: a lane cycle of the dispatch gates, the end of a window of the flues, the end of a
rail step, and the two clock transitions of a cluster, whose copy engine then refuses the commands of no known opcode that came
while it stood still. A lane cycle ends with the embers that idle lanes of clocked cores
issue, on the level its dispatches left, and the next one begins with the leak; the statement of a window's end is for its
last lane cycle. That these are events of every core and flue at once, to which time passes, is the model's choice (log 70),
as are the places of times (log 11) and the rail's (log 58). -/
def Obligations.PowerSteps : Prop :=
  ∀ (s : State) (k : CoreKey) (f : FlueKey) (die clu n : Nat),
    let cycle := s.ticks / 2
    let busy (j : CoreKey) : Nat := ((s.h :: s.others).map fun h =>
      if h.run = .running ∧ coreOf h.key = j ∧ cycle < h.laneFree then 8 * (s.groups h.key).length else 0).sum
    let present (j : CoreKey) : Nat := ((List.range 8).filter fun g =>
      !(s.core j).lgoff.getLsbD g || decide (8 ≤ (s.core j).lprCur.toNat / 16 ^ g % 16)).length
    let clocked (j : CoreKey) : Prop := j.dm = false ∧ (s.flue (flueOf j)).railState = 0 ∧ (s.flue (flueOf j)).railTo = none ∧
      (s.cluster j.die j.clu).clock = .on
    let idle (j : CoreKey) : Nat := min (s.core j).emberRate (3 * (8 * present j - busy j))
    let issues (j : CoreKey) (e : Nat) : Prop :=
      (clocked j ∧ (s.core j).level.toNat + 192 < (s.core j).gateCap.toNat → e = idle j) ∧
      (¬ (clocked j ∧ (s.core j).level.toNat + 192 < (s.core j).gateCap.toNat) → e = 0)
    let F := s.flue f
    let owed (c : Cmd) : Prop := c.eng = 1 ∧ c.key.die = die ∧ c.key.clu = clu ∧ c.record = none ∧
      (c.word0.toNat % 2 ^ 8 = 0 ∨ 8 ≤ c.word0.toNat % 2 ^ 8)
    let at4 (p : Fin 4) : CoreKey := ⟨false, f.die, f.clu, 4 * f.flue + p.val⟩
    (∃ t, exec (.dispatchGateCycle k) s = .next t ∧ t.ticks = s.ticks + (2 - s.ticks % 2) ∧
      (s.h.run = .running → t.h.cycle = s.h.cycle + BitVec.ofNat 64 (2 - s.ticks % 2)) ∧ t.h.x = s.h.x ∧ t.h.pc = s.h.pc ∧
      (cycle % 64 ≠ 63 →
        { t with h := s.h, others := s.others, cores := s.cores, ticks := s.ticks, energyCount := s.energyCount,
                 freeCount := s.freeCount } = s ∧
        ∀ j e, issues j e → t.core j = { s.core j with
          level := BitVec.ofNat 32 (min ((s.core j).level.toNat + e) (2 ^ 32 - 1) - (s.core j).gateLeak.toNat)
          draw := (s.core j).draw + (e : Rat), drawEmber := (s.core j).drawEmber + e })) ∧
    (∀ em : Fin 4 → Nat, cycle % 64 = 63 → (∀ p, issues (at4 p) (em p)) → ∃ t, exec (.flueWindowEnd f) s = .next t ∧
      t.ticks = s.ticks + (2 - s.ticks % 2) ∧ t.mem = s.mem ∧ t.h.x = s.h.x ∧ t.h.pc = s.h.pc ∧
      let G := t.flue f
      let D (p : Fin 4) : Rat := (s.core (at4 p)).draw + (em p : Rat)
      let N (p : Fin 4) : Rat := (s.core (at4 p)).drawReal
      let E (p : Fin 4) : Nat := 6 * present (at4 p)
      let sum := D 0 + D 1 + D 2 + D 3
      let mean := sum / 4
      let cfg := F.pending.getD (F.dhold, F.embt, F.dmpt)
      let dmpt := cfg.2.2
      let off (p : Fin 4) : Rat := (D p - mean) * 128 / mean
      let dev (p : Fin 4) : Int := if sum = 0 then 0 else max (-128) (min 127 (if 0 ≤ off p then (off p).floor else (off p).ceil))
      let steady : Prop := ∀ p, (dev p).natAbs ≤ dmpt
      let low (p : Fin 4) : Prop := N p < mean * (128 - (cfg.2.1 : Rat)) / 128
      let least (p : Fin 4) : Prop := (∀ q, D p ≤ D q) ∧ ∀ q < p, D p < D q
      let capped : Prop := ∀ p, least p →
        (G.cap : Int) = (max (D p) (64 * (E p : Rat)) * (128 + (dmpt : Rat)) / 128).floor
      let rung : Prop := s.h.run = .running ∧ s.h.key.dm = false ∧ flueOf (coreOf s.h.key) = f
      (F.held = true → G = F) ∧
      (F.held = false →
        (∀ p : Fin 4, G.dev[p] = dev p ∧ (t.core (at4 p)).draw = (s.core (at4 p)).later.headD 0 ∧
          ((¬ low p) → (t.core (at4 p)).emberRate = 0) ∧
          (low p → (t.core (at4 p)).emberRate = min (E p) ((mean - N p) / 64).ceil.toNat)) ∧
        G.emb = F.emb + BitVec.ofNat 64 (((s.core (at4 0)).drawEmber + em 0) + ((s.core (at4 1)).drawEmber + em 1) +
          ((s.core (at4 2)).drawEmber + em 2) + ((s.core (at4 3)).drawEmber + em 3)) ∧
        (G.dhold, G.embt, G.dmpt) = cfg ∧ G.pending = none ∧
        F.maxdev ≤ G.maxdev ∧ (∀ p, (dev p).natAbs ≤ G.maxdev) ∧ (G.maxdev = F.maxdev ∨ ∃ p, G.maxdev = (dev p).natAbs) ∧
        (rung → (t.h.event.getLsbD 0 = true ↔ s.h.event.getLsbD 0 = true ∨ (F.damped = false ∧ ¬ steady))) ∧
        (F.damped = false → steady → G.damped = false ∧ G.engaged = F.engaged ∧ G.win = F.win) ∧
        (F.damped = false → ¬ steady → G.damped = true ∧ G.engaged = F.engaged + 1 ∧ G.win = F.win ∧ capped) ∧
        (F.damped = true → G.win = F.win + 1 ∧ G.engaged = F.engaged ∧
          ((steady ∧ ∀ p, ¬ low p) → F.good + 1 = cfg.1 → G.damped = false) ∧
          ((¬ steady ∨ ∃ p, low p) → 0 < cfg.1 → G.damped = true ∧ G.good = 0 ∧ capped) ∧
          ((steady ∧ ∀ p, ¬ low p) → F.good + 1 ≠ cfg.1 → G.damped = true ∧ G.good = F.good + 1 ∧ capped)))) ∧
    (F.railTo = none → exec (.flrailStepDone f) s = .next (s.setFlue f fun x => x)) ∧
    (F.railTo = some n → ∃ t, exec (.flrailStepDone f) s = .next t ∧
      let G := t.flue f
      G.railState = n ∧ G.railReq = F.railReq ∧ G.cls = F.cls ∧
      G.railTo = (if n < F.railReq then some (n + 1) else if F.railReq < n then some (n - 1) else none) ∧
      (n = 0 → G.held = false) ∧ (n = 1 → G.held = F.held) ∧
      (n = 2 → G.held = true ∧ G.read 0x120 = 0 ∧ G.read 0x121 = 0x4080F ∧ G.read 0x122 = 0 ∧ G.read 0x123 = 0) ∧
      (n ≠ 2 → { G with railState := F.railState, railTo := F.railTo, held := F.held, since := F.since } = F) ∧
      (n = 0 → G.since = s.ticks / 128) ∧ t.h = s.h ∧ t.mem = s.mem) ∧
    exec (.clusterClockStopDone die clu) s = .next (s.setCluster die clu fun x =>
      if x.clock = .stopping then { x with clock := .off } else x) ∧
    ((s.cluster die clu).clock ≠ .starting → exec (.clusterClockRestartDone die clu) s = .next s) ∧
    ((s.cluster die clu).clock = .starting → ∃ t, exec (.clusterClockRestartDone die clu) s = .next t ∧
      t.cluster die clu = { s.cluster die clu with clock := .on } ∧
      { t with cores := s.cores, clusters := s.clusters, cmds := s.cmds, freeCount := s.freeCount } = s ∧
      t.cmds.length = s.cmds.length ∧ (∀ c ∈ s.cmds, ¬ owed c → c ∈ t.cmds) ∧
      (∀ c ∈ s.cmds, owed c → ∃ de < 2 ^ 32, { c with record := some (recordWord de 1 1 c.ticket) } ∈ t.cmds) ∧
      ∀ j, t.core j = if j.dm = false ∧ j.die = die ∧ j.clu = clu then { s.core j with level := 0 } else s.core j)

/-- R218, R301 to R306, R308, R343: what a scrub does to a line of this package by what it finds, the fault queue where it is full
included, a bit that flips in storage
or in a scratchpad (one that the line's coding does not have flips nothing), a sample of a layer's temperature, and a crossing
of an SRAM monitor, which raises its domain's voltage by a step. That these act as events, on lines and samples that the
package has, is the model's choice (log 70), as is what a shut-down leaves (log 58). -/
def Obligations.StorageSteps : Prop :=
  ∀ (s : State) (line b die u stack layer temp dom : Nat),
    let L := s.mem.line line
    let own : Prop := pkgOf (line * 64) = s.pkg ∧ controllerOf (line * 64 % 2 ^ 42) = some (die, u)
    let C := (s.die die).ctl[u]?
    let changes (i : Instr) (p : State → Prop) : Prop := ∃ t, exec i s = .next t ∧ { t with mem := s.mem, dies := s.dies } = s ∧ p t
    let pad : Prop := ∃ D < 4, ∃ c < 16, ∃ w < 48, ∃ o < 2 ^ 18, line * 64 = spadKey D c w o
    let parity := nth [0, 16, 16, 16, 8, 8, 16, 0, 0, 24] L.tag 0
    let sensed : Prop := stack < 12 ∧ layer ≤ 20
    let st := (((s.die (stack / 3)).ctl[stack % 3]?).getD MemCtl.reset).tState
    let st' := if 95 ≤ temp then 2 else if st = 2 then (if 92 < temp then 2 else 1) else
      if 85 ≤ temp then 1 else if st = 1 ∧ 82 < temp then 1 else 0
    let queued (c : MemCtl) (cls : Nat) : MemCtl :=
      if c.queue.length < 64 then { c with queue := c.queue ++ [BitVec.ofNat 64 (2 ^ 63 + line * 2 ^ 6 + cls * 2 ^ 4 + 1)] }
      else { c with ovf := true }
    (s.WellKept → own → (L.flips = [] ∧ L.marked = false) ∨ (L.severity = 0 ∧ badSymbols L = []) → changes (.scrub line) fun t =>
      t.dies = s.dies ∧ t.mem.cells = s.mem.cells ∧ t.mem.line line = { L with corr := 0 } ∧
      ∀ j, j ≠ line → t.mem.line j = s.mem.line j) ∧
    (∀ c, s.WellKept → own → C = some c → (L.flips ≠ [] ∨ L.marked = true) → L.severity ≠ 0 →
      changes (.scrub line) fun t => t.mem.cells = s.mem.cells ∧ t.mem.line line = { L with corr := 0 } ∧
        (t.die die).ctl[u]? = some (queued { c with
          sev1 := if L.severity = 1 then c.sev1 + 1 else c.sev1
          sev2 := if L.severity = 2 then c.sev2 + 1 else c.sev2 } L.severity)) ∧
    (∀ c, s.WellKept → own → C = some c → L.severity = 0 → (badSymbols L).length = 1 →
      changes (.scrub line) fun t =>
        (let c' : MemCtl := { c with corr := c.corr + 1 }
         (t.die die).ctl[u]? = some (if L.corr + 1 = 16 then queued c' 0 else c')) ∧
        (t.mem.line line).corr = 0 ∧ (t.mem.line line).tag = L.tag ∧ badSymbols (t.mem.line line) = [] ∧
        (∀ x ∈ (t.mem.line line).flips, x ∈ L.flips) ∧ ∀ a, a / 64 ≠ line → cellGet t.mem.cells a = cellGet s.mem.cells a) ∧
    (own ∨ pad → 544 + parity ≤ b → exec (.storageBitError line [b]) s = .next s) ∧
    (s.WellKept → own ∨ pad → b < 544 + parity → changes (.storageBitError line [b]) fun t =>
      t.dies = s.dies ∧ (∀ a, cellGet t.mem.cells a =
        if b < 512 ∧ a = line * 64 + b / 8 then cellGet s.mem.cells a ^^^ BitVec.ofNat 8 (2 ^ (b % 8)) else cellGet s.mem.cells a) ∧
      (L.flips.Nodup → ∀ x, x ∈ (t.mem.line line).flips ↔ (x ∈ L.flips ∧ x ≠ b) ∨ (x ∉ L.flips ∧ x = b)) ∧
      ∀ j, j ≠ line → t.mem.line j = s.mem.line j) ∧
    (¬ (pkgOf (line * 64) = s.pkg ∧ inMemory (line * 64 % 2 ^ 42) = true) →
      exec (.scrub line) s = .next s ∧ (¬ pad → exec (.storageBitError line [b]) s = .next s)) ∧
    (sensed → temp < 105 → exec (.thermalSample stack layer temp) s = .next
      (s.setCtl (stack / 3) (stack % 3) fun c => { c with tState := st', tLayer := layer, tTemp := temp })) ∧
    (sensed → 105 ≤ temp → temp < 256 → s.agenda = [] → ∃ t, exec (.thermalSample stack layer temp) s = .next t ∧ t.shut = true ∧
      step t = .fault .shutDown ∧ ∀ a, inMemory a = true → cellGet t.mem.cells (s.pkg * 2 ^ 42 + a) = 0) ∧
    (∀ D, D < 4 → ∃ t, exec (.sramMonitorCrossing D dom) s = .next t ∧ { t with dies := s.dies } = s ∧
      t.die D = { s.die D with
        uvpin := (s.die D).uvpin ||| BitVec.ofNat 17 (2 ^ dom)
        sram := (s.die D).sram.setIfInBounds dom (((s.die D).sram[dom]?).getD 0 + 1)
        pinned := (s.die D).pinned.setIfInBounds dom (((s.die D).sram[dom]?).getD 0 + 1) } ∧ ∀ e, e ≠ D → t.die e = s.die e)

/-! ### Scheduling, the host and the fabric -/

/-- R35, R179, R262, R263, R266, R271 to R273, R323, R324, R330: a scheduler's step makes at most one gang resident and does nothing
where there is nothing to place. Where the module holds no gang and one launch stands at the head of an enabled queue, its
waits satisfied, the step takes the next gang to the first open cluster: quad rows on the lowest flues, each member in the
lowest free slot of its position's core with the lowest lane groups, started as R35 says, with `SPPART` and `NBAR` of the
lowest offset and counters; the pointer of its priority moves to the queue and its waits are consumed. A launch completes once
its last gang has left, its engines are done and its grove is closed, with its word (DONE, or FAILED, PARTIAL or CANCELLED with its
reason and the retired bitmap, here one that lies in one page), its events and its counters; a felled
member's page list returns; a grove closes. That these act as events is the model's choice (log 70), as are how the scheduler
finds its candidates (logs 31 to 37), what engines hold back (log 38) and how pages return (log 56). -/
def Obligations.SchedulingSteps : Prop :=
  ∀ (s : State) (die slot i clu : Nat) (q : Nat) (l : Launch) (line : QLine) (g : Grove) (m : Member) (x : Xlat) (u : State),
    let lives (y : Gang) : Prop := y.resident = true ∧ ¬ ∃ z ∈ s.gangs, z.id = y.id ∧ z.resident = true
    let ended := (l.left.filter fun p => p.2 == Leave.ended).length
    let fellN := (l.left.filter fun p => p.2 == Leave.felled).length
    let word : Word := BitVec.ofNat 64 (fellN * 2 ^ 32 + ended * 2 ^ 16 + 2 ^ 8 + l.flags.toNat)
    let whole : Prop := l.left.length = l.record.ctl.toNat % 2 ^ 16 ∧
      (∀ y ∈ s.cmds, y.launch = some l.id → y.eng = 5 ∨ y.record.isSome = true) ∧
      (l.closed = true ∨ ∀ p, l.grove = some p → p.1 ∈ s.unreachable)
    let local' : Prop := ∀ r ∈ s.remoteLists, ¬ (r.slot = slot ∧ r.member = i)
    let R := l.record
    let per := min 4 (8 / R.ngrp)
    let alone : Prop := s.gangs = [] ∧ s.launches = [l] ∧ l.die = die ∧ die < 4 ∧ l.queue = q ∧ q < 64 ∧ l.prio = line.prio ∧ l.prio < 8 ∧
      (s.die die).headLaunch[q]? = some (some l.id) ∧ (∀ j, j ≠ q → (s.die die).headLaunch[j]? ≠ some (some l.id)) ∧
      (s.die die).journal.isSome = true ∧ s.qline die q = (some line, s) ∧ line.en = true ∧ line.bad s.pkg = false ∧
      line.tail = line.head + ((s.die die).waiting q).length ∧ line.head < line.tail ∧ line.cancel < 2 ^ 63 ∧
      (s.die die).hostTails = [] ∧ ∀ j < 64, j ≠ q → ∃ y, s.qline die j = (some y, s) ∧ y.en = false ∧ y.cancel < 2 ^ 63
    let ready : Prop := l.left = [] ∧ l.reason = 0 ∧ l.cancelled = false ∧ l.next < R.ngang ∧ R.groveN = 0 ∧ l.grove = none ∧
      R.pack = false ∧ R.spad ≤ 64 ∧ R.nbar ≤ 64 ∧
      (l.placedAny = true ∨ ∀ e ∈ R.waits, R.waits.count e ≤ (s.die die).eventCount e)
    let empty : Prop := clu < 16 ∧ (∀ c < clu, (s.cluster die c).close = true) ∧ (s.cluster die clu).close = false ∧
      (s.cluster die clu).sleep = false ∧ (s.cluster die clu).clock = .on ∧
      (∀ h ∈ s.h :: s.others, h.run = .running → h.key.dm = true) ∧
      (∀ c < 48, (s.core (coreKey die clu c)).lgoff = 0 ∧ ∀ k < 8, (s.core (coreKey die clu c)).lprCur.toNat / 16 ^ k % 16 < 8) ∧
      (∀ f < 12, (s.flue ⟨die, clu, f⟩).railState = 0 ∧ (s.flue ⟨die, clu, f⟩).railReq = 0 ∧
        (s.flue ⟨die, clu, f⟩).railTo = none) ∧
      ∀ j < 64, ∃ y, (s.cluster die clu).counters[j]? = some y ∧ y.owner = none
    let place (n : Nat) : HartKey := ⟨false, die, clu, 4 * (n / 4 / per) + n % 4, n / 4 % per⟩
    let finishes : Prop := (l.reason = 1 ∨ l.reason = 2 ∨ (l.reason = 0 ∧ if l.cancelled then ∀ y ∈ s.gangs, y.launch ≠ l.id
        else l.left.length = l.record.ctl.toNat % 2 ^ 16)) ∧
      (∀ y ∈ s.cmds, y.launch = some l.id → y.eng = 5 ∨ y.record.isSome = true) ∧
      (l.closed = true ∨ ∀ p, l.grove = some p → p.1 ∈ s.unreachable)
    let fails (g r : Nat) : Prop := (g, Leave.failed r) ∈ l.left
    let outcome (st re : Nat) : Prop :=
      (st = 3 ∧ l.reason ≠ 0 ∧ re = l.reason) ∨
      (st = 3 ∧ l.reason = 0 ∧ ∃ g, fails g re ∧ ∀ h r, fails h r → g ≤ h) ∨
      (st = 2 ∧ re = 5 ∧ l.reason = 0 ∧ (∀ g r, ¬ fails g r) ∧ ∃ g, (g, Leave.killed) ∈ l.left) ∨
      (st = 4 ∧ re = 0 ∧ l.reason = 0 ∧ l.cancelled = true ∧ (∀ g r, ¬ fails g r) ∧ ∀ g, (g, Leave.killed) ∉ l.left)
    let lostN := (l.left.filter fun p => p.2 != Leave.ended && p.2 != Leave.felled && p.2 != Leave.cancelled).length
    let bits := toBytes (8 * ((l.record.ctl.toNat % 2 ^ 16 + 63) / 64))
      ((l.left.filter fun p => p.2 == Leave.ended || p.2 == Leave.felled).map fun p => 2 ^ p.1).sum
    let good : Prop := l.reason = 0 ∧ l.cancelled = false ∧ ∀ p ∈ l.left, p.2 = Leave.ended ∨ p.2 = Leave.felled
    let J := (s.die l.die).journal
    let holder (y : Launch) : Prop := ∃ first, y.grove = some (s.pkg, slot, first) ∧ first ≤ i ∧
      i < first + y.record.ctl.toNat % 2 ^ 16
    (∃ t, exec (.schedulerStep die) s = .next t ∧ ∀ a ∈ t.gangs, ∀ b ∈ t.gangs, lives a → lives b → a.id = b.id) ∧
    ((s.die die).journal = none → (∀ q < 64, (s.die die).headLaunch[q]? = some none) → s.gangs = [] →
      exec (.schedulerStep die) s = .next s) ∧
    (alone → ready → empty → ∃ t y, exec (.schedulerStep die) s = .next t ∧ t.h = s.h ∧
      t.gangs = [y] ∧ y.resident = true ∧ y.launch = l.id ∧ y.idx = l.next ∧ y.die = die ∧ y.clu = clu ∧ y.cls = R.cls ∧
      (t.die die).pointers[l.prio]? = some q ∧
      (l.placedAny = false → ∀ e < 256, (t.die die).eventCount e = (s.die die).eventCount e - R.waits.count e) ∧
      ∀ n < R.nhart, ∃ h ∈ t.others, h.key = place n ∧ h.gang = some y.id ∧ h.member = n ∧ h.gangSize = R.nhart ∧ h.gangIdx = l.next ∧
        h.run = .running ∧ h.priv = false ∧ h.pc = R.entry ∧ h.x = (Vector.replicate 32 (0 : Word)).set 3 R.args ∧
        h.tvec = R.tvec &&& ~~~3 ∧ h.yld = R.yld ∧ h.ptroot = l.ptroot ∧ h.asid = l.asid ∧ h.nbar.toNat = 2 ^ R.nbar - 1 ∧
        field h.sppart 48 7 = R.spad ∧ field h.sppart 56 6 = 0 ∧
        (∀ c < 48, h.sppart.getLsbD c = true ↔ ∃ n' < R.nhart, (place n').core = c) ∧
        t.groups h.key = (List.range R.ngrp).map (R.ngrp * (n / 4 % per) + ·)) ∧
    (s.launchOf l.id = some l → ¬ whole → l.reason = 0 → l.cancelled = false → exec (.launchCompletion l.id) s = .next s) ∧
    (s.launchOf l.id = some l → whole → good → ∃ t, exec (.launchCompletion l.id) s = .next t ∧ t.h = s.h ∧ t.others = s.others ∧
      t.gangs = s.gangs ∧ t.launches = s.launches.filter (fun y => y.id != l.id) ∧
      (∀ D c j, j < 64 → (t.cluster D c).counters[j]? = ((s.cluster D c).counters[j]?).map fun y =>
        if y.owner = some l.id then ⟨0, 0, 0, none⟩ else y) ∧
      (l.die < 4 → ∀ e < 256, (t.die l.die).eventCount e =
        min ((s.die l.die).eventCount e + l.record.signals.count e) (2 ^ 32 - 1))) ∧
    (s.launchOf l.id = some l → whole → good → s.WellKept → l.ptroot ≠ 0 → l.record.done.toNat % 8 = 0 →
      (agentXlat (l.ctx l.die) l.record.done .store 3).on s = (.ok x, u) → u.reachable l.die x.key = true → x.mir = false →
      x.key % 8 = 0 → (∀ base lg, J = some (base, lg) → x.key / 64 ≠
        (s.pkg * 2 ^ 42 + (base + 64 + 32 * (l.seq.toNat % 2 ^ lg) + 24) % 2 ^ 42) / 64) →
      ∃ t, exec (.launchCompletion l.id) s = .next t ∧ t.mem.bytes x.key 8 = toBytes 8 word.toNat) ∧
    (∀ (st re : Nat) (y : Xlat) (v : State), s.launchOf l.id = some l → finishes → (l.left.map Prod.fst).Nodup → outcome st re → s.WellKept →
      l.ptroot ≠ 0 → l.record.save.toNat % 64 = 0 → l.record.save.toNat % 4096 + bits.length ≤ 4096 → bits ≠ [] →
      (agentXlat (l.ctx l.die) l.record.save .store 3).on s = (.ok y, v) → v.reachable l.die y.key = true → y.mir = false → y.key % 64 = 0 →
      let w := v.writeAt y.key bits (some y.nl)
      l.record.done.toNat % 8 = 0 → (agentXlat (l.ctx l.die) l.record.done .store 3).on w = (.ok x, u) →
      u.reachable l.die x.key = true → x.mir = false → x.key % 8 = 0 →
      let entry (k : Nat) : Prop := ∃ base lg, J = some (base, lg) ∧
        k / 64 = (s.pkg * 2 ^ 42 + (base + 64 + 32 * (l.seq.toNat % 2 ^ lg) + 24) % 2 ^ 42) / 64
      ¬ entry x.key → ∃ t, exec (.launchCompletion l.id) s = .next t ∧ t.launches = s.launches.filter (fun y => y.id != l.id) ∧
        t.mem.bytes x.key 8 = toBytes 8
          (lostN * 2 ^ 48 + fellN * 2 ^ 32 + ended * 2 ^ 16 + re * 2 ^ 11 + st * 2 ^ 8 + l.flags.toNat) ∧
        ∀ i < bits.length, ¬ entry (y.key + i) → (y.key + i) / 64 ≠ x.key / 64 →
          cellGet u.mem.cells (y.key + i) = cellGet w.mem.cells (y.key + i) → cellGet t.mem.cells (y.key + i) = bits.getD i 0) ∧
    (s.groveAt slot = some g → local' → g.members[i]? = some m → l ∈ s.launches → holder l → (∀ y ∈ s.launches, holder y → y = l) →
      ((m.felled = false ∨ m.gone = false ∨ m.returned = true ∨ m.priv = none) → exec (.pageListReturn slot i) s = .next s) ∧
      (m.felled = true → m.gone = true → m.returned = false → m.priv.isSome = true → m.gang = none →
        ∃ t h, exec (.pageListReturn slot i) s = .next t ∧ t.h = s.h ∧ t.launches = s.launches ∧ t.groveAt slot = some h ∧
          h.members = g.members.set i { m with returned := true } ∧ g.returned + g.notReturned ≤ h.returned + h.notReturned ∧
          h.returned + h.notReturned ≤ g.returned + g.notReturned + 512)) ∧
    (s.groveAt slot = some g →
      ((∃ j < g.n, j ∉ g.felled ∧ ∃ y, g.members[j]? = some y ∧ y.gone = false) → exec (.groveClose slot) s = .next s) ∧
      ((∀ y ∈ g.members, y.gone = true ∧ (y.priv = none ∨ y.felled = false ∨ y.returned = true)) →
        ∃ t, exec (.groveClose slot) s = .next t ∧ t.h = s.h ∧ t.groveAt slot = none ∧
          (t.launches = s.launches.map fun y => { y with
            closed := y.closed || (y.grove.map fun p => (p.1, p.2.1)) == some (s.pkg, slot) }) ∧
          ∀ z, z ≠ slot → t.groveAt z = s.groveAt z)) ∧
    (s.groveAt slot = none → local' → exec (.groveClose slot) s = .next s ∧ exec (.pageListReturn slot i) s = .next s)

/-- R303, R307, R328 to R330, R332, R337 to R340: what the host writes, a module reset, the messages as firmware answers them, and
the reports that reach the inbox. A write of the host channel's `TAIL` has the mailbox take the message where it has room and
an inbox: `HEAD` rises, the inbox entry is written, `MBXTAIL` rises, and the die manager core sees `EVENT.WAKE`. A link
without 256-byte flits carries no host write. A cancel request is served once its journal entry has room, and waits with `REQ`
set till then. That these act as events is the model's choice (log 70), as are what a reset
leaves (log 5), what firmware checks (log 57), the `DETAIL` of a message that is refused (log 18) and how a cancel request is
served (log 37). -/
def Obligations.HostSteps : Prop :=
  ∀ (s : State) (die q pa : Nat) (bytes : List Byte) (tail seq : Word) (m : Message) (pre post : List Message)
    (status : BitVec 8) (detail : BitVec 32) (l : Launch),
    let D := s.die die
    let line := D.qcbase.toNat / 2 ^ 12 * 2 ^ 12 + 64 * q
    let own (a : Nat) : Nat := s.pkg * 2 ^ 42 + a
    let fine (a : Nat) : Prop := s.WellKept ∧ a % 8 = 0 ∧ a < 2 ^ 42 ∧ inMemory a = true ∧ s.reachable die (own a) = true ∧
      s.mem.intact (own a / 64)
    let stores (i : Instr) (a : Nat) (v : Nat) : Prop := ∃ t, exec i s = .next t ∧ { t with mem := s.mem } = s ∧
      t.mem.bytes (own a) 8 = toBytes 8 v ∧ ∀ k, (k < own a ∨ own a + 8 ≤ k) → cellGet t.mem.cells k = cellGet s.mem.cells k
    let waits (y : Message) : Prop := y.seq.isSome = true ∧ y.answered = false
    let oldest (p : Nat → Prop) : Prop := D.messages = pre ++ m :: post ∧ waits m ∧ p (m.word0.toNat % 256) ∧
      ∀ y ∈ pre, ¬ (waits y ∧ p (y.word0.toNat % 256))
    let answers (i : Instr) (st de : Nat) (also : State → Prop) : Prop := ∃ t, exec i s = .next t ∧
      { m with answered := true } ∈ (t.die die).messages ∧ also t ∧ (m.src ≠ 1 → t.cmds = s.cmds.map fun y =>
        if y.uid = m.uid ∧ y.eng = 5 ∧ y.ticket = m.ticket ∧ y.record = none then { y with record := some (recordWord de 5 st m.ticket) }
        else y)
    let denies (i : Instr) (st : Nat) : Prop := ∃ de < 2 ^ 32, answers i st de fun t => t.badPages = s.badPages ∧ t.keys = s.keys
    let trusted : Prop := m.src = 1 ∨ m.priv = true
    let A := m.word1.toNat % 2 ^ 42
    let reports (i : Instr) (c : Nat) : Prop :=
      ((∀ y ∈ D.reports, y.word0.toNat % 256 ≠ c) ∨ D.hasRoom = false → exec i s = .next s) ∧
      (∀ base lg, D.reports = pre ++ m :: post → m.word0.toNat % 256 = c → (∀ y ∈ pre, y.word0.toNat % 256 ≠ c) →
        D.hasRoom = true → D.inbox = some (base, lg) → die < 4 → s.WellKept → base + 32 * 2 ^ lg ≤ 2 ^ 42 → base % 64 = 0 →
        ∃ t, exec i s = .next t ∧ (t.die die).mbxtail = D.mbxtail + 1 ∧ (t.die die).reports = D.reports.erase m ∧
          (let a := own (base + 32 * (D.mbxtail.toNat % 2 ^ lg))
           t.mem.bytes a 8 = toBytes 8 (D.mbxtail.toNat + m.src * 2 ^ 32) ∧
           t.mem.bytes (a + 8) 8 = toBytes 8 (m.hartid.toNat + m.ticket.toNat * 2 ^ 32) ∧
           t.mem.bytes (a + 16) 8 = toBytes 8 m.word0.toNat ∧ t.mem.bytes (a + 24) 8 = toBytes 8 m.word1.toNat) ∧
          (s.h.at (dmKey die) = true → t.h = { s.h with event := s.h.event ||| 4 }))
    let live (y : Launch) : Prop := y.die = die ∧ y.queue = q ∧ y.seq.toNat = seq.toNat % 2 ^ 63 ∧ y.reason = 0 ∧
      (y.cancelled = false → y.left.length ≠ y.record.ctl.toNat % 2 ^ 16) ∧
      (y.cancelled = true → ∃ g ∈ s.gangs, g.launch = y.id)
    let word (a : Nat) : Nat := ofBytes (s.mem.bytes (own a) 8)
    let chan := D.qcbase.toNat / 2 ^ 12 * 2 ^ 12 + 4096
    let head := word (chan + 8)
    let lg := word (chan + 24) % 16
    let slot := word (chan + 16) + 16 * (head % 2 ^ lg)
    (s.cxl256 = false → ∀ i ∈ [Instr.hostQueueTailWrite die q tail, .hostCancelRequest die q seq, .hostMailboxWrite die tail,
      .hostMemWrite pa bytes], exec i s = .next s) ∧
    (s.cxl256 = true →
      (D.journal = none → fine line → stores (.hostQueueTailWrite die q tail) line tail.toNat) ∧
      (D.journal = none → fine (line + 40) →
        stores (.hostCancelRequest die q seq) (line + 40) (2 ^ 63 + seq.toNat % 2 ^ 63)) ∧
      (∀ base jlg, D.journal = some (base, jlg) → l ∈ s.launches → live l → (∀ y ∈ s.launches, (live y ∨ y.id = l.id) → y = l) →
        let entry := base + 64 + 32 * (word base % 2 ^ jlg)
        fine (line + 40) → fine base → fine (entry + 24) → line / 64 ≠ base / 64 → line / 64 ≠ (entry + 24) / 64 → line + 64 ≤ 2 ^ 42 →
        (word (entry + 24) / 2 ^ 8 % 8 ∉ [5, 6] →
          ∃ t, exec (.hostCancelRequest die q seq) s = .next t ∧ (∃ y ∈ t.launches, y.id = l.id ∧ y.cancelled = true) ∧
            ∀ g ∈ t.gangs, g.launch = l.id → g.resident = true ∧ g.leave.isSome = true) ∧
        (word (entry + 24) / 2 ^ 8 % 8 ∈ [5, 6] →
          stores (.hostCancelRequest die q seq) (line + 40) (2 ^ 63 + seq.toNat % 2 ^ 63))) ∧
      (∃ t, exec (.hostMailboxWrite die tail) s = .next t ∧ t.h.pc = s.h.pc ∧ t.h.x = s.h.x ∧ t.launches = s.launches ∧
        t.gangs = s.gangs ∧ t.cores = s.cores) ∧
      (fine chan → word (chan + 24) / 2 ^ 8 % 2 = 0 → stores (.hostMailboxWrite die tail) chan tail.toNat) ∧
      (∀ base ilg, fine chan → 3 ≤ lg → lg ≤ 10 → word (chan + 24) = 2 ^ 8 + lg → tail.toNat = head + 1 → fine slot →
        slot % 16 = 0 → slot / 64 ≠ chan / 64 → die < 4 → D.reports = [] → D.messages = [] → D.inbox = some (base, ilg) →
        D.hasRoom = true → base % 64 = 0 → base + 32 * 2 ^ ilg ≤ 2 ^ 42 →
        let e := base + 32 * (D.mbxtail.toNat % 2 ^ ilg)
        e / 64 ≠ chan / 64 →
        ∃ t, exec (.hostMailboxWrite die tail) s = .next t ∧ t.mem.bytes (own (chan + 8)) 8 = toBytes 8 (head + 1) ∧
          (t.die die).messages = [⟨1, 0, 0, BitVec.ofNat 16 head, BitVec.ofNat 64 (word slot), BitVec.ofNat 64 (word (slot + 8)),
            true, some D.mbxtail.toNat, false⟩] ∧
          t.mem.bytes (own e) 32 = toBytes 8 (D.mbxtail.toNat + 2 ^ 32) ++ toBytes 8 (head % 2 ^ 16 * 2 ^ 32) ++
            toBytes 8 (word slot) ++ toBytes 8 (word (slot + 8)) ∧
          (t.die die).mbxtail = D.mbxtail + 1 ∧
          (s.h.at (dmKey die) = true → t.h = { s.h with event := s.h.event ||| 4 })) ∧
      (bytes ≠ [] → (∀ a, pa ≤ a → a < pa + bytes.length → inMemory a = true) → (∀ d < 4, (s.die d).journal = none) →
        s.WellKept → (∀ a, pa ≤ a → a < pa + bytes.length → s.mem.intact (own a / 64)) →
        ∃ t, exec (.hostMemWrite pa bytes) s = .next t ∧ { t with mem := s.mem } = s ∧ ∀ k, cellGet t.mem.cells k =
          if own pa ≤ k ∧ k < own pa + bytes.length then bytes.getD (k - own pa) 0 else cellGet s.mem.cells k) ∧
      (bytes = [] ∨ inMemory pa = false → exec (.hostMemWrite pa bytes) s = .next s)) ∧
    (∃ t, exec .moduleReset s = .next t ∧ t.h = State.reset.h ∧ t.others = State.reset.others ∧ t.dies = State.reset.dies ∧
      t.cores = [] ∧ t.clusters = [] ∧ t.flues = [] ∧ t.launches = [] ∧ t.gangs = [] ∧ t.groves = [] ∧ t.cmds = [] ∧
      t.keys = State.reset.keys ∧ t.shut = false ∧ t.badPages = s.badPages ∧ t.pkg = s.pkg ∧
      t.fabSize = s.fabSize ∧ t.caphead = s.caphead ∧
      (∀ a, inMemory a = true → cellGet t.mem.cells (own a) = 0) ∧ ∀ a, spadBase ≤ a → cellGet t.mem.cells a = 0) ∧
    (oldest (fun c => c = 1) →
      (m.word0.toNat < 256 → answers (.ping die) 0 (m.word1.toNat % 2 ^ 32) fun _ => True) ∧
      (256 ≤ m.word0.toNat → denies (.ping die) 1)) ∧
    (oldest (fun c => c = 2) →
      ((256 ≤ m.word0.toNat ∨ m.word1.toNat / 2 ^ 54 % 2 ^ 9 ≠ 0 ∨ m.word1.toNat / 2 ^ 4 % 2 ^ 8 ≠ 0) → denies (.retire die) 1) ∧
      (m.word0.toNat < 256 → m.word1.toNat / 2 ^ 54 % 2 ^ 9 = 0 → m.word1.toNat / 2 ^ 4 % 2 ^ 8 = 0 →
        (¬ trusted → denies (.retire die) 10) ∧
        (trusted → s.badPages.length < 4096 → answers (.retire die) 0 (s.badPages.length + 1) fun t =>
          t.badPages = s.badPages ++ [m.word1]) ∧
        (trusted → 4096 ≤ s.badPages.length → answers (.retire die) 0 (2 ^ 32 - 1) fun t => t.badPages = s.badPages))) ∧
    (oldest (fun c => c = 3) →
      ((m.word0.toNat / 2 ^ 8 % 2 ^ 8 ≠ 0 ∨ 2 ^ 19 ≤ m.word0.toNat) → denies (.keyload die) 1) ∧
      (m.word0.toNat / 2 ^ 8 % 2 ^ 8 = 0 → m.word0.toNat < 2 ^ 19 →
        (m.src ≠ 1 ∨ s.attested = false → denies (.keyload die) 10) ∧
        (m.src = 1 → s.attested = true → inMemory A = false → denies (.keyload die) 2) ∧
        (m.src = 1 → s.attested = true → inMemory A = true → inMemory (A + 15) = true → (∀ j < 16, s.mem.intact (own (A + j) / 64)) →
          answers (.keyload die) 0 0 fun t => t.keys = s.keys.setIfInBounds (m.word0.toNat / 2 ^ 16)
            (some (BitVec.ofNat 128 (ofBytes (s.mem.bytes (own A) 16))))))) ∧
    (oldest (fun c => c = 0 ∨ 4 ≤ c) →
      (128 ≤ m.word0.toNat % 256 → m.word0.toNat / 2 ^ 8 % 2 ^ 8 = 0 →
        answers (.firmwareMessage die status detail) status.toNat detail.toNat fun _ => True) ∧
      (m.word0.toNat % 256 < 128 ∨ m.word0.toNat / 2 ^ 8 % 2 ^ 8 ≠ 0 → denies (.firmwareMessage die status detail) 1)) ∧
    ((∀ y ∈ D.messages, ¬ waits y) → ∀ i ∈ [Instr.ping die, .retire die, .keyload die, .firmwareMessage die status detail],
      exec i s = .next s) ∧
    reports (.doubleTrapReport die) 1 ∧ reports (.linkKillReport die) 2

/-- R144, R151, R274, R316, R328, R345, R347, R354, R355: links that fail and train, packages that stop answering and answer
again, and requests that other packages send here: reads, writes with and without the mark of a poisoned store, atomics,
scatter-add updates, posts, page lists and joins. That these act as events is the model's choice (log 70), as are which gangs
a failed link kills (log 25), which members stand on a lost package (log 23) and that requests are served at once (log 68). -/
def Obligations.FabricSteps : Prop :=
  ∀ (s : State) (p d e die a n slot i rank N root : Nat) (bytes : List Byte) (nl : BitVec 4) (flits : Bool) (v c tag w0 : Word)
    (list : List Nat) (g : Grove),
    let own (x : Nat) : Nat := s.pkg * 2 ^ 42 + x
    let fine (x : Nat) : Prop := inMemory x = true ∧ s.mem.intact (own x / 64)
    let arrives (r : FabricRequest) (p : State → Prop) : Prop := ∃ t, exec (.fabricRequestArrival r) s = .next t ∧ p t
    let writes (r : FabricRequest) (x : Nat) (bs : List Byte) (bad : Bool) : Prop := arrives r fun t => { t with mem := s.mem } = s ∧
      (∀ k, cellGet t.mem.cells k = if own x ≤ k ∧ k < own x + bs.length then bs.getD (k - own x) 0 else cellGet s.mem.cells k) ∧
      ∀ k, own x ≤ k → k < own x + bs.length → (t.mem.line (k / 64)).tag = nl.toNat ∧ (t.mem.line (k / 64)).marked = bad
    (p < 18 →
      (∃ t, exec (.portLinkFail p) s = .next t ∧ { t with fabUp := s.fabUp } = s ∧
        ∀ j, t.fabUp.getLsbD j = (s.fabUp.getLsbD j && j != p)) ∧
      (∃ t, exec (.fabricPortTrained p) s = .next t ∧ { t with fabUp := s.fabUp } = s ∧
        ∀ j < 18, t.fabUp.getLsbD j = (s.fabUp.getLsbD j || j == p))) ∧
    exec (.cxlLinkTrained flits) s = .next { s with cxl256 := flits } ∧
    exec (.packageUnreachable s.pkg) s = .next s ∧
    (p ≠ s.pkg → ∃ t, exec (.packageUnreachable p) s = .next t ∧ (∀ x, x ∈ t.unreachable ↔ x = p ∨ x ∈ s.unreachable) ∧
      (∀ k, k < spadBase → pkgOf k = p → t.reachable die k = false) ∧ (s.groves = [] → { t with unreachable := s.unreachable } = s)) ∧
    (p ≠ s.pkg → ∃ t, exec (.pathAnswersAgain p) s = .next t ∧ { t with unreachable := s.unreachable } = s ∧
      (∀ x, x ∈ t.unreachable ↔ x ≠ p ∧ x ∈ s.unreachable) ∧ ∀ k, pkgOf k = p → t.reachable die k = true) ∧
    (d < 4 → e < 4 → d ≠ e → ∃ t, exec (.dieLinkFail d e) s = .next t ∧
      (∀ k u, k < spadBase → pkgOf k = s.pkg →
        (controllerOf (k % 2 ^ 42) = some (e, u) → t.reachable d k = false) ∧
        (controllerOf (k % 2 ^ 42) = some (d, u) → t.reachable e k = false)) ∧
      ∀ y ∈ t.gangs, s.across d e y = true →
        (y.resident = true → y.leave = some .killed) ∧ (y.resident = false → y.deadSpad = true)) ∧
    (¬ (d < 4 ∧ e < 4 ∧ d ≠ e) → exec (.dieLinkFail d e) s = .next s) ∧
    (s.WellKept →
      ((∀ x, a ≤ x → x < a + n → fine x) → 0 < n → n ≤ 64 → arrives (.read a n) fun t => t = s) ∧
      (bytes ≠ [] → (∀ x, a ≤ x → x < a + bytes.length → fine x) → ∀ bad, writes (.write a bytes nl bad) a bytes bad) ∧
      (fine a → a % 8 = 0 →
        let old := ofBytes (s.mem.bytes (own a) 8)
        writes (.atomic 0 a 8 v c nl) a (toBytes 8 v.toNat) false ∧
        writes (.atomic 1 a 8 v c nl) a (toBytes 8 ((old + v.toNat) % 2 ^ 64)) false ∧
        (∀ bad, writes (.update a 8 v none nl bad) a (toBytes 8 ((old + v.toNat) % 2 ^ 64)) bad) ∧
        (old = c.toNat → writes (.atomic 7 a 8 v c nl) a (toBytes 8 v.toNat) false) ∧
        (old ≠ c.toNat → arrives (.atomic 7 a 8 v c nl) fun t => t = s))) ∧
    (inMemory a = false → ∀ r ∈ [FabricRequest.read a n, .write a bytes nl false, .atomic 0 a n v c nl, .update a n v none nl false],
      arrives r fun t => t = s) ∧
    (∀ m, s.groveAt slot = some g → g.winner = none → g.noAnswer = false → g.posts = [] → g.members[i]? = some m →
      m.posted = none → m.left = false → 1 < g.quorum → (g.members.filter fun x => x.posted.isSome || x.left).length + 1 < g.n →
      arrives (.post slot i v) fun t => t = s.setGrove slot fun _ => { g with
        posts := [(v, 1, i)], tot := g.tot + 1, members := g.members.set i { m with posted := some v } }) ∧
    (∀ m, s.groveAt slot = some g → g.winner = none → g.noAnswer = false → g.posts = [] → g.members[i]? = some m → m.left = false →
      (g.members.filter fun x => x.posted.isSome || x.left).length < g.n →
      arrives (.bjoin slot i true v) fun t => t = s.setGrove slot fun _ => { g with shared := some (i, v) }) ∧
    arrives (.join tag rank w0 N root list bytes) fun t =>
      t = { s with joins := s.joins ++ [⟨tag, rank, w0, N, root, list, bytes, none⟩] }

/-! ### Engines -/

/-- R191, R192, R254, R291 to R294, R309 to R311, R335 to R337: what a command of the copy engine, of a gather unit or of the
mark stage does where every access goes through and its cluster's clock runs: the bytes it writes, that it
writes no other, and its record; a key loaded or cleared; the BADCMD record that a push of an opcode no engine knows gives its
command; and how a record reaches the hart's FIFO. No destination byte is a source byte, nor two destinations one. The model's
choices: each command acts in one step of the module (log 70), which copy engine serves a die manager core (log 24), an open
`DETAIL` (log 26), overlap by virtual address (log 29), the hash's message and marks on raw bytes (log 30), the order of
checks (logs 59, 64, 65), the blocks an `SPFILL` installs (log 62), and when an unknown opcode gets its record (log 67). -/
def Obligations.EngineCopies : Prop :=
  ∀ (s : State) (h : HartKey) (c : Cmd) (rest : List Cmd) (ws p : Nat → Word) (y : Gang) (Ks Kd Kl : Word → Nat) (nls nld nll : Nat),
    let N := c.word0.toNat / 2 ^ 32
    let code := c.word0.toNat % 2 ^ 32
    let moves (i : Instr) (R N detail : Nat) (src dst : Nat → Nat → Word) (reads : Nat → Bool) (fn : Nat → Nat → Byte)
        (post : State → Prop) : Prop :=
      let on (j x : Nat) : Prop := j < R ∧ x < N
      let T (k : Nat) : Prop := ∃ j x, on j x ∧ k = Kd (dst j x)
      s.Lets c.ctx .load T Ks nls (fun a => ∃ j x, on j x ∧ reads j = true ∧ a = src j x) →
      s.Lets c.ctx .store T Kd nld (fun a => ∃ j x, on j x ∧ a = dst j x) →
      (∀ j x j' x', on j x → on j' x' → Kd (dst j x) = Kd (dst j' x') → j = j' ∧ x = x') →
      (∀ j x j' x', on j x → on j' x' → reads j = true → Ks (src j x) ≠ Kd (dst j' x') ∧ src j x ≠ dst j' x') →
      s.ends i c rest 0 detail T fun t => post t ∧ ∀ j x, on j x →
        cellGet t.mem.cells (Kd (dst j x)) = if reads j then cellGet s.mem.cells (Ks (src j x)) else fn j x
    let rowsAt (base pitch : Word) (j x : Nat) : Word := base + BitVec.ofNat 64 j * pitch + BitVec.ofNat 64 x
    let always (_ : Nat) : Bool := true
    let never (_ : Nat) : Bool := false
    let R := (ws 3).toNat
    let engineOf (e : Nat) : Prop := s.Next c rest ws ∧ c.key = h ∧ c.eng = e
    let listed (n : Nat) : Prop := (∀ u < N, s.mem.bytes (Kl (ws 0 + BitVec.ofNat 64 (n * u))) n = toBytes n (p u).toNat) ∧
      s.Lets c.ctx .load (fun _ => False) Kl nll (fun a => ∃ u < N, a = ws 0 + BitVec.ofNat 64 (n * u))
    let W := (ws 2).toNat % 2 ^ 16
    let H := (ws 2).toNat / 2 ^ 16
    let B := if code / 2 ^ 8 % 8 = 1 then 2 * W else W
    let slot := code / 2 ^ 12 % 8
    let sends : Prop := engineOf 4 ∧ code % 2 ^ 8 = 1 ∧ code / 2 ^ 11 % 2 = 0 ∧ N = 0 ∧ code < 2 ^ 16 ∧ (ws 2).toNat < 2 ^ 32 ∧
      ws 6 = 0 ∧ ∀ j < H, ∀ x < B, inWindow (rowsAt (ws 0) (ws 3) j x) = false ∧ s.hostKey (Kd (rowsAt (ws 1) (ws 4) j x)) = true
    let alone : Prop := s.WellKept ∧ s.cmds = c :: rest ∧ c ∉ rest ∧ c.record = none ∧ c.key = h ∧
      (s.cluster c.key.die c.key.clu).clock = .on
    let cfg : Prop := alone ∧ c.eng = 4 ∧ c.two = true ∧ c.word0.toNat % 2 ^ 8 = 2 ∧ c.word0.toNat < 2 ^ 12
    let clears : Prop := c.word0.toNat / 2 ^ 11 % 2 = 1
    let K := c.word0.toNat / 2 ^ 8 % 8
    (engineOf 1 → code = 1 → R < 2 ^ 32 → ws 2 = 0 → ws 6 = 0 →
      moves (.copy h) R N 0 (rowsAt (ws 0) (ws 4)) (rowsAt (ws 1) (ws 5)) always (fun _ _ => 0) fun _ => True) ∧
    (engineOf 1 → code = 6 → R < 2 ^ 32 → ws 2 = 0 → ws 4 = 0 → ws 6 = 0 →
      moves (.fill h) R N 0 (rowsAt (ws 0) 0) (rowsAt (ws 1) (ws 5)) never (fun j x =>
        BitVec.ofNat 8 ((ws 0).toNat / 2 ^ (8 * ((rowsAt (ws 1) (ws 5) j x).toNat % 8)))) fun _ => True) ∧
    (engineOf 1 → code = 7 → R = 1 → ws 2 = 0 → ws 6 = 0 → N % 256 = 0 → (ws 0).toNat % 256 = 0 → (ws 1).toNat % 256 = 0 →
      inWindow (ws 1) = true → windowCore (ws 1) < 48 →
      (c.gang = none → moves (.spfill h) 1 N 0 (rowsAt (ws 0) 0) (rowsAt (ws 1) 0) always (fun _ _ => 0) fun t => t.cores = s.cores) ∧
      (let core : CoreKey := ⟨false, c.key.die, c.key.clu, windowCore (ws 1)⟩
       let tags := (s.core core).tags
       N = 256 → c.gang = some y.id → s.gangOf y.id = some y → y.die = c.key.die → y.clu = c.key.clu → y.deadSpad = false →
       y.copied = false → (∃ m ∈ s.members y.id, m.sppart = c.sppart) → canonical (ws 0) = true →
       inPartition c.sppart (windowCore (ws 1)) (windowOff (ws 1)) = true →
       (∀ e ∈ tags, e.set ≠ (ws 0).toNat / 2 ^ 8 % 2 ^ 8) →
       moves (.spfill h) 1 256 1 (rowsAt (ws 0) 0) (rowsAt (ws 1) 0) always (fun _ _ => 0) fun t => (t.core core).tags =
        tags ++ [⟨(ws 0).toNat / 2 ^ 8 % 2 ^ 8, 0, y.id, (ws 0).toNat / 2 ^ 8 % 2 ^ 49, windowOff (ws 1)⟩])) ∧
    (engineOf 2 → code = 1 → listed 8 → 16 ≤ R → R ≤ 65536 → R % 16 = 0 → (ws 1).toNat % 16 = 0 → (ws 2).toNat % 16 = 0 →
      (ws 4).toNat % 16 = 0 → (ws 0).toNat % 8 = 0 → ws 5 = 0 → ws 6 = 0 →
      (∀ u < N, ∀ x < R, inWindow (p u + ws 2 + BitVec.ofNat 64 x) = false) →
      moves (.pgather h) N R (N % 2 ^ 31) (fun u x => p u + ws 2 + BitVec.ofNat 64 x) (rowsAt (ws 1) (ws 4)) (fun u => p u != 0)
        (fun _ _ => 0) fun _ => True) ∧
    (∀ iw ew, engineOf 2 → iw < 3 → ew < 4 → code = 2 + ew * 2 ^ 8 + iw * 2 ^ 12 → listed (2 ^ (iw + 1)) →
      (∀ u < N, (p u).toNat < 2 ^ (8 * 2 ^ (iw + 1)) ∧ (ws 2 + p u).toNat % 2 ^ ew = 0) → (ws 1).toNat % 2 ^ ew = 0 →
      (ws 0).toNat % 2 ^ (iw + 1) = 0 → ws 3 = 0 → ws 4 = 0 → ws 5 = 0 → ws 6 = 0 →
      (∀ u < N, ∀ x < 2 ^ ew, inWindow (ws 2 + p u + BitVec.ofNat 64 x) = false) →
      moves (.igather h) N (2 ^ ew) (N % 2 ^ 31) (fun u x => ws 2 + p u + BitVec.ofNat 64 x)
        (fun u x => ws 1 + BitVec.ofNat 64 (2 ^ ew * u) + BitVec.ofNat 64 x) always (fun _ _ => 0) fun _ => True) ∧
    (sends → code / 2 ^ 8 % 8 ≤ 2 → code / 2 ^ 15 = 0 →
      moves (.send h) H B H (rowsAt (ws 0) (ws 3)) (rowsAt (ws 1) (ws 4)) always
        (fun _ _ => 0) fun _ => True) ∧
    (∀ key, sends → code / 2 ^ 8 % 8 ≤ 1 → code / 2 ^ 15 = 1 → s.keys[slot]? = some (some key) →
      let size := if code / 2 ^ 8 % 8 = 1 then 2 else 1
      let stored (j x : Nat) : Nat := (cellGet s.mem.cells (Ks (rowsAt (ws 0) (ws 3) j x))).toNat
      let sample (j x : Nat) : Nat := if size = 1 then stored j x else (stored j (2 * x) + stored j (2 * x + 1) * 256) % 1024
      let bit (j x : Nat) : Bool := (siphash24 key ((ws 5).toNat * 2 ^ 32 + j / 8 * 2 ^ 16 + x / 8)).getLsbD 0
      let marked (j x : Nat) : Nat :=
        if size = 1 then (if bit j x then min (sample j x + 1) 255 else sample j x - 1)
        else if bit j x then min (sample j x + 4) 1023 else sample j x - 4
      let on (j x : Nat) : Prop := j < H ∧ x < B
      let T (k : Nat) : Prop := ∃ j x, on j x ∧ k = Kd (rowsAt (ws 1) (ws 4) j x)
      s.Lets c.ctx .load T Ks nls (fun a => ∃ j x, on j x ∧ a = rowsAt (ws 0) (ws 3) j x) →
      s.Lets c.ctx .store T Kd nld (fun a => ∃ j x, on j x ∧ a = rowsAt (ws 1) (ws 4) j x) →
      (∀ j x j' x', on j x → on j' x' → Kd (rowsAt (ws 1) (ws 4) j x) = Kd (rowsAt (ws 1) (ws 4) j' x') → j = j' ∧ x = x') →
      (∀ j x, on j x → ¬ T (Ks (rowsAt (ws 0) (ws 3) j x))) →
      s.ends (.send h) c rest 0 H T fun t => ∀ j x, on j x → cellGet t.mem.cells (Kd (rowsAt (ws 1) (ws 4) j x)) =
        BitVec.ofNat 8 (marked j (x / size) / 256 ^ (x % size))) ∧
    (cfg → c.key.dm = false → (clears → c.word1 = 0) → ∃ de < 2 ^ 32,
      s.ends (.markcfg h) c rest 10 de (fun _ => False) fun t => t.keys = s.keys) ∧
    (cfg → c.key.dm = true → clears → c.word1 = 0 → ∃ de < 2 ^ 32,
      s.ends (.markcfg h) c rest 0 de (fun _ => False) fun t => t.keys = s.keys.setIfInBounds K none) ∧
    (cfg → c.key.dm = true → ¬ clears → c.word1.toNat % 16 = 0 →
      let T (k : Nat) : Prop := ∃ x < 16, k = Kd (c.word1 + BitVec.ofNat 64 x)
      s.Lets c.ctx .load T Kd nld (fun a => ∃ x < 16, a = c.word1 + BitVec.ofNat 64 x) →
      s.Lets c.ctx .store T Kd nld (fun a => ∃ x < 16, a = c.word1 + BitVec.ofNat 64 x) → ∃ de < 2 ^ 32,
        s.ends (.markcfg h) c rest 0 de T fun t => (∀ x < 16, cellGet t.mem.cells (Kd (c.word1 + BitVec.ofNat 64 x)) = 0) ∧
          t.keys = s.keys.setIfInBounds K (some (BitVec.ofNat 128 (ofBytes (s.mem.bytes (Kd c.word1) 16))))) ∧
    (∀ r, s.cmds = c :: rest → c ∉ rest → c.record = some r → c.uid = s.h.uid → c.eng < 6 → h = s.h.key → s.h.run = .running →
      (∀ z ∈ s.others, z.uid ≠ c.uid) →
      exec (.engineRecordArrival h c.eng) s = .next { s with cmds := rest, h := { s.h with
        eng := s.h.eng.setIfInBounds c.eng { s.h.fifo c.eng with ready := (s.h.fifo c.eng).ready ++ [r] } } }) ∧
    (s.cmds = [] → exec (.engineRecordArrival h c.eng) s = .next s) ∧
    (s.cmds = c :: rest → c.record = none → c.uid = s.h.uid → h = s.h.key → s.h.run = .running →
      exec (.engineRecordArrival h c.eng) s = .next s) ∧
    (∀ (x : BitVec 4) (d a b : Reg) (two : Bool), 1 ≤ x.toNat → x.toNat ≤ 4 → (s.h.fifo x.toNat).out ≠ 8 → (x = 3 → s.h.lost = []) →
      (x = 1 → (s.cluster (s.cmdKey 1).die (s.cmdKey 1).clu).clock = .on) →
      let opc := (s.rd a).toNat % 2 ^ 8
      let known := if x = 1 then 1 ≤ opc ∧ opc ≤ 7 else if x = 3 then 1 ≤ opc ∧ opc ≤ 4 else opc = 1 ∨ opc = 2
      ∃ de t z, de < 2 ^ 32 ∧ exec (if two then .epush2 d a b x else .epush d a x) s = .next t ∧ t.cmds = s.cmds ++ [z] ∧
        z.eng = x.toNat ∧ z.ticket = (s.h.fifo x.toNat).ticket ∧
        z.record = if known then none else some (recordWord de x.toNat 1 z.ticket))

/-- R294, R295, R147, R288: the conversions of the copy engine on one row where every access goes through and its cluster's clock
runs: `CONV` writes each element converted and `DETAIL` the flags and the NaNs that became zero, e2m1 elements packed two to a byte
(R38); `CONVEF` writes the residues as well, and with `ACC` adds the stored residue first; `COMP` writes the block of up to 256 elements, `DECOMP` the elements that a block holds. The model's choices: each command
acts in one step of the module (log 70), residues are rounded without `FZ`, and with `ACC` an integer element saturates as a float does (log 63), and the descriptor fields that `COMP` and
`DECOMP` do not use must be 0 (log 61). -/
def Obligations.EngineConversions : Prop :=
  ∀ (s : State) (h : HartKey) (c : Cmd) (rest : List Cmd) (ws : Nat → Word) (Ks Kd Kr : Word → Nat) (nls nld nlr : Nat)
    (f g : Fmt) (r : FmtP) (val : Nat → FV) (old : Nat → Nat) (bs : List Byte),
    let N := c.word0.toNat / 2 ^ 32
    let code := c.word0.toNat % 2 ^ 32
    let rc : RCtx := ⟨rmodeOf (code / 2 ^ 23 % 4), code / 2 ^ 25 % 4⟩
    let wc := code / 2 ^ 28 % 4
    let runs (op : Nat) : Prop := s.Next c rest ws ∧ c.key = h ∧ c.eng = 1 ∧ code % 2 ^ 8 = op ∧ ws 3 = 1
    let el (base : Word) (w i x : Nat) : Word := base + BitVec.ofNat 64 (i * w) + BitVec.ofNat 64 x
    let span (base : Word) (w n : Nat) (a : Word) : Prop := ∃ i < n, ∃ x < w, a = el base w i x
    let holds (t : State) (K : Word → Nat) (base : Word) (w i v : Nat) : Prop :=
      ∀ x < w, cellGet t.mem.cells (K (el base w i x)) = BitVec.ofNat 8 (v / 256 ^ x)
    let packed (w : Nat) (base : Word) (a : Word) : Prop := ∃ x < (N * w + 7) / 8, a = base + BitVec.ofNat 64 x
    let has (t : State) (K : Word → Nat) (base : Word) (w i v : Nat) : Prop :=
      if w = 4 then (cellGet t.mem.cells (K (base + BitVec.ofNat 64 (i / 2)))).toNat / 16 ^ (i % 2) % 16 = v else holds t K base (w / 8) i v
    let padded (t : State) : Prop := g.width = 4 → N % 2 = 1 →
      (cellGet t.mem.cells (Kd (ws 1 + BitVec.ofNat 64 (N / 2)))).toNat < 16
    let acc := code / 2 ^ 27 % 2
    let sum (i : Nat) : FV × Flags := if acc = 1 then FV.add rc.rm (val i) (r.read (old i)) else (val i, 0)
    let out (i : Nat) : Cvt := g.convert rc (f.isInt && acc == 0) (sum i).1
    let res (i : Nat) : Nat × Flags := residue rc r g (sum i).1 (out i).bits
    let converts : Prop := Fmt.ofCode (code / 2 ^ 8 % 32) = some f ∧ Fmt.ofCode (code / 2 ^ 13 % 32) = some g ∧
      code / 2 ^ 25 % 4 ≠ 3 ∧ (ws 0).toNat % max 1 (f.width / 8) = 0 ∧ (ws 1).toNat % max 1 (g.width / 8) = 0 ∧
      ∀ i < N, ∃ n < 2 ^ f.width, f.read rc.fz n = some (val i) ∧ has s Ks (ws 0) f.width i n
    let flags (l : List Flags) : Nat := (l.foldl (· ||| ·) 0).toNat
    let zeroed := ((List.range N).filter fun i => (out i).entry).length
    let blocks : Prop := code / 2 ^ 8 % 2 ^ 20 = 0 ∧ code < 2 ^ 30 ∧ ws 2 = 0 ∧ ws 4 = 0 ∧ ws 5 = 0 ∧ ws 6 = 0
    let block := encodeBlock wc ((List.range N).map fun i => ofBytes ((List.range (2 ^ wc)).map fun x =>
      cellGet s.mem.cells (Ks (el (ws 0) (2 ^ wc) i x))))
    let b := BlockHead.ofWord (ofBytes (bs.take 8))
    (let T (k : Nat) : Prop := ∃ a, packed g.width (ws 1) a ∧ k = Kd a
     runs 2 → converts → code / 2 ^ 18 % 32 = 0 → code / 2 ^ 27 = 0 → ws 2 = 0 → ws 6 = 0 →
      s.Lets c.ctx .load T Ks nls (packed f.width (ws 0)) → s.Lets c.ctx .store T Kd nld (packed g.width (ws 1)) →
      (∀ a a', packed g.width (ws 1) a → packed g.width (ws 1) a' → Kd a = Kd a' → a = a') →
      (∀ a, packed f.width (ws 0) a → ¬ T (Ks a)) →
      s.ends (.conv h) c rest 0 (flags ((List.range N).map fun i => (out i).flags) + min zeroed 0xFFFF * 2 ^ 16) T fun t =>
        padded t ∧ ∀ i < N, has t Kd (ws 1) g.width i (out i).bits) ∧
    (let T (k : Nat) : Prop := (∃ a, packed g.width (ws 1) a ∧ k = Kd a) ∨ ∃ a, packed r.width (ws 2) a ∧ k = Kr a
     runs 3 → converts → residueFmt (code / 2 ^ 18 % 32) = some r → code / 2 ^ 28 = 0 → (ws 2).toNat % (r.width / 8) = 0 →
      s.Lets c.ctx .load T Ks nls (packed f.width (ws 0)) → s.Lets c.ctx .store T Kd nld (packed g.width (ws 1)) →
      s.Lets c.ctx .store T Kr nlr (packed r.width (ws 2)) →
      (acc = 1 → s.Lets c.ctx .load T Kr nlr (packed r.width (ws 2)) ∧
        ∀ i < N, old i < 2 ^ r.width ∧ holds s Kr (ws 2) (r.width / 8) i (old i)) →
      (∀ a a', packed g.width (ws 1) a → packed g.width (ws 1) a' → Kd a = Kd a' → a = a') →
      (∀ a a', packed r.width (ws 2) a → packed r.width (ws 2) a' → Kr a = Kr a' → a = a') →
      (∀ a a', packed g.width (ws 1) a → packed r.width (ws 2) a' → Kd a ≠ Kr a') →
      (∀ a, packed f.width (ws 0) a → ¬ T (Ks a)) →
      s.ends (.convef h) c rest 0
        (flags ((List.range N).map fun i => (sum i).2 ||| (out i).flags ||| (res i).2) + min zeroed 0xFFFF * 2 ^ 16) T
        fun t => padded t ∧ ∀ i < N, has t Kd (ws 1) g.width i (out i).bits ∧ holds t Kr (ws 2) (r.width / 8) i (res i).1) ∧
    (let T (k : Nat) : Prop := ∃ x < block.length, k = Kd (ws 1 + BitVec.ofNat 64 x)
     runs 4 → blocks → 0 < N → N ≤ 256 → (ws 0).toNat % 2 ^ wc = 0 → (ws 1).toNat % 16 = 0 →
      s.Lets c.ctx .load T Ks nls (span (ws 0) (2 ^ wc) N) →
      s.Lets c.ctx .store T Kd 11 (fun a => ∃ x < block.length, a = ws 1 + BitVec.ofNat 64 x) →
      (∀ x < block.length, ∀ x' < block.length, Kd (ws 1 + BitVec.ofNat 64 x) = Kd (ws 1 + BitVec.ofNat 64 x') → x = x') →
      (∀ a, span (ws 0) (2 ^ wc) N a → ¬ T (Ks a)) →
      s.ends (.comp h) c rest 0 block.length T fun t =>
        ∀ x < block.length, cellGet t.mem.cells (Kd (ws 1 + BitVec.ofNat 64 x)) = block.getD x 0) ∧
    (let T (k : Nat) : Prop := ∃ a, span (ws 1) (2 ^ wc) N a ∧ k = Kd a
     runs 5 → blocks → 0 < N → N ≤ b.count → (ws 1).toNat % 2 ^ wc = 0 → (ws 0).toNat % 16 = 0 →
      bs.length = 8 + b.body → b.broken = false → b.failure (some wc) (bs.drop 8) = none →
      (∀ x < bs.length, cellGet s.mem.cells (Ks (ws 0 + BitVec.ofNat 64 x)) = bs.getD x 0) →
      s.Lets c.ctx .load T Ks 11 (fun a => ∃ x < bs.length, a = ws 0 + BitVec.ofNat 64 x) →
      s.Lets c.ctx .store T Kd nld (span (ws 1) (2 ^ wc) N) →
      (∀ a a', span (ws 1) (2 ^ wc) N a → span (ws 1) (2 ^ wc) N a' → Kd a = Kd a' → a = a') →
      (∀ x < bs.length, ¬ T (Ks (ws 0 + BitVec.ofNat 64 x))) →
      s.ends (.decomp h) c rest 0 b.stride T fun t =>
        ∀ i < N, holds t Kd (ws 1) (2 ^ wc) i (((b.row (bs.drop 8)).elems (8 * 2 ^ wc)).getD i 0))

/-- R350 to R353: a collective joins under its tag and waits while a rank is missing; once every rank has joined alike `DBAR`
ends, `BCAST` writes the root's bytes, `ALLGATH` every rank's in rank order, and `ALLRED` of 32-bit integers with ADD their sums;
a rank that joins differently ends each of the four MISMATCH. The model's choices: each command acts in steps of the module
(log 70), what is checked at the join and when MISMATCH is seen (log 66), and an open `DETAIL` (log 26). -/
def Obligations.Collectives : Prop :=
  ∀ (s : State) (h : HartKey) (c : Cmd) (rest : List Cmd) (ws : Nat → Word) (j : Join) (others : List Join) (src dst : Word)
    (Ks Kd Kl : Word → Nat) (nls nld nll : Nat) (parts : List Nat),
    let N := c.word0.toNat / 2 ^ 32
    let code := c.word0.toNat % 2 ^ 32
    let mine : Prop := s.WellKept ∧ s.cmds = c :: rest ∧ c ∉ rest ∧ c.record = none ∧ c.key = h ∧ c.eng = 3 ∧
      (∀ z ∈ rest, z.eng ≠ 3) ∧ s.unreachable = [] ∧ (s.cluster c.key.die c.key.clu).clock = .on
    let alike (x : Join) : Prop := x.word0 = c.word0 ∧ x.n = j.n ∧ x.root = j.root ∧ x.list = j.list
    let joined : Prop := mine ∧ c.joined = true ∧ s.joins = j :: others ∧ j.own = some (c.uid, c.ticket, src, dst) ∧
      j.word0 = c.word0 ∧ j.rank < j.n ∧ (others.map Join.rank).Nodup ∧ ∀ x ∈ others, x.tag = j.tag ∧ x.own = none
    let given (r : Nat) (d : List Byte) : Prop := ∃ x, others.find? (fun x => x.rank == r) = some x ∧ x.data = d
    let full (len : Nat) (data : Nat → List Byte) : Prop := (∀ x ∈ others, alike x) ∧
      ∀ r < j.n, (data r).length = len ∧ (r ≠ j.rank → given r (data r)) ∧
        (r = j.rank → ∀ x < len, (data r).getD x 0 = cellGet s.mem.cells (Ks (src + BitVec.ofNat 64 x)))
    let writes (i : Instr) (len : Nat) (bs : List Byte) : Prop :=
      let T (k : Nat) : Prop := ∃ x < bs.length, k = Kd (dst + BitVec.ofNat 64 x)
      s.Lets c.ctx .load T Ks nls (fun a => ∃ x < len, a = src + BitVec.ofNat 64 x) →
      s.Lets c.ctx .store T Kd nld (fun a => ∃ x < bs.length, a = dst + BitVec.ofNat 64 x) →
      (∀ x < bs.length, ∀ y < bs.length, Kd (dst + BitVec.ofNat 64 x) = Kd (dst + BitVec.ofNat 64 y) → x = y) →
      s.ends i c rest 0 0 T fun t => t.joins = [] ∧
        ∀ x < bs.length, cellGet t.mem.cells (Kd (dst + BitVec.ofNat 64 x)) = bs.getD x 0
    let word (d : List Byte) (i : Nat) : Nat := ofBytes ((d.drop (4 * i)).take 4)
    (mine → s.Next c rest ws → c.joined = false → c.word0 = 4 → s.joins = [] → ws 0 = 0 → ws 1 = 0 → ws 5 = 0 → ws 6 = 0 →
      (ws 3).toNat = parts.length → 2 ≤ parts.length → parts.Nodup → (∀ x ∈ parts, x < 1152) → s.pkg ∈ parts →
      s.Lets c.ctx .load (fun _ => False) Kl nll (fun a => ∃ x < 2 * parts.length, a = ws 2 + BitVec.ofNat 64 x) →
      (∀ r < parts.length, ∀ x < 2, cellGet s.mem.cells (Kl (ws 2 + BitVec.ofNat 64 (2 * r + x))) =
        BitVec.ofNat 8 (parts.getD r 0 / 256 ^ x)) →
      ∃ t, exec (.dbar h) s = .next t ∧ t.h = s.h ∧ t.mem = s.mem ∧ t.cmds = { c with joined := true } :: rest ∧
        t.joins = [⟨ws 4, parts.idxOf s.pkg, 4, parts.length, 0, parts, [], some (c.uid, c.ticket, 0, 0)⟩]) ∧
    (joined → (∀ x ∈ others, alike x) → (∃ r < j.n, r ≠ j.rank ∧ ∀ x ∈ others, x.rank ≠ r) →
      (code % 2 ^ 8 = 1 → exec (.allred h) s = .next s) ∧ (code % 2 ^ 8 = 2 → exec (.bcast h) s = .next s) ∧
      (code % 2 ^ 8 = 3 → exec (.allgath h) s = .next s) ∧ (code % 2 ^ 8 = 4 → exec (.dbar h) s = .next s)) ∧
    (joined → (∃ x ∈ others, ¬ alike x) → ∃ de < 2 ^ 32,
      let differs (i : Instr) : Prop := s.ends i c rest 9 de (fun _ => False) fun t => t.joins = []
      (code % 2 ^ 8 = 1 → differs (.allred h)) ∧ (code % 2 ^ 8 = 2 → differs (.bcast h)) ∧
      (code % 2 ^ 8 = 3 → differs (.allgath h)) ∧ (code % 2 ^ 8 = 4 → differs (.dbar h))) ∧
    (joined → code % 2 ^ 8 = 4 → (∀ x ∈ others, alike x) → (∀ r < j.n, r = j.rank ∨ ∃ x ∈ others, x.rank = r) →
      s.ends (.dbar h) c rest 0 0 (fun _ => False) fun t => t.joins = []) ∧
    (∀ data, joined → code % 2 ^ 8 = 2 → full N data → j.root < j.n → writes (.bcast h) N (data j.root)) ∧
    (∀ data, joined → code % 2 ^ 8 = 3 → full N data → writes (.allgath h) N ((List.range j.n).map data).flatten) ∧
    (∀ data, joined → code = 1 + 2 * 2 ^ 8 ∨ code = 1 + 6 * 2 ^ 8 → full (4 * N) data →
      writes (.allred h) (4 * N) ((List.range N).map fun i =>
        toBytes 4 (((List.range j.n).map fun r => word (data r) i).sum % 2 ^ 32)).flatten)
end

