-- ==== Sys2Proof/Laws/Decode.lean ====
section
/-! SUPPORT. Fields of an encoded word read back, and what decoding a word written out in bytes gives. -/

namespace Sys2Proof

/-- A slice that lies in the upper part of a concatenation. -/
theorem bf_append_hi {n m : Nat} (x : BitVec n) (y : BitVec m) (lo len : Nat) (h : m ≤ lo) :
    bf lo len (x ++ y) = bf (lo - m) len x := by
  apply BitVec.eq_of_getLsbD_eq
  intro i hi
  simp only [bf, BitVec.getLsbD_extractLsb', BitVec.getLsbD_append]
  have h1 : ¬ (lo + i < m) := by omega
  have h2 : lo + i - m = lo - m + i := by omega
  simp only [h1, hi, decide_true, Bool.true_and, if_false, h2]

/-- A slice that lies in the lower part of a concatenation. -/
theorem bf_append_lo {n m : Nat} (x : BitVec n) (y : BitVec m) (lo len : Nat) (h : lo + len ≤ m) :
    bf lo len (x ++ y) = bf lo len y := by
  apply BitVec.eq_of_getLsbD_eq
  intro i hi
  simp only [bf, BitVec.getLsbD_extractLsb', BitVec.getLsbD_append]
  have : lo + i < m := by omega
  simp [this, hi]

/-- A whole pattern. -/
theorem bf_self {n : Nat} (x : BitVec n) : bf 0 n x = x := by
  apply BitVec.eq_of_getLsbD_eq
  intro i hi
  simp [bf, hi]

theorem leBytes_length (n v : Nat) : (leBytes n v).length = n := by
  induction n generalizing v with
  | zero => rfl
  | succ n ih => simp [leBytes, ih]

theorem leNat_leBytes (n v : Nat) : leNat (leBytes n v) = v % 256 ^ n := by
  induction n generalizing v with
  | zero => simp [leBytes, leNat, Nat.mod_one]
  | succ n ih =>
    have e : (BitVec.ofNat 8 v).toNat = v % 256 := BitVec.toNat_ofNat v 8
    have p : 256 ^ (n + 1) = 256 * 256 ^ n := by rw [Nat.pow_succ, Nat.mul_comm]
    rw [leBytes, leNat, ih, e, p, Nat.mod_mul]

/-- Decoding the bytes of a number: the length that its first parcel gives, then the bits. -/
theorem decode_leBytes (n v : Nat) (i : Instr) (h2 : 2 ≤ n) (hv : v < 256 ^ n) (hl : lengthOf (BitVec.ofNat 16 v) = n)
    (hd : decodeBits n v = .ok i) (hw : i.wf = true) : decode (leBytes n v) = .ok (i, n) := by
  obtain ⟨k, rfl⟩ : ∃ k, n = k + 2 := ⟨n - 2, by omega⟩
  have hp : (BitVec.ofNat 16 (leNat [BitVec.ofNat 8 v, BitVec.ofNat 8 (v / 256)])) = BitVec.ofNat 16 v := by
    apply BitVec.eq_of_toNat_eq
    simp [leNat]; omega
  have hlen : (leBytes (k + 2) v).length = k + 2 := leBytes_length _ _
  have hn : leNat (leBytes (k + 2) v) = v := by rw [leNat_leBytes, Nat.mod_eq_of_lt hv]
  have ht : (leBytes (k + 2) v).take (k + 2) = leBytes (k + 2) v := List.take_of_length_le (by omega)
  rw [decode.eq_def]
  simp only [leBytes] at hp hlen hn ht ⊢
  simp only [hp, hl, hlen, Nat.lt_irrefl, if_false, ht, hn, hd, checked, hw, if_true]

/-- The low bits of a number as a pattern. -/
theorem bf_ofNat (m lo len v : Nat) (h : lo + len ≤ m) : bf lo len (BitVec.ofNat m v) = BitVec.ofNat len (v / 2 ^ lo) := by
  apply BitVec.eq_of_getLsbD_eq
  intro i hi
  have h1 : lo + i < m := by omega
  simp only [bf, BitVec.getLsbD_extractLsb', BitVec.getLsbD_ofNat, hi, h1, decide_true, Bool.true_and, Nat.testBit_div_two_pow]
  rw [Nat.add_comm]

/-- The length that the first parcel of a number gives. -/
theorem lengthOf_ofNat (v : Nat) : lengthOf (BitVec.ofNat 16 v) = if v % 2 = 0 then 2 else if v / 2 % 2 = 0 then 4 else 8 := by
  have e0 : (bf 0 1 (BitVec.ofNat 16 v) = 0#1) = (v % 2 = 0) := by
    rw [bf_ofNat 16 0 1 v (by omega)]
    apply propext; constructor
    · intro h; have := congrArg BitVec.toNat h; simpa using this
    · intro h; apply BitVec.eq_of_toNat_eq; simpa using h
  have e1 : (bf 1 1 (BitVec.ofNat 16 v) = 0#1) = (v / 2 % 2 = 0) := by
    rw [bf_ofNat 16 1 1 v (by omega)]
    apply propext; constructor
    · intro h; have := congrArg BitVec.toNat h; simpa using this
    · intro h; apply BitVec.eq_of_toNat_eq; simpa using h
  simp only [lengthOf, e0, e1]

/-- The low field of a word as a number. -/
theorem bf_toNat {n : Nat} (lo len : Nat) (w : BitVec n) : (bf lo len w).toNat = w.toNat / 2 ^ lo % 2 ^ len := by
  simp [bf, BitVec.extractLsb'_toNat, Nat.shiftRight_eq_div_pow]

/-- A 32-bit form. -/
theorem decode_word32 (w : BitVec 32) (i : Instr) (h0 : bf 0 2 w = 1#2) (hd : decode32 w = .ok i) (hw : i.wf = true) :
    decode (leBytes 4 (w.setWidth 64).toNat) = .ok (i, 4) := by
  have hv : (w.setWidth 64).toNat = w.toNat := by rw [BitVec.toNat_setWidth]; have := w.isLt; omega
  have hm : w.toNat % 4 = 1 := by
    have := congrArg BitVec.toNat h0
    rw [bf_toNat] at this
    have e : (1#2).toNat = 1 := rfl
    omega
  rw [hv]
  apply decode_leBytes 4 _ i (by omega) (by have := w.isLt; omega) _ _ hw
  · rw [lengthOf_ofNat, if_neg (by omega), if_pos (by omega)]
  · simp only [decodeBits, BitVec.ofNat_toNat, BitVec.setWidth_eq]; exact hd

/-- A 16-bit form. -/
theorem decode_word16 (w : BitVec 16) (i : Instr) (h0 : bf 0 1 w = 0#1) (hd : decode16 w = .ok i) (hw : i.wf = true) :
    decode (leBytes 2 (w.setWidth 64).toNat) = .ok (i, 2) := by
  have hv : (w.setWidth 64).toNat = w.toNat := by rw [BitVec.toNat_setWidth]; have := w.isLt; omega
  have hm : w.toNat % 2 = 0 := by
    have := congrArg BitVec.toNat h0
    rw [bf_toNat] at this
    have e : (0#1).toNat = 0 := rfl
    omega
  rw [hv]
  apply decode_leBytes 2 _ i (by omega) (by have := w.isLt; omega) _ _ hw
  · rw [lengthOf_ofNat, if_pos hm]
  · simp only [decodeBits, BitVec.ofNat_toNat, BitVec.setWidth_eq]; exact hd

/-- A tile form. -/
theorem decode_word64 (w : BitVec 64) (i : Instr) (h0 : bf 0 2 w = 3#2) (hd : decode64 w = .ok i) (hw : i.wf = true) :
    decode (leBytes 8 w.toNat) = .ok (i, 8) := by
  have hm : w.toNat % 4 = 3 := by
    have := congrArg BitVec.toNat h0
    rw [bf_toNat] at this
    have e : (3#2).toNat = 3 := rfl
    omega
  apply decode_leBytes 8 _ i (by omega) (by have := w.isLt; omega) _ _ hw
  · rw [lengthOf_ofNat, if_neg (by omega), if_neg (by omega)]
  · simp only [decodeBits, BitVec.ofNat_toNat, BitVec.setWidth_eq]; exact hd

end Sys2Proof
end

