-- ==== Sys2Proof/Laws/Encode.lean ====
section
/-! SUPPORT. What each field of each encoding format (R61, R65, R66) reads back as. -/

namespace Sys2Proof

theorem toNat_append {n m : Nat} (x : BitVec n) (y : BitVec m) : (x ++ y).toNat = x.toNat * 2 ^ m + y.toNat := by
  rw [BitVec.toNat_append, Nat.shiftLeft_eq, Nat.mul_comm, Nat.two_pow_add_eq_or_of_lt y.isLt]

theorem bf_eq {n lo len : Nat} {w : BitVec n} {v : BitVec len} (h : w.toNat / 2 ^ lo % 2 ^ len = v.toNat) :
    bf lo len w = v :=
  BitVec.eq_of_toNat_eq ((bf_toNat lo len w).trans h)

/-- The two tag bits and the major opcode of a 32-bit word. -/
def Tagged (maj : BitVec 6) (w : BitVec 32) : Prop := bf 0 2 w = 1#2 ∧ bf 2 6 w = maj

theorem tagged_of_toNat {maj : BitVec 6} {w : BitVec 32} (k : Nat) (h : w.toNat = k * 256 + maj.toNat * 4 + 1) :
    Tagged maj w := by
  have := maj.isLt
  have e : (1#2).toNat = 1 := rfl
  exact ⟨bf_eq (by rw [h, e]; omega), bf_eq (by rw [h]; omega)⟩

theorem encSR_toNat (maj : BitVec 6) (f d a b : Reg) (x : BitVec 4) : (encSR maj f d a b x).toNat =
    f.toNat * 134217728 + x.toNat * 8388608 + b.toNat * 262144 + a.toNat * 8192 + d.toNat * 256 + maj.toNat * 4 + 1 := by
  have e : (1#2).toNat = 1 := rfl
  simp only [encSR, toNat_append, e]; omega

theorem encSR_tagged (maj : BitVec 6) (f d a b : Reg) (x : BitVec 4) : Tagged maj (encSR maj f d a b x) :=
  tagged_of_toNat (f.toNat * 524288 + x.toNat * 32768 + b.toNat * 1024 + a.toNat * 32 + d.toNat) (by rw [encSR_toNat]; omega)

theorem encSR_fields (maj : BitVec 6) (f d a b : Reg) (x : BitVec 4) :
    bf 8 5 (encSR maj f d a b x) = d ∧
    bf 13 5 (encSR maj f d a b x) = a ∧
    bf 18 5 (encSR maj f d a b x) = b ∧
    bf 23 4 (encSR maj f d a b x) = x ∧
    bf 27 5 (encSR maj f d a b x) = f ∧
    bf 18 9 (encSR maj f d a b x) = x ++ b ∧
    bf 13 10 (encSR maj f d a b x) = b ++ a ∧
    bf 13 14 (encSR maj f d a b x) = x ++ (b ++ a) ∧
    bf 8 10 (encSR maj f d a b x) = a ++ d ∧
    bf 8 15 (encSR maj f d a b x) = b ++ (a ++ d) ∧
    bf 8 19 (encSR maj f d a b x) = x ++ (b ++ (a ++ d)) := by
  have := maj.isLt; have := f.isLt; have := d.isLt; have := a.isLt; have := b.isLt; have := x.isLt
  and_intros <;> refine bf_eq ?_ <;> rw [encSR_toNat] <;> (try simp only [toNat_append]) <;> (try simp only [Nat.reduceAdd]) <;> omega

theorem encSR_masked (maj : BitVec 6) (f d a b : Reg) (k : BitVec 3) (e : BitVec 1) :
    bf 23 3 (encSR maj f d a b (e ++ k)) = k ∧
    bf 26 1 (encSR maj f d a b (e ++ k)) = e ∧
    bf 18 8 (encSR maj f d a b (e ++ k)) = k ++ b := by
  have := maj.isLt; have := f.isLt; have := d.isLt; have := a.isLt; have := b.isLt; have := k.isLt; have := e.isLt
  and_intros <;> refine bf_eq ?_ <;> rw [encSR_toNat] <;> (try simp only [toNat_append]) <;> (try simp only [Nat.reduceAdd]) <;> omega

theorem encSR_dim (maj : BitVec 6) (f d a b : Reg) (n z : BitVec 2) :
    bf 23 2 (encSR maj f d a b (z ++ n)) = n ∧
    bf 25 2 (encSR maj f d a b (z ++ n)) = z := by
  have := maj.isLt; have := f.isLt; have := d.isLt; have := a.isLt; have := b.isLt; have := n.isLt; have := z.isLt
  refine ⟨bf_eq ?_, bf_eq ?_⟩ <;> rw [encSR_toNat] <;> (try simp only [toNat_append]) <;> (try simp only [Nat.reduceAdd]) <;> omega

theorem encSR_amo (maj : BitVec 6) (c : BitVec 3) (o : BitVec 2) (d a b : Reg) (x : BitVec 4) :
    bf 27 3 (encSR maj (o ++ c) d a b x) = c ∧
    bf 30 2 (encSR maj (o ++ c) d a b x) = o := by
  have := maj.isLt; have := c.isLt; have := o.isLt; have := d.isLt; have := a.isLt; have := b.isLt; have := x.isLt
  refine ⟨bf_eq ?_, bf_eq ?_⟩ <;> rw [encSR_toNat] <;> (try simp only [toNat_append]) <;> (try simp only [Nat.reduceAdd]) <;> omega

theorem encSI_toNat (maj : BitVec 6) (d a : Reg) (i : BitVec 14) : (encSI maj d a i).toNat =
    i.toNat * 262144 + a.toNat * 8192 + d.toNat * 256 + maj.toNat * 4 + 1 := by
  have e : (1#2).toNat = 1 := rfl
  simp only [encSI, toNat_append, e]; omega

theorem encSI_tagged (maj : BitVec 6) (d a : Reg) (i : BitVec 14) : Tagged maj (encSI maj d a i) :=
  tagged_of_toNat (i.toNat * 1024 + a.toNat * 32 + d.toNat) (by rw [encSI_toNat]; omega)

theorem encSI_fields (maj : BitVec 6) (d a : Reg) (i : BitVec 14) :
    bf 8 5 (encSI maj d a i) = d ∧
    bf 13 5 (encSI maj d a i) = a ∧
    bf 18 14 (encSI maj d a i) = i := by
  have := maj.isLt; have := d.isLt; have := a.isLt; have := i.isLt
  and_intros <;> refine bf_eq ?_ <;> rw [encSI_toNat] <;> (try simp only [toNat_append]) <;> (try simp only [Nat.reduceAdd]) <;> omega

theorem encSI_shift (maj : BitVec 6) (d a : Reg) (c : BitVec 2) (z s : BitVec 6) :
    bf 18 6 (encSI maj d a (c ++ z ++ s)) = s ∧
    bf 24 6 (encSI maj d a (c ++ z ++ s)) = z ∧
    bf 30 2 (encSI maj d a (c ++ z ++ s)) = c := by
  have := maj.isLt; have := d.isLt; have := a.isLt; have := c.isLt; have := z.isLt; have := s.isLt
  and_intros <;> refine bf_eq ?_ <;> rw [encSI_toNat] <;> (try simp only [toNat_append]) <;> (try simp only [Nat.reduceAdd]) <;> omega

theorem encSI_cfg (maj : BitVec 6) (d a : Reg) (z : BitVec 2) (c : BitVec 12) :
    bf 18 12 (encSI maj d a (z ++ c)) = c ∧
    bf 30 2 (encSI maj d a (z ++ c)) = z := by
  have := maj.isLt; have := d.isLt; have := a.isLt; have := z.isLt; have := c.isLt
  refine ⟨bf_eq ?_, bf_eq ?_⟩ <;> rw [encSI_toNat] <;> (try simp only [toNat_append]) <;> (try simp only [Nat.reduceAdd]) <;> omega

theorem encSU_toNat (maj : BitVec 6) (d : Reg) (i : BitVec 19) : (encSU maj d i).toNat =
    i.toNat * 8192 + d.toNat * 256 + maj.toNat * 4 + 1 := by
  have e : (1#2).toNat = 1 := rfl
  simp only [encSU, toNat_append, e]; omega

theorem encSU_tagged (maj : BitVec 6) (d : Reg) (i : BitVec 19) : Tagged maj (encSU maj d i) :=
  tagged_of_toNat (i.toNat * 32 + d.toNat) (by rw [encSU_toNat]; omega)

theorem encSU_fields (maj : BitVec 6) (d : Reg) (i : BitVec 19) :
    bf 8 5 (encSU maj d i) = d ∧
    bf 13 19 (encSU maj d i) = i := by
  have := maj.isLt; have := d.isLt; have := i.isLt
  refine ⟨bf_eq ?_, bf_eq ?_⟩ <;> rw [encSU_toNat] <;> (try simp only [toNat_append]) <;> (try simp only [Nat.reduceAdd]) <;> omega

theorem encSM_toNat (maj : BitVec 6) (c : BitVec 3) (d a : Reg) (i : BitVec 11) : (encSM maj c d a i).toNat =
    i.toNat * 2097152 + c.toNat * 262144 + a.toNat * 8192 + d.toNat * 256 + maj.toNat * 4 + 1 := by
  have e : (1#2).toNat = 1 := rfl
  simp only [encSM, toNat_append, e]; omega

theorem encSM_tagged (maj : BitVec 6) (c : BitVec 3) (d a : Reg) (i : BitVec 11) : Tagged maj (encSM maj c d a i) :=
  tagged_of_toNat (i.toNat * 8192 + c.toNat * 1024 + a.toNat * 32 + d.toNat) (by rw [encSM_toNat]; omega)

theorem encSM_fields (maj : BitVec 6) (c : BitVec 3) (d a : Reg) (i : BitVec 11) :
    bf 8 5 (encSM maj c d a i) = d ∧
    bf 13 5 (encSM maj c d a i) = a ∧
    bf 18 3 (encSM maj c d a i) = c ∧
    bf 21 11 (encSM maj c d a i) = i := by
  have := maj.isLt; have := c.isLt; have := d.isLt; have := a.isLt; have := i.isLt
  and_intros <;> refine bf_eq ?_ <;> rw [encSM_toNat] <;> (try simp only [toNat_append]) <;> (try simp only [Nat.reduceAdd]) <;> omega

theorem encSYS_toNat (f d a : Reg) (n : BitVec 9) : (encSYS f d a n).toNat =
    n.toNat * 8388608 + f.toNat * 262144 + a.toNat * 8192 + d.toNat * 256 + 97 := by
  have e : (1#2).toNat = 1 := rfl
  have m : (24#6).toNat = 24 := rfl
  simp only [encSYS, toNat_append, e, m]; omega

theorem encSYS_tagged (f d a : Reg) (n : BitVec 9) : Tagged 24#6 (encSYS f d a n) :=
  tagged_of_toNat (n.toNat * 32768 + f.toNat * 1024 + a.toNat * 32 + d.toNat) (by
    have m : (24#6).toNat = 24 := rfl
    rw [encSYS_toNat, m]; omega)

theorem encSYS_fields (f d a : Reg) (n : BitVec 9) :
    bf 8 5 (encSYS f d a n) = d ∧
    bf 13 5 (encSYS f d a n) = a ∧
    bf 18 5 (encSYS f d a n) = f ∧
    bf 23 9 (encSYS f d a n) = n ∧
    bf 8 10 (encSYS f d a n) = a ++ d := by
  have := f.isLt; have := d.isLt; have := a.isLt; have := n.isLt
  and_intros <;> refine bf_eq ?_ <;> rw [encSYS_toNat] <;> (try simp only [toNat_append]) <;> (try simp only [Nat.reduceAdd]) <;> omega

theorem encSYS_yield (f d a : Reg) (z : BitVec 8) (s : BitVec 1) :
    bf 23 1 (encSYS f d a (z ++ s)) = s ∧
    bf 24 8 (encSYS f d a (z ++ s)) = z := by
  have := f.isLt; have := d.isLt; have := a.isLt; have := z.isLt; have := s.isLt
  refine ⟨bf_eq ?_, bf_eq ?_⟩ <;> rw [encSYS_toNat] <;> (try simp only [toNat_append]) <;> (try simp only [Nat.reduceAdd]) <;> omega

theorem encVM_toNat (maj : BitVec 6) (f : BitVec 3) (v a b : Reg) (k : BitVec 3) (o : BitVec 1) (t : BitVec 2) : (encVM maj f v a b k o t).toNat =
    f.toNat * 536870912 + t.toNat * 134217728 + o.toNat * 67108864 + k.toNat * 8388608 + b.toNat * 262144 + a.toNat * 8192 +
    v.toNat * 256 + maj.toNat * 4 + 1 := by
  have e : (1#2).toNat = 1 := rfl
  simp only [encVM, toNat_append, e]; omega

theorem encVM_tagged (maj : BitVec 6) (f : BitVec 3) (v a b : Reg) (k : BitVec 3) (o : BitVec 1) (t : BitVec 2) : Tagged maj (encVM maj f v a b k o t) :=
  tagged_of_toNat (f.toNat * 2097152 + t.toNat * 524288 + o.toNat * 262144 + k.toNat * 32768 + b.toNat * 1024 + a.toNat * 32 +
    v.toNat) (by rw [encVM_toNat]; omega)

theorem encVM_fields (maj : BitVec 6) (f : BitVec 3) (v a b : Reg) (k : BitVec 3) (o : BitVec 1) (t : BitVec 2) :
    bf 8 5 (encVM maj f v a b k o t) = v ∧
    bf 13 5 (encVM maj f v a b k o t) = a ∧
    bf 18 5 (encVM maj f v a b k o t) = b ∧
    bf 23 3 (encVM maj f v a b k o t) = k ∧
    bf 26 1 (encVM maj f v a b k o t) = o ∧
    bf 27 2 (encVM maj f v a b k o t) = t ∧
    bf 29 3 (encVM maj f v a b k o t) = f ∧
    bf 23 4 (encVM maj f v a b k o t) = o ++ k := by
  have regs := (⟨v.isLt, a.isLt, b.isLt⟩ : _ ∧ _ ∧ _)
  have small := (⟨maj.isLt, f.isLt, k.isLt, o.isLt, t.isLt⟩ : _ ∧ _ ∧ _ ∧ _ ∧ _)
  and_intros <;> refine bf_eq ?_ <;> rw [encVM_toNat] <;> (try simp only [toNat_append]) <;> (try simp only [Nat.reduceAdd]) <;> omega

theorem encN_toNat (op : BitVec 3) (d : Reg) (p : BitVec 7) : (encN op d p).toNat = p.toNat * 512 + d.toNat * 16 + op.toNat * 2 := by
  have e : (0#1).toNat = 0 := rfl
  simp only [encN, toNat_append, e]; omega

theorem encN_fields (op : BitVec 3) (d : Reg) (p : BitVec 7) :
    bf 1 3 (encN op d p) = op ∧
    bf 4 5 (encN op d p) = d ∧
    bf 9 7 (encN op d p) = p := by
  have := op.isLt; have := d.isLt; have := p.isLt
  and_intros <;> refine bf_eq ?_ <;> rw [encN_toNat] <;> (try simp only [toNat_append]) <;> (try simp only [Nat.reduceAdd]) <;> omega

theorem encN_copy (op : BitVec 3) (d s : Reg) (z : BitVec 2) :
    bf 9 5 (encN op d (z ++ s)) = s ∧
    bf 14 2 (encN op d (z ++ s)) = z := by
  have := op.isLt; have := d.isLt; have := s.isLt; have := z.isLt
  refine ⟨bf_eq ?_, bf_eq ?_⟩ <;> rw [encN_toNat] <;> (try simp only [toNat_append]) <;> (try simp only [Nat.reduceAdd]) <;> omega

theorem encN_even (op : BitVec 3) (d : Reg) (p : BitVec 7) : bf 0 1 (encN op d p) = 0#1 := by
  have e : (0#1).toNat = 0 := rfl
  exact bf_eq (by rw [encN_toNat, e]; omega)

theorem nGo_toNat (p : BitVec 12) : (p ++ 6#3 ++ 0#1 : BitVec 16).toNat = p.toNat * 16 + 12 := by
  have e : (0#1).toNat = 0 := rfl
  have m : (6#3).toNat = 6 := rfl
  simp only [toNat_append, e, m]; omega

/-- Every field of a tile form is below two to its width. -/
theorem Tile.bounds (t : Tile) :
    (t.acc.toNat < 32 ∧ t.a.toNat < 32 ∧ t.b.toNat < 32 ∧ t.ma.toNat < 32 ∧ t.sb.toNat < 32) ∧
    (t.afmt.toNat < 16 ∧ t.bfmt.toNat < 16 ∧ t.rmask.toNat < 8) ∧ (t.asp.toNat < 2 ∧ t.bsp.toNat < 2) ∧
    (t.tra.toNat < 2 ∧ t.trb.toNat < 2) ∧ t.sae.toNat < 2 ∧ t.sbe.toNat < 2 := by
  and_intros <;> exact BitVec.isLt _

theorem encTile_toNat (c : BitVec 6) (t : Tile) : (encTile c t).toNat =
    t.sbe.toNat * 562949953421312 + t.sae.toNat * 281474976710656 + t.trb.toNat * 140737488355328 +
    t.tra.toNat * 70368744177664 + t.sb.toNat * 2199023255552 + t.ma.toNat * 68719476736 + t.bfmt.toNat * 4294967296 +
    t.afmt.toNat * 268435456 + t.bsp.toNat * 134217728 + t.asp.toNat * 67108864 + t.rmask.toNat * 8388608 +
    t.b.toNat * 262144 + t.a.toNat * 8192 + t.acc.toNat * 256 + c.toNat * 4 + 3 := by
  have e : (3#2).toNat = 3 := rfl
  have z : (0#14).toNat = 0 := rfl
  simp only [encTile, toNat_append, e, z]; omega

theorem encTile_fields (c : BitVec 6) (t : Tile) : bf 8 5 (encTile c t) = t.acc ∧
    bf 13 5 (encTile c t) = t.a ∧
    bf 18 5 (encTile c t) = t.b ∧
    bf 23 3 (encTile c t) = t.rmask ∧
    bf 26 1 (encTile c t) = t.asp ∧
    bf 27 1 (encTile c t) = t.bsp ∧
    bf 28 4 (encTile c t) = t.afmt ∧
    bf 32 4 (encTile c t) = t.bfmt ∧
    bf 36 5 (encTile c t) = t.ma ∧
    bf 41 5 (encTile c t) = t.sb ∧
    bf 46 1 (encTile c t) = t.tra ∧
    bf 47 1 (encTile c t) = t.trb ∧
    bf 48 1 (encTile c t) = t.sae ∧
    bf 49 1 (encTile c t) = t.sbe := by
  have := t.bounds
  have := c.isLt
  and_intros <;> refine bf_eq ?_ <;>
    rw [encTile_toNat] <;> omega

theorem encTile_fixed (c : BitVec 6) (t : Tile) : bf 0 2 (encTile c t) = 3#2 ∧ bf 2 6 (encTile c t) = c ∧ bf 50 14 (encTile c t) = 0#14 := by
  have := t.bounds
  have := c.isLt
  have e : (3#2).toNat = 3 := rfl
  have z : (0#14).toNat = 0 := rfl
  and_intros <;> refine bf_eq ?_ <;> rw [encTile_toNat] <;> omega

end Sys2Proof
end

