-- ==== Sys2Proof/Laws/Memory.lean ====
section
/-! SUPPORT. Memory: every operation keeps the canonical form; a byte read after a write; the bytes a write leaves alone. -/

namespace Sys2Proof.Machine

/-! ### One byte -/

/-- A list whose addresses lie above a bound also lies above a smaller one. -/
theorem cellsFrom_mono {c : List Host.Cell} {lo lo' : Option Nat} (h : cellsFrom lo c = true)
    (hle : ∀ a, (∀ l, lo = some l → l < a) → ∀ l, lo' = some l → l < a) : cellsFrom lo' c = true := by
  cases c with
  | nil => rfl
  | cons p t =>
    obtain ⟨a, b⟩ := p
    simp only [cellsFrom, Bool.and_eq_true] at h ⊢
    refine ⟨⟨?_, h.1.2⟩, h.2⟩
    cases lo' with
    | none => rfl
    | some l =>
      refine decide_eq_true (hle a ?_ l rfl)
      intro m hm
      subst hm
      exact of_decide_eq_true h.1.1

/-- A write keeps the canonical form above any bound it respects. -/
theorem cellSet_from (c : List Host.Cell) (k : Nat) (v : Byte) (lo : Option Nat) (hk : ∀ l, lo = some l → l < k)
    (h : cellsFrom lo c = true) : cellsFrom lo (cellSet c k v) = true := by
  induction c generalizing lo with
  | nil =>
    by_cases hv : v = 0
    · rw [cellSet, if_pos hv]; rfl
    · have hb : (v != 0) = true := by simpa using hv
      rw [cellSet, if_neg hv]
      cases lo with
      | none => simp only [cellsFrom, hb, Bool.and_true]
      | some l => simp only [cellsFrom, hb, hk l rfl, decide_true, Bool.and_true]
  | cons p t ih =>
    obtain ⟨a, b⟩ := p
    have hc := h
    simp only [cellsFrom, Bool.and_eq_true] at hc
    obtain ⟨⟨hlo, hb⟩, ht⟩ := hc
    simp only [cellSet]
    by_cases h1 : k < a
    · simp only [h1, if_true]
      by_cases hv : v = 0
      · simpa [hv] using h
      · have : (v != 0) = true := by simpa using hv
        simp only [hv, if_false, cellsFrom, this, hb, ht, h1, Bool.and_true, decide_true]
        cases lo with
        | none => rfl
        | some l => exact decide_eq_true (hk l rfl)
    · simp only [h1, if_false]
      by_cases h2 : a = k
      · subst h2
        simp only [if_true]
        by_cases hv : v = 0
        · simp only [hv, if_true]
          refine cellsFrom_mono ht ?_
          intro x hx l hl
          have h3 := hx a rfl
          subst hl
          have h4 : l < a := of_decide_eq_true hlo
          omega
        · have : (v != 0) = true := by simpa using hv
          simp only [hv, if_false, cellsFrom, this, ht, Bool.and_true]
          exact hlo
      · simp only [h2, if_false, cellsFrom, Bool.and_eq_true]
        exact ⟨⟨hlo, hb⟩, ih (some a) (fun l hl => by cases hl; omega) ht⟩

theorem cellSet_wf (c : List Host.Cell) (k : Nat) (v : Byte) (h : cellsFrom none c = true) :
    cellsFrom none (cellSet c k v) = true :=
  cellSet_from c k v none (fun _ h => nomatch h) h

theorem cellsSet_wf (c : List Host.Cell) (k : Nat) (bs : List Byte) (h : cellsFrom none c = true) :
    cellsFrom none (cellsSet c k bs) = true := by
  induction bs generalizing c k with
  | nil => exact h
  | cons b bs ih => exact ih _ _ (cellSet_wf c k b h)

/-- Below every listed address reads zero. -/
theorem cellGet_below (c : List Host.Cell) (a : Nat) (h : cellsFrom (some a) c = true) (k : Nat) (hk : k ≤ a) :
    cellGet c k = 0 := by
  induction c generalizing a with
  | nil => rfl
  | cons p t ih =>
    obtain ⟨x, b⟩ := p
    simp only [cellsFrom, Bool.and_eq_true, decide_eq_true_eq] at h
    have hx : ¬ (x = k) := by omega
    simp only [cellGet, hx, if_false]
    exact ih x h.2 (by omega)

/-- A byte read after a write. -/
theorem cellGet_cellSet (c : List Host.Cell) (lo : Option Nat) (h : cellsFrom lo c = true) (k : Nat) (v : Byte) (j : Nat) :
    cellGet (cellSet c k v) j = if j = k then v else cellGet c j := by
  induction c generalizing lo with
  | nil =>
    by_cases hv : v = 0
    · rw [cellSet, if_pos hv, cellGet, hv]
      split <;> rfl
    · rw [cellSet, if_neg hv]
      by_cases hj : k = j
      · simp only [cellGet, if_pos hj, if_pos hj.symm]
      · simp only [cellGet, if_neg hj, if_neg (fun e => hj e.symm : ¬ j = k)]
  | cons p t ih =>
    obtain ⟨a, b⟩ := p
    simp only [cellsFrom, Bool.and_eq_true] at h
    have ht := h.2
    simp only [cellSet]
    by_cases h1 : k < a
    · simp only [h1, if_true]
      by_cases hj : j = k
      · subst hj
        have e : ¬ (a = j) := by omega
        by_cases hv : v = 0
        · simp only [hv, if_true, cellGet, e, if_false]
          exact cellGet_below t a ht j (by omega)
        · simp only [if_neg hv, cellGet, if_true]
      · have e : ¬ (k = j) := fun x => hj x.symm
        by_cases hv : v = 0
        · simp only [if_pos hv, hj, if_false]
        · simp only [if_neg hv, hj, cellGet, e, if_false]
    · simp only [h1, if_false]
      by_cases h2 : a = k
      · subst h2
        simp only [if_true]
        by_cases hj : j = a
        · subst hj
          by_cases hv : v = 0
          · simp only [hv, if_true]
            exact cellGet_below t j ht j (Nat.le_refl j)
          · simp only [if_neg hv, cellGet, if_true]
        · have e : ¬ (a = j) := fun x => hj x.symm
          by_cases hv : v = 0
          · simp only [if_pos hv, hj, cellGet, e, if_false]
          · simp only [if_neg hv, hj, cellGet, e, if_false]
      · simp only [h2, if_false, cellGet]
        by_cases h3 : a = j
        · have e : ¬ (j = k) := by omega
          simp [h3, e]
        · simp only [h3, if_false]
          exact ih (some a) ht

/-! ### Bytes -/

/-- A byte read after bytes were written at rising addresses. -/
theorem cellGet_cellsSet (c : List Host.Cell) (h : cellsFrom none c = true) (k : Nat) (bs : List Byte) (j : Nat) :
    cellGet (cellsSet c k bs) j = if k ≤ j ∧ j < k + bs.length then (bs[j - k]?).getD 0 else cellGet c j := by
  induction bs generalizing c k with
  | nil =>
    have : ¬ (k ≤ j ∧ j < k + ([] : List Byte).length) := by simp
    rw [if_neg this]; rfl
  | cons b bs ih =>
    rw [cellsSet, ih _ (cellSet_wf c k b h), cellGet_cellSet c none h]
    simp only [List.length_cons]
    by_cases h1 : k + 1 ≤ j ∧ j < k + 1 + bs.length
    · have h2 : k ≤ j ∧ j < k + (bs.length + 1) := by omega
      have h3 : j - k = (j - (k + 1)) + 1 := by omega
      rw [if_pos h1, if_pos h2, h3, List.getElem?_cons_succ]
    · by_cases hj : j = k
      · subst hj
        have h2 : j ≤ j ∧ j < j + (bs.length + 1) := by omega
        rw [if_neg h1, if_pos rfl, if_pos h2, Nat.sub_self]; rfl
      · have h2 : ¬ (k ≤ j ∧ j < k + (bs.length + 1)) := by omega
        rw [if_neg h1, if_neg hj, if_neg h2]

theorem cellsGet_length (c : List Host.Cell) (k n : Nat) : (cellsGet c k n).length = n := by
  induction n generalizing k with
  | zero => rfl
  | succ n ih => simp [cellsGet, ih]

theorem cellsGet_getElem (c : List Host.Cell) (k n i : Nat) (h : i < n) : (cellsGet c k n)[i]? = some (cellGet c (k + i)) := by
  induction n generalizing k i with
  | zero => omega
  | succ n ih =>
    cases i with
    | zero => simp [cellsGet]
    | succ i =>
      simp only [cellsGet, List.getElem?_cons_succ]
      rw [ih (k + 1) i (by omega)]
      congr 2; omega

/-- Bytes written are the bytes read back. -/
theorem cellsGet_cellsSet (c : List Host.Cell) (h : cellsFrom none c = true) (k : Nat) (bs : List Byte) :
    cellsGet (cellsSet c k bs) k bs.length = bs := by
  apply List.ext_getElem?
  intro i
  by_cases hi : i < bs.length
  · rw [cellsGet_getElem _ _ _ _ hi, cellGet_cellsSet c h, if_pos (by omega), Nat.add_sub_cancel_left,
      List.getElem?_eq_getElem hi]
    rfl
  · rw [List.getElem?_eq_none (by rw [cellsGet_length]; omega), List.getElem?_eq_none (by omega)]

/-- Bytes outside a write read as before. -/
theorem cellsGet_other (c : List Host.Cell) (h : cellsFrom none c = true) (k : Nat) (bs : List Byte) (j n : Nat)
    (hd : j + n ≤ k ∨ k + bs.length ≤ j) : cellsGet (cellsSet c k bs) j n = cellsGet c j n := by
  induction n generalizing j with
  | zero => rfl
  | succ n ih =>
    rw [cellsGet, cellsGet, ih (j + 1) (by omega), cellGet_cellsSet c h, if_neg (by omega)]

/-! ### Lines -/

theorem linesFrom_mono {c : List (Nat × LineMeta)} {lo lo' : Option Nat} (h : linesFrom lo c = true)
    (hle : ∀ a, (∀ l, lo = some l → l < a) → ∀ l, lo' = some l → l < a) : linesFrom lo' c = true := by
  cases c with
  | nil => rfl
  | cons p t =>
    obtain ⟨a, b⟩ := p
    simp only [linesFrom, Bool.and_eq_true] at h ⊢
    refine ⟨⟨?_, h.1.2⟩, h.2⟩
    cases lo' with
    | none => rfl
    | some l =>
      refine decide_eq_true (hle a ?_ l rfl)
      intro m hm
      subst hm
      exact of_decide_eq_true h.1.1

theorem lineSet_from (c : List (Nat × LineMeta)) (k : Nat) (v : LineMeta) (lo : Option Nat) (hk : ∀ l, lo = some l → l < k)
    (h : linesFrom lo c = true) : linesFrom lo (lineSet c k v) = true := by
  induction c generalizing lo with
  | nil =>
    by_cases hv : v = LineMeta.clean
    · rw [lineSet, if_pos hv]; rfl
    · have hb : (v != LineMeta.clean) = true := by simpa using hv
      rw [lineSet, if_neg hv]
      cases lo with
      | none => simp only [linesFrom, hb, Bool.and_true]
      | some l => simp only [linesFrom, hb, hk l rfl, decide_true, Bool.and_true]
  | cons p t ih =>
    obtain ⟨a, b⟩ := p
    have hc := h
    simp only [linesFrom, Bool.and_eq_true] at hc
    obtain ⟨⟨hlo, hb⟩, ht⟩ := hc
    simp only [lineSet]
    by_cases h1 : k < a
    · simp only [h1, if_true]
      by_cases hv : v = LineMeta.clean
      · simpa [hv] using h
      · have : (v != LineMeta.clean) = true := by simpa using hv
        simp only [hv, if_false, linesFrom, this, hb, ht, h1, Bool.and_true, decide_true]
        cases lo with
        | none => rfl
        | some l => exact decide_eq_true (hk l rfl)
    · simp only [h1, if_false]
      by_cases h2 : a = k
      · subst h2
        simp only [if_true]
        by_cases hv : v = LineMeta.clean
        · simp only [hv, if_true]
          refine linesFrom_mono ht ?_
          intro x hx l hl
          have h3 := hx a rfl
          subst hl
          have h4 : l < a := of_decide_eq_true hlo
          omega
        · have : (v != LineMeta.clean) = true := by simpa using hv
          simp only [hv, if_false, linesFrom, this, ht, Bool.and_true]
          exact hlo
      · simp only [h2, if_false, linesFrom, Bool.and_eq_true]
        exact ⟨⟨hlo, hb⟩, ih (some a) (fun l hl => by cases hl; omega) ht⟩

/-! ### Whole memory -/

theorem Mem.wf_iff (m : Mem) : m.wf = true ↔ cellsFrom none m.cells = true ∧ linesFrom none m.lines = true := by
  simp [Mem.wf]

theorem Mem.store_wf {m : Mem} (h : m.wf = true) (k : Nat) (bs : List Byte) : (m.store k bs).wf = true := by
  rw [Mem.wf_iff] at h ⊢
  exact ⟨cellsSet_wf _ _ _ h.1, h.2⟩

theorem Mem.setLine_wf {m : Mem} (h : m.wf = true) (l : Nat) (v : LineMeta) : (m.setLine l v).wf = true := by
  rw [Mem.wf_iff] at h ⊢
  exact ⟨h.1, lineSet_from _ _ _ none (fun _ e => nomatch e) h.2⟩

/-- Bytes stored are the bytes read back. -/
theorem Mem.bytes_store {m : Mem} (h : m.wf = true) (k : Nat) (bs : List Byte) : (m.store k bs).bytes k bs.length = bs :=
  cellsGet_cellsSet _ ((m.wf_iff.mp h).1) k bs

/-- Bytes outside a store read as before. -/
theorem Mem.bytes_store_other {m : Mem} (h : m.wf = true) (k : Nat) (bs : List Byte) (j n : Nat)
    (hd : j + n ≤ k ∨ k + bs.length ≤ j) : (m.store k bs).bytes j n = m.bytes j n :=
  cellsGet_other _ ((m.wf_iff.mp h).1) k bs j n hd

@[simp] theorem Mem.setLine_cells (m : Mem) (l : Nat) (v : LineMeta) : (m.setLine l v).cells = m.cells := rfl
@[simp] theorem Mem.setLine_bytes (m : Mem) (l : Nat) (v : LineMeta) (k n : Nat) : (m.setLine l v).bytes k n = m.bytes k n := rfl
@[simp] theorem Mem.store_lines (m : Mem) (k : Nat) (bs : List Byte) : (m.store k bs).lines = m.lines := rfl
@[simp] theorem Mem.store_line (m : Mem) (k : Nat) (bs : List Byte) (l : Nat) : (m.store k bs).line l = m.line l := rfl

end Sys2Proof.Machine
end

