-- ==== Sys2Proof/Laws/Monad.lean ====
section
/-! SUPPORT. Running a computation over the state, step by step. -/

namespace Sys2Proof.Machine

variable {α β : Type} (s : State)

@[simp] theorem M.on_pure (a : α) : M.on (pure a) s = (.ok a, s) := rfl
@[simp] theorem M.on_get : M.on get s = (.ok s, s) := rfl
@[simp] theorem M.on_set (t : State) : M.on (set t) s = (.ok ⟨⟩, t) := rfl
@[simp] theorem M.on_modify (f : State → State) : M.on (modify f) s = (.ok ⟨⟩, f s) := rfl
@[simp] theorem M.on_throw (e : Stop) : M.on (throw e : M α) s = (.error e, s) := rfl
@[simp] theorem M.on_raise (c : Nat) (v i : Word) : M.on (raise c v i : M α) s = (.error (.trap c v i), s) := rfl

/-- A computation and then another. -/
theorem M.on_bind (m : M α) (f : α → M β) : M.on (m >>= f) s =
    match M.on m s with
    | (.ok a, t) => M.on (f a) t
    | (.error e, t) => (.error e, t) := by
  show (ExceptT.bind m f).run s = _
  simp only [ExceptT.bind, ExceptT.mk]
  show StateT.bind m (ExceptT.bindCont f) s = _
  simp only [StateT.bind, M.on, ExceptT.run, StateT.run]
  show (match m s with | (a, s') => _) = _
  rcases h : m s with ⟨r, t⟩
  cases r <;> rfl

theorem M.on_bind_ok {m : M α} {s t : State} {a : α} (h : M.on m s = (.ok a, t)) (f : α → M β) :
    M.on (m >>= f) s = M.on (f a) t := by rw [M.on_bind, h]

theorem M.on_bind_error {m : M α} {s t : State} {e : Stop} (h : M.on m s = (.error e, t)) (f : α → M β) :
    M.on (m >>= f) s = (.error e, t) := by rw [M.on_bind, h]

/-- A computation whose result is used by a function. -/
theorem M.on_map (m : M α) (f : α → β) : M.on (f <$> m) s =
    match M.on m s with
    | (.ok a, t) => (.ok (f a), t)
    | (.error e, t) => (.error e, t) := by
  show (ExceptT.map f m).run s = _
  simp only [ExceptT.map, ExceptT.mk]
  show StateT.bind m (fun r => _) s = _
  simp only [StateT.bind, M.on, ExceptT.run, StateT.run]
  show (match m s with | (a, s') => _) = _
  rcases h : m s with ⟨r, t⟩
  cases r <;> rfl

theorem M.on_ite (c : Prop) [Decidable c] (m n : M α) : M.on (if c then m else n) s = if c then M.on m s else M.on n s := by
  split <;> rfl

/-- A stop taken as a value. -/
theorem M.on_attempt (m : M Unit) : M.on (attempt m) s =
    match M.on m s with
    | (.ok _, t) => (.ok none, t)
    | (.error e, t) => (.ok (some e), t) := by
  have h1 : (m >>= fun _ => (pure none : M (Option Stop)) : M (Option Stop)) s = _ :=
    M.on_bind s m (fun _ => (pure none : M (Option Stop)))
  simp only [attempt, tryCatch, tryCatchThe, MonadExceptOf.tryCatch, ExceptT.tryCatch, ExceptT.mk, M.on, ExceptT.run, StateT.run]
  simp only [bind, StateT.bind] at h1 ⊢
  rw [h1]
  rcases h2 : M.on m s with ⟨r, t⟩
  have h3 : m s = (r, t) := h2
  rw [h3]
  cases r <;> rfl

/-- Running an instruction whose computation ends. -/
theorem State.run_ok {s t : State} {m : M Unit} (h : M.on m s = (.ok ⟨⟩, t)) : s.run m = .next t := by
  rw [State.run, h]

/-- Running an instruction whose computation stops. -/
theorem State.run_error {s t : State} {m : M Unit} {e : Stop} (h : M.on m s = (.error e, t)) :
    s.run m = .next (t.stopWith e) := by
  rw [State.run, h]

end Sys2Proof.Machine
end

