-- ==== Sys2Proof/Laws/Translate.lean ====
section
/-! SUPPORT. Where an access lands when nothing is read to find out: an address that bypasses translation, and one whose
translation the core holds. -/

namespace Sys2Proof.Machine

/-- A bypassed address lands at its own offset in this package (R276). -/
theorem resolve_bypass (c : Ctx) (va : Word) (kind : Kind) (lg : Nat) (hw : inWindow va = false) (hc : canonical va = true)
    (hb : (c.dm && field c.ptroot 12 30 == 0) = true) (ha : va.toNat < 2 ^ 42) (hn : inNone va.toNat = false) (s : State) :
    (resolve c va kind lg).on s = (.ok (⟨s.pkg * 2 ^ 42 + va.toNat, 0, false, false, false⟩, none), s) := by
  simp only [resolve, hw, hc, hb, ha, hn, M.on_bind, M.on_get, M.on_pure, Bool.false_eq_true, Bool.not_true, if_true, if_false]

/-- An address whose translation the core holds lands where that says, its permissions passing (R278, R284). -/
theorem resolve_held (c : Ctx) (va : Word) (kind : Kind) (lg : Nat) (t : TlbEntry) (s : State) (hw : inWindow va = false)
    (hc : canonical va = true) (hb : (c.dm && field c.ptroot 12 30 == 0) = false) (hh : s.held c va = some t)
    (hp : (checkPerm c t va kind lg).on s = (.ok (), s)) :
    (resolve c va kind lg).on s =
      (.ok (⟨t.phys va, natBits t.attrs 8 4, natBits t.attrs 12 1 == 1, natBits t.attrs 13 1 == 1, false⟩, some t), s) := by
  simp only [resolve, hw, hc, hb, hh, hp, M.on_bind, M.on_get, M.on_pure, Bool.false_eq_true, Bool.not_true, if_false]

/-- A translation that sets no `D` leaves the state as finding the place left it (R282). -/
theorem translate_of_resolve {c : Ctx} {va : Word} {kind : Kind} {lg : Nat} {x : Xlat} {t : Option TlbEntry} {s u : State}
    (h : (resolve c va kind lg).on s = (.ok (x, t), u)) (hd : (dirtyM c va t).on u = (.ok (), u)) (dirty : Bool) :
    (translate c va kind lg dirty).on s = (.ok x, u) := by
  simp only [translate, M.on_bind, h, M.on_ite, M.on_pure]
  split <;> simp_all

/-- No `D` is set without a translation (R282). -/
theorem dirtyM_none (c : Ctx) (va : Word) (s : State) : (dirtyM c va none).on s = (.ok (), s) := rfl

/-- No `D` is set twice (R282). -/
theorem dirtyM_set {c : Ctx} {va : Word} {t : TlbEntry} {s : State} (h : natBits t.dirty.toNat (t.page va) 1 = 1) :
    (dirtyM c va (some t)).on s = (.ok (), s) := by
  simp only [dirtyM, M.on_modify, State.markDirty, h, if_true]

end Sys2Proof.Machine
end

