-- ==== Sys2Proof/Laws/Home.lean ====
section
/-! SUPPORT. Reads and writes inside one undisturbed line, and what a table walk reads and writes there. -/

namespace Sys2Proof.Machine

/-- Writing a byte's own value keeps the cells. -/
theorem cellSet_same (c : List Host.Cell) (lo : Option Nat) (h : cellsFrom lo c = true) (k : Nat) : cellSet c k (cellGet c k) = c := by
  induction c generalizing lo with
  | nil => rfl
  | cons p t ih =>
    obtain ⟨a, b⟩ := p
    simp only [cellsFrom, Bool.and_eq_true] at h
    obtain ⟨⟨_, hb⟩, ht⟩ := h
    simp only [cellSet, cellGet]
    by_cases h1 : k < a
    · have h2 : a ≠ k := by omega
      simp only [h1, h2, if_true, if_false]
      rw [cellGet_below t a ht k (by omega)]
      rfl
    · by_cases h2 : a = k
      · have hv : b ≠ 0 := by simpa using hb
        subst h2
        simp only [Nat.lt_irrefl, if_true, if_false, if_neg hv]
      · simp only [h1, h2, if_false]
        rw [ih (some a) ht]

/-- Below the first line nothing is listed. -/
theorem assoc_lines_below (c : List (Nat × LineMeta)) (a : Nat) (h : linesFrom (some a) c = true) (k : Nat) (hk : k ≤ a) :
    assoc c k LineMeta.clean = LineMeta.clean := by
  induction c generalizing a with
  | nil => rfl
  | cons p t ih =>
    obtain ⟨b, m⟩ := p
    simp only [linesFrom, Bool.and_eq_true, decide_eq_true_eq] at h
    have hb : b ≠ k := by omega
    simp only [assoc, hb, if_false]
    exact ih b h.2 (by omega)

/-- Setting a line to what is known of it keeps the lines. -/
theorem lineSet_same (c : List (Nat × LineMeta)) (lo : Option Nat) (h : linesFrom lo c = true) (k : Nat) :
    lineSet c k (assoc c k LineMeta.clean) = c := by
  induction c generalizing lo with
  | nil => rfl
  | cons p t ih =>
    obtain ⟨a, b⟩ := p
    simp only [linesFrom, Bool.and_eq_true] at h
    obtain ⟨⟨_, hb⟩, ht⟩ := h
    simp only [lineSet, assoc]
    by_cases h1 : k < a
    · have h2 : a ≠ k := by omega
      simp only [h1, h2, if_true, if_false]
      rw [assoc_lines_below t a ht k (by omega)]
      rfl
    · by_cases h2 : a = k
      · have hv : b ≠ LineMeta.clean := by simpa using hb
        subst h2
        simp [hv]
      · simp only [h1, h2, if_false]
        rw [ih (some a) ht]

/-- A read inside an undisturbed line gives the stored bytes and changes nothing (R302). -/
theorem State.readAt_line {s : State} {k n : Nat} (hi : (s.mem.line (k / 64)).flips = [] ∧ (s.mem.line (k / 64)).marked = false)
    (hn : k % 64 + n ≤ 64) (src : Nat) : s.readAt k n src = (s.mem.bytes k n, 0, s) := by
  have hm : min n (64 - k % 64) = n := by omega
  simp only [State.readAt, State.readLines, hm, State.lineRead, State.readEffect, hi.1, hi.2, List.isEmpty_nil, Bool.not_false,
    Bool.and_self, if_true, Nat.le_refl, Bool.false_eq_true, if_false]

/-- Writing a byte's own value at an undisturbed line under its own tag changes nothing. -/
theorem State.writeAt_same {s : State} {k : Nat} (hw : s.mem.wf = true)
    (hi : (s.mem.line (k / 64)).flips = [] ∧ (s.mem.line (k / 64)).marked = false) :
    s.writeAt k [cellGet s.mem.cells k] none = s := by
  have hc := s.mem.wf_iff.mp hw
  have h1 : ([cellGet s.mem.cells k] : List Byte).length ≤ 64 - k % 64 := by simp only [List.length_singleton]; omega
  simp only [State.writeAt, State.writeLines, h1, if_true, State.writeLine, hi.1, hi.2, List.isEmpty_nil, Bool.not_false, Bool.and_self,
    Bool.or_true, Option.getD_none]
  have e1 : s.mem.store k [cellGet s.mem.cells k] = s.mem := by
    simp only [Mem.store, cellsSet, cellSet_same _ none hc.1]
  have e2 : (⟨(s.mem.line (k / 64)).tag, [], false, (s.mem.line (k / 64)).corr⟩ : LineMeta) = s.mem.line (k / 64) := by
    cases hl : s.mem.line (k / 64)
    rw [hl] at hi
    simp only at hi
    rw [hi.1, hi.2]
  rw [e1, e2]
  show { s with mem := ⟨s.mem.cells, lineSet s.mem.lines (k / 64) (assoc s.mem.lines (k / 64) LineMeta.clean)⟩ } = s
  rw [lineSet_same _ none hc.2]

/-- Reading a byte and writing it with bits that it has changes nothing. -/
theorem State.orAt_set {s : State} {k : Nat} {b : Byte} (hw : s.mem.wf = true)
    (hi : (s.mem.line (k / 64)).flips = [] ∧ (s.mem.line (k / 64)).marked = false)
    (hb : cellGet s.mem.cells k ||| b = cellGet s.mem.cells k) :
    s.orAt k b = s := by
  unfold State.orAt
  rw [State.readAt_line hi (by omega) 0]
  simp only [Mem.bytes, cellsGet, nth, List.getElem?_cons_zero, Option.getD_some, hb]
  exact State.writeAt_same hw hi

/-- A bit that a table byte has is not written again (R282). -/
theorem State.orByte_set {s : State} {l : Nat} {b : Byte} (hw : s.mem.wf = true)
    (hi : (s.mem.line ((s.pkg * 2 ^ 42 + l) / 64)).flips = [] ∧ (s.mem.line ((s.pkg * 2 ^ 42 + l) / 64)).marked = false)
    (hb : cellGet s.mem.cells (s.pkg * 2 ^ 42 + l) ||| b = cellGet s.mem.cells (s.pkg * 2 ^ 42 + l)) : s.orByte l b = s :=
  State.orAt_set hw hi hb

/-- A table word at an undisturbed line whose home answers reads as stored (R277). -/
theorem readTable_line {s : State} {die l n : Nat} (hr : s.reachable die (s.pkg * 2 ^ 42 + l) = true)
    (hi : (s.mem.line ((s.pkg * 2 ^ 42 + l) / 64)).flips = [] ∧ (s.mem.line ((s.pkg * 2 ^ 42 + l) / 64)).marked = false)
    (hn : (s.pkg * 2 ^ 42 + l) % 64 + n ≤ 64) (va : Word) (kind : Kind) (lg : Nat) :
    (readTable die va kind lg l n).on s = (.ok (ofBytes (s.mem.bytes (s.pkg * 2 ^ 42 + l) n)), s) := by
  simp only [readTable, readTwice, M.on_bind, M.on_get, hr, State.readAt_line hi hn 0, M.on_set, M.on_pure, M.on_ite,
    Bool.not_true, Bool.false_eq_true, if_false]
  rfl

/-- A field above a word's bits is zero. -/
theorem field_high {va : Word} {lo n : Nat} (h : va.toNat < 2 ^ lo) : field va lo n = 0 := by
  simp [field, natBits, Nat.shiftRight_eq_div_pow, Nat.div_eq_of_lt h]

/-- A level of a walk that goes on to the next table (R278). -/
theorem walkUpper_next {s : State} {c : Ctx} {va : Word} {kind : Kind} {lg n t e i : Nat} (hi : field va (12 + 9 * (n + 1 + 1)) 9 = i)
    (hm : inMemory t = true) (hr : (readTable c.die va kind lg (t + 8 * i) 8).on s = (.ok e, s))
    (he : natBits e 0 1 = 1 ∧ natBits e 7 1 = 0 ∧ s.malformed e (n + 1 + 1) = false) :
    (walkUpper c va kind lg (n + 2) t).on s = (walkUpper c va kind lg (n + 1) (natBits e 16 30 * 4096)).on s := by
  rw [walkUpper]
  simp only [hm, Bool.not_true, Bool.false_eq_true, if_false, hi]
  rw [M.on_bind_ok hr, if_neg (by rw [he.1]; exact Nat.one_ne_zero), M.on_bind_ok (M.on_get s), he.2.2, if_neg Bool.false_ne_true,
    he.2.1, if_neg Nat.zero_ne_one, if_neg (Nat.succ_ne_zero n)]

/-- A level of a walk that ends at a block (R278). -/
theorem walkUpper_block {s : State} {c : Ctx} {va : Word} {kind : Kind} {lg n t e i : Nat} (hi : field va (12 + 9 * (n + 1)) 9 = i)
    (hm : inMemory t = true) (hr : (readTable c.die va kind lg (t + 8 * i) 8).on s = (.ok e, s))
    (he : natBits e 0 1 = 1 ∧ natBits e 7 1 = 1 ∧ s.malformed e (n + 1) = false) :
    (walkUpper c va kind lg (n + 1) t).on s = (.ok (.inl ⟨c.asid, va.toNat / 2 ^ (12 + 9 * (n + 1)) * 2 ^ (12 + 9 * (n + 1)), 12 + 9 * (n + 1),
      natBits e 16 30, e % 2 ^ 14, s.homePkg (natBits e 52 12), none, t + 8 * i, BitVec.ofNat 8 (natBits e 6 1)⟩), s) := by
  rw [walkUpper]
  simp only [hm, Bool.not_true, Bool.false_eq_true, if_false, hi]
  rw [M.on_bind_ok hr, if_neg (by rw [he.1]; exact Nat.one_ne_zero), M.on_bind_ok (M.on_get s), he.2.2, if_neg Bool.false_ne_true,
    if_pos he.2.1, M.on_bind_ok (M.on_get s), M.on_pure]

/-- A walk that ends at a block. -/
theorem walk_block {s : State} {c : Ctx} {va : Word} {kind : Kind} {lg : Nat} {t : TlbEntry}
    (h : (walkUpper c va kind lg 4 (field c.ptroot 12 30 * 4096)).on s = (.ok (.inl t), s)) : (walk c va kind lg).on s = (.ok t, s) := by
  rw [walk, M.on_bind_ok h, M.on_pure]

/-- An address that no core holds lands where the walk for it says, its permissions passing and its `A` set (R278, R282). -/
theorem resolve_walked {c : Ctx} {va : Word} {kind : Kind} {lg : Nat} {t : TlbEntry} {s : State} (hw : inWindow va = false)
    (hc : canonical va = true) (hb : (c.dm && field c.ptroot 12 30 == 0) = false) (hh : s.held c va = none)
    (hk : (walk c va kind lg).on s = (.ok t, s)) (hp : (checkPerm c t va kind lg).on s = (.ok (), s)) (hi : s.install c t = s) :
    (resolve c va kind lg).on s =
      (.ok (⟨t.phys va, natBits t.attrs 8 4, natBits t.attrs 12 1 == 1, natBits t.attrs 13 1 == 1, false⟩, some t), s) := by
  simp only [resolve, hw, hc, hb, Bool.false_eq_true, Bool.not_true, if_false]
  rw [M.on_bind_ok (M.on_get s)]
  simp only [hh]
  rw [M.on_bind_ok hk, M.on_bind_ok hp, M.on_bind_ok (M.on_modify s _), hi, M.on_bind_ok (M.on_pure s t), M.on_pure]

end Sys2Proof.Machine
end

