-- ==== Sys2Proof/Laws/State.lean ====
section
/-! SUPPORT. What each update of the state leaves alone and what it sets, one lemma per field. -/

namespace Sys2Proof.Machine

@[simp] theorem Hart.wr_key (h : Hart) (d : Reg) (v : Word) : (h.wr d v).key = h.key := by unfold Hart.wr; split <;> rfl
@[simp] theorem Hart.wr_uid (h : Hart) (d : Reg) (v : Word) : (h.wr d v).uid = h.uid := by unfold Hart.wr; split <;> rfl
@[simp] theorem Hart.wr_gang (h : Hart) (d : Reg) (v : Word) : (h.wr d v).gang = h.gang := by unfold Hart.wr; split <;> rfl
@[simp] theorem Hart.wr_run (h : Hart) (d : Reg) (v : Word) : (h.wr d v).run = h.run := by unfold Hart.wr; split <;> rfl
@[simp] theorem Hart.wr_pc (h : Hart) (d : Reg) (v : Word) : (h.wr d v).pc = h.pc := by unfold Hart.wr; split <;> rfl
@[simp] theorem Hart.wr_priv (h : Hart) (d : Reg) (v : Word) : (h.wr d v).priv = h.priv := by unfold Hart.wr; split <;> rfl
@[simp] theorem Hart.wr_v (h : Hart) (d : Reg) (v : Word) : (h.wr d v).v = h.v := by unfold Hart.wr; split <;> rfl
@[simp] theorem Hart.wr_k (h : Hart) (d : Reg) (v : Word) : (h.wr d v).k = h.k := by unfold Hart.wr; split <;> rfl
@[simp] theorem Hart.wr_tb (h : Hart) (d : Reg) (v : Word) : (h.wr d v).tb = h.tb := by unfold Hart.wr; split <;> rfl
@[simp] theorem Hart.wr_tbn (h : Hart) (d : Reg) (v : Word) : (h.wr d v).tbn = h.tbn := by unfold Hart.wr; split <;> rfl
@[simp] theorem Hart.wr_vl (h : Hart) (d : Reg) (v : Word) : (h.wr d v).vl = h.vl := by unfold Hart.wr; split <;> rfl
@[simp] theorem Hart.wr_vcfg (h : Hart) (d : Reg) (v : Word) : (h.wr d v).vcfg = h.vcfg := by unfold Hart.wr; split <;> rfl
@[simp] theorem Hart.wr_rc (h : Hart) (d : Reg) (v : Word) : (h.wr d v).rc = h.rc := by unfold Hart.wr; split <;> rfl
@[simp] theorem Hart.wr_vsi (h : Hart) (d : Reg) (v : Word) : (h.wr d v).vsi = h.vsi := by unfold Hart.wr; split <;> rfl
@[simp] theorem Hart.wr_vsr (h : Hart) (d : Reg) (v : Word) : (h.wr d v).vsr = h.vsr := by unfold Hart.wr; split <;> rfl
@[simp] theorem Hart.wr_vsp (h : Hart) (d : Reg) (v : Word) : (h.wr d v).vsp = h.vsp := by unfold Hart.wr; split <;> rfl
@[simp] theorem Hart.wr_dl (h : Hart) (d : Reg) (v : Word) : (h.wr d v).dl = h.dl := by unfold Hart.wr; split <;> rfl
@[simp] theorem Hart.wr_dt (h : Hart) (d : Reg) (v : Word) : (h.wr d v).dt = h.dt := by unfold Hart.wr; split <;> rfl
@[simp] theorem Hart.wr_fflags (h : Hart) (d : Reg) (v : Word) : (h.wr d v).fflags = h.fflags := by unfold Hart.wr; split <;> rfl
@[simp] theorem Hart.wr_xlist (h : Hart) (d : Reg) (v : Word) : (h.wr d v).xlist = h.xlist := by unfold Hart.wr; split <;> rfl
@[simp] theorem Hart.wr_xcount (h : Hart) (d : Reg) (v : Word) : (h.wr d v).xcount = h.xcount := by unfold Hart.wr; split <;> rfl
@[simp] theorem Hart.wr_xlimit (h : Hart) (d : Reg) (v : Word) : (h.wr d v).xlimit = h.xlimit := by unfold Hart.wr; split <;> rfl
@[simp] theorem Hart.wr_mt (h : Hart) (d : Reg) (v : Word) : (h.wr d v).mt = h.mt := by unfold Hart.wr; split <;> rfl
@[simp] theorem Hart.wr_nt (h : Hart) (d : Reg) (v : Word) : (h.wr d v).nt = h.nt := by unfold Hart.wr; split <;> rfl
@[simp] theorem Hart.wr_kt (h : Hart) (d : Reg) (v : Word) : (h.wr d v).kt = h.kt := by unfold Hart.wr; split <;> rfl
@[simp] theorem Hart.wr_mm (h : Hart) (d : Reg) (v : Word) : (h.wr d v).mm = h.mm := by unfold Hart.wr; split <;> rfl
@[simp] theorem Hart.wr_yld (h : Hart) (d : Reg) (v : Word) : (h.wr d v).yld = h.yld := by unfold Hart.wr; split <;> rfl
@[simp] theorem Hart.wr_gangSize (h : Hart) (d : Reg) (v : Word) : (h.wr d v).gangSize = h.gangSize := by unfold Hart.wr; split <;> rfl
@[simp] theorem Hart.wr_member (h : Hart) (d : Reg) (v : Word) : (h.wr d v).member = h.member := by unfold Hart.wr; split <;> rfl
@[simp] theorem Hart.wr_gangIdx (h : Hart) (d : Reg) (v : Word) : (h.wr d v).gangIdx = h.gangIdx := by unfold Hart.wr; split <;> rfl
@[simp] theorem Hart.wr_cycle (h : Hart) (d : Reg) (v : Word) : (h.wr d v).cycle = h.cycle := by unfold Hart.wr; split <;> rfl
@[simp] theorem Hart.wr_event (h : Hart) (d : Reg) (v : Word) : (h.wr d v).event = h.event := by unfold Hart.wr; split <;> rfl
@[simp] theorem Hart.wr_evmask (h : Hart) (d : Reg) (v : Word) : (h.wr d v).evmask = h.evmask := by unfold Hart.wr; split <;> rfl
@[simp] theorem Hart.wr_timecmp (h : Hart) (d : Reg) (v : Word) : (h.wr d v).timecmp = h.timecmp := by unfold Hart.wr; split <;> rfl
@[simp] theorem Hart.wr_grove (h : Hart) (d : Reg) (v : Word) : (h.wr d v).grove = h.grove := by unfold Hart.wr; split <;> rfl
@[simp] theorem Hart.wr_sppart (h : Hart) (d : Reg) (v : Word) : (h.wr d v).sppart = h.sppart := by unfold Hart.wr; split <;> rfl
@[simp] theorem Hart.wr_nbar (h : Hart) (d : Reg) (v : Word) : (h.wr d v).nbar = h.nbar := by unfold Hart.wr; split <;> rfl
@[simp] theorem Hart.wr_tvec (h : Hart) (d : Reg) (v : Word) : (h.wr d v).tvec = h.tvec := by unfold Hart.wr; split <;> rfl
@[simp] theorem Hart.wr_tcause (h : Hart) (d : Reg) (v : Word) : (h.wr d v).tcause = h.tcause := by unfold Hart.wr; split <;> rfl
@[simp] theorem Hart.wr_tval (h : Hart) (d : Reg) (v : Word) : (h.wr d v).tval = h.tval := by unfold Hart.wr; split <;> rfl
@[simp] theorem Hart.wr_tpc (h : Hart) (d : Reg) (v : Word) : (h.wr d v).tpc = h.tpc := by unfold Hart.wr; split <;> rfl
@[simp] theorem Hart.wr_tinfo (h : Hart) (d : Reg) (v : Word) : (h.wr d v).tinfo = h.tinfo := by unfold Hart.wr; split <;> rfl
@[simp] theorem Hart.wr_ih (h : Hart) (d : Reg) (v : Word) : (h.wr d v).ih = h.ih := by unfold Hart.wr; split <;> rfl
@[simp] theorem Hart.wr_pprv (h : Hart) (d : Reg) (v : Word) : (h.wr d v).pprv = h.pprv := by unfold Hart.wr; split <;> rfl
@[simp] theorem Hart.wr_tscr (h : Hart) (d : Reg) (v : Word) : (h.wr d v).tscr = h.tscr := by unfold Hart.wr; split <;> rfl
@[simp] theorem Hart.wr_tsave (h : Hart) (d : Reg) (v : Word) : (h.wr d v).tsave = h.tsave := by unfold Hart.wr; split <;> rfl
@[simp] theorem Hart.wr_ptroot (h : Hart) (d : Reg) (v : Word) : (h.wr d v).ptroot = h.ptroot := by unfold Hart.wr; split <;> rfl
@[simp] theorem Hart.wr_asid (h : Hart) (d : Reg) (v : Word) : (h.wr d v).asid = h.asid := by unfold Hart.wr; split <;> rfl
@[simp] theorem Hart.wr_energyHi (h : Hart) (d : Reg) (v : Word) : (h.wr d v).energyHi = h.energyHi := by unfold Hart.wr; split <;> rfl
@[simp] theorem Hart.wr_tokens (h : Hart) (d : Reg) (v : Word) : (h.wr d v).tokens = h.tokens := by unfold Hart.wr; split <;> rfl
@[simp] theorem Hart.wr_binds (h : Hart) (d : Reg) (v : Word) : (h.wr d v).binds = h.binds := by unfold Hart.wr; split <;> rfl
@[simp] theorem Hart.wr_eng (h : Hart) (d : Reg) (v : Word) : (h.wr d v).eng = h.eng := by unfold Hart.wr; split <;> rfl
@[simp] theorem Hart.wr_pv (h : Hart) (d : Reg) (v : Word) : (h.wr d v).pv = h.pv := by unfold Hart.wr; split <;> rfl
@[simp] theorem Hart.wr_pg (h : Hart) (d : Reg) (v : Word) : (h.wr d v).pg = h.pg := by unfold Hart.wr; split <;> rfl
@[simp] theorem Hart.wr_viq (h : Hart) (d : Reg) (v : Word) : (h.wr d v).viq = h.viq := by unfold Hart.wr; split <;> rfl
@[simp] theorem Hart.wr_front (h : Hart) (d : Reg) (v : Word) : (h.wr d v).front = h.front := by unfold Hart.wr; split <;> rfl
@[simp] theorem Hart.wr_ahead (h : Hart) (d : Reg) (v : Word) : (h.wr d v).ahead = h.ahead := by unfold Hart.wr; split <;> rfl
@[simp] theorem Hart.wr_late (h : Hart) (d : Reg) (v : Word) : (h.wr d v).late = h.late := by unfold Hart.wr; split <;> rfl
@[simp] theorem Hart.wr_pend (h : Hart) (d : Reg) (v : Word) : (h.wr d v).pend = h.pend := by unfold Hart.wr; split <;> rfl
@[simp] theorem Hart.wr_laneFree (h : Hart) (d : Reg) (v : Word) : (h.wr d v).laneFree = h.laneFree := by unfold Hart.wr; split <;> rfl
@[simp] theorem Hart.wr_ready (h : Hart) (d : Reg) (v : Word) : (h.wr d v).ready = h.ready := by unfold Hart.wr; split <;> rfl
@[simp] theorem Hart.wr_lost (h : Hart) (d : Reg) (v : Word) : (h.wr d v).lost = h.lost := by unfold Hart.wr; split <;> rfl
@[simp] theorem Hart.wr_upset (h : Hart) (d : Reg) (v : Word) : (h.wr d v).upset = h.upset := by unfold Hart.wr; split <;> rfl
@[simp] theorem Hart.wr_wait (h : Hart) (d : Reg) (v : Word) : (h.wr d v).wait = h.wait := by unfold Hart.wr; split <;> rfl
@[simp] theorem Hart.wr_saved (h : Hart) (d : Reg) (v : Word) : (h.wr d v).saved = h.saved := by unfold Hart.wr; split <;> rfl
@[simp] theorem Hart.wr_zero (h : Hart) (v : Word) : h.wr 0 v = h := rfl
theorem Hart.wr_x (h : Hart) (d : Reg) (v : Word) : (h.wr d v).x = if d = 0 then h.x else h.x.set d.toNat v d.isLt := by
  unfold Hart.wr; split <;> rfl
@[simp] theorem Hart.rd_zero (h : Hart) : h.rd 0 = 0 := rfl
/-- A register read after a write: the value, unless it is `s0`. -/
theorem Hart.rd_wr (h : Hart) (d r : Reg) (v : Word) : (h.wr d v).rd r = if r = d ∧ d ≠ 0 then v else h.rd r := by
  by_cases hr : r = 0
  · subst hr
    by_cases hd : d = 0
    · subst hd; rfl
    · have : ¬ ((0 : Reg) = d ∧ d ≠ 0) := fun e => e.2 e.1.symm
      rw [if_neg this]; rfl
  · by_cases hd : d = 0
    · subst hd
      rw [if_neg (fun e => e.2 rfl), Hart.wr_zero]
    · have e : h.wr d v = { h with x := h.x.set d.toNat v d.isLt } := if_neg hd
      rw [e]
      unfold Hart.rd
      rw [if_neg hr, if_neg hr]
      by_cases he : r = d
      · subst he
        rw [if_pos ⟨rfl, hd⟩]
        exact Vector.getElem_set_self _
      · rw [if_neg (fun e => he e.1)]
        exact Vector.getElem_set_ne d.isLt r.isLt fun h => he (BitVec.eq_of_toNat_eq h.symm)
@[simp] theorem State.wr_h (s : State) (d : Reg) (v : Word) : (s.wr d v).h = s.h.wr d v := rfl
@[simp] theorem State.wr_others (s : State) (d : Reg) (v : Word) : (s.wr d v).others = s.others := rfl
@[simp] theorem State.wr_mem (s : State) (d : Reg) (v : Word) : (s.wr d v).mem = s.mem := rfl
@[simp] theorem State.wr_cores (s : State) (d : Reg) (v : Word) : (s.wr d v).cores = s.cores := rfl
@[simp] theorem State.wr_flues (s : State) (d : Reg) (v : Word) : (s.wr d v).flues = s.flues := rfl
@[simp] theorem State.wr_clusters (s : State) (d : Reg) (v : Word) : (s.wr d v).clusters = s.clusters := rfl
@[simp] theorem State.wr_dies (s : State) (d : Reg) (v : Word) : (s.wr d v).dies = s.dies := rfl
@[simp] theorem State.wr_launches (s : State) (d : Reg) (v : Word) : (s.wr d v).launches = s.launches := rfl
@[simp] theorem State.wr_gangs (s : State) (d : Reg) (v : Word) : (s.wr d v).gangs = s.gangs := rfl
@[simp] theorem State.wr_groves (s : State) (d : Reg) (v : Word) : (s.wr d v).groves = s.groves := rfl
@[simp] theorem State.wr_accounts (s : State) (d : Reg) (v : Word) : (s.wr d v).accounts = s.accounts := rfl
@[simp] theorem State.wr_cmds (s : State) (d : Reg) (v : Word) : (s.wr d v).cmds = s.cmds := rfl
@[simp] theorem State.wr_joins (s : State) (d : Reg) (v : Word) : (s.wr d v).joins = s.joins := rfl
@[simp] theorem State.wr_keys (s : State) (d : Reg) (v : Word) : (s.wr d v).keys = s.keys := rfl
@[simp] theorem State.wr_badPages (s : State) (d : Reg) (v : Word) : (s.wr d v).badPages = s.badPages := rfl
@[simp] theorem State.wr_ticks (s : State) (d : Reg) (v : Word) : (s.wr d v).ticks = s.ticks := rfl
@[simp] theorem State.wr_time0 (s : State) (d : Reg) (v : Word) : (s.wr d v).time0 = s.time0 := rfl
@[simp] theorem State.wr_caphead (s : State) (d : Reg) (v : Word) : (s.wr d v).caphead = s.caphead := rfl
@[simp] theorem State.wr_energyCount (s : State) (d : Reg) (v : Word) : (s.wr d v).energyCount = s.energyCount := rfl
@[simp] theorem State.wr_attested (s : State) (d : Reg) (v : Word) : (s.wr d v).attested = s.attested := rfl
@[simp] theorem State.wr_remoteLists (s : State) (d : Reg) (v : Word) : (s.wr d v).remoteLists = s.remoteLists := rfl
@[simp] theorem State.wr_felledAway (s : State) (d : Reg) (v : Word) : (s.wr d v).felledAway = s.felledAway := rfl
@[simp] theorem State.wr_fabUp (s : State) (d : Reg) (v : Word) : (s.wr d v).fabUp = s.fabUp := rfl
@[simp] theorem State.wr_fabSize (s : State) (d : Reg) (v : Word) : (s.wr d v).fabSize = s.fabSize := rfl
@[simp] theorem State.wr_pkg (s : State) (d : Reg) (v : Word) : (s.wr d v).pkg = s.pkg := rfl
@[simp] theorem State.wr_unreachable (s : State) (d : Reg) (v : Word) : (s.wr d v).unreachable = s.unreachable := rfl
@[simp] theorem State.wr_deadLinks (s : State) (d : Reg) (v : Word) : (s.wr d v).deadLinks = s.deadLinks := rfl
@[simp] theorem State.wr_cxl256 (s : State) (d : Reg) (v : Word) : (s.wr d v).cxl256 = s.cxl256 := rfl
@[simp] theorem State.wr_shut (s : State) (d : Reg) (v : Word) : (s.wr d v).shut = s.shut := rfl
@[simp] theorem State.wr_agenda (s : State) (d : Reg) (v : Word) : (s.wr d v).agenda = s.agenda := rfl
@[simp] theorem State.wr_nextId (s : State) (d : Reg) (v : Word) : (s.wr d v).nextId = s.nextId := rfl
@[simp] theorem State.wr_freeCount (s : State) (d : Reg) (v : Word) : (s.wr d v).freeCount = s.freeCount := rfl
@[simp] theorem State.adv_h (s : State) (n : Word) : (s.adv n).h = { s.h with pc := s.h.pc + n } := rfl
@[simp] theorem State.adv_others (s : State) (n : Word) : (s.adv n).others = s.others := rfl
@[simp] theorem State.adv_mem (s : State) (n : Word) : (s.adv n).mem = s.mem := rfl
@[simp] theorem State.adv_cores (s : State) (n : Word) : (s.adv n).cores = s.cores := rfl
@[simp] theorem State.adv_flues (s : State) (n : Word) : (s.adv n).flues = s.flues := rfl
@[simp] theorem State.adv_clusters (s : State) (n : Word) : (s.adv n).clusters = s.clusters := rfl
@[simp] theorem State.adv_dies (s : State) (n : Word) : (s.adv n).dies = s.dies := rfl
@[simp] theorem State.adv_launches (s : State) (n : Word) : (s.adv n).launches = s.launches := rfl
@[simp] theorem State.adv_gangs (s : State) (n : Word) : (s.adv n).gangs = s.gangs := rfl
@[simp] theorem State.adv_groves (s : State) (n : Word) : (s.adv n).groves = s.groves := rfl
@[simp] theorem State.adv_accounts (s : State) (n : Word) : (s.adv n).accounts = s.accounts := rfl
@[simp] theorem State.adv_cmds (s : State) (n : Word) : (s.adv n).cmds = s.cmds := rfl
@[simp] theorem State.adv_joins (s : State) (n : Word) : (s.adv n).joins = s.joins := rfl
@[simp] theorem State.adv_keys (s : State) (n : Word) : (s.adv n).keys = s.keys := rfl
@[simp] theorem State.adv_badPages (s : State) (n : Word) : (s.adv n).badPages = s.badPages := rfl
@[simp] theorem State.adv_ticks (s : State) (n : Word) : (s.adv n).ticks = s.ticks := rfl
@[simp] theorem State.adv_time0 (s : State) (n : Word) : (s.adv n).time0 = s.time0 := rfl
@[simp] theorem State.adv_caphead (s : State) (n : Word) : (s.adv n).caphead = s.caphead := rfl
@[simp] theorem State.adv_energyCount (s : State) (n : Word) : (s.adv n).energyCount = s.energyCount := rfl
@[simp] theorem State.adv_attested (s : State) (n : Word) : (s.adv n).attested = s.attested := rfl
@[simp] theorem State.adv_remoteLists (s : State) (n : Word) : (s.adv n).remoteLists = s.remoteLists := rfl
@[simp] theorem State.adv_felledAway (s : State) (n : Word) : (s.adv n).felledAway = s.felledAway := rfl
@[simp] theorem State.adv_fabUp (s : State) (n : Word) : (s.adv n).fabUp = s.fabUp := rfl
@[simp] theorem State.adv_fabSize (s : State) (n : Word) : (s.adv n).fabSize = s.fabSize := rfl
@[simp] theorem State.adv_pkg (s : State) (n : Word) : (s.adv n).pkg = s.pkg := rfl
@[simp] theorem State.adv_unreachable (s : State) (n : Word) : (s.adv n).unreachable = s.unreachable := rfl
@[simp] theorem State.adv_deadLinks (s : State) (n : Word) : (s.adv n).deadLinks = s.deadLinks := rfl
@[simp] theorem State.adv_cxl256 (s : State) (n : Word) : (s.adv n).cxl256 = s.cxl256 := rfl
@[simp] theorem State.adv_shut (s : State) (n : Word) : (s.adv n).shut = s.shut := rfl
@[simp] theorem State.adv_agenda (s : State) (n : Word) : (s.adv n).agenda = s.agenda := rfl
@[simp] theorem State.adv_nextId (s : State) (n : Word) : (s.adv n).nextId = s.nextId := rfl
@[simp] theorem State.adv_freeCount (s : State) (n : Word) : (s.adv n).freeCount = s.freeCount := rfl
@[simp] theorem State.goto_h (s : State) (a : Word) : (s.goto a).h = { s.h with pc := a } := rfl
@[simp] theorem State.goto_others (s : State) (a : Word) : (s.goto a).others = s.others := rfl
@[simp] theorem State.goto_mem (s : State) (a : Word) : (s.goto a).mem = s.mem := rfl
@[simp] theorem State.goto_cores (s : State) (a : Word) : (s.goto a).cores = s.cores := rfl
@[simp] theorem State.goto_flues (s : State) (a : Word) : (s.goto a).flues = s.flues := rfl
@[simp] theorem State.goto_clusters (s : State) (a : Word) : (s.goto a).clusters = s.clusters := rfl
@[simp] theorem State.goto_dies (s : State) (a : Word) : (s.goto a).dies = s.dies := rfl
@[simp] theorem State.goto_launches (s : State) (a : Word) : (s.goto a).launches = s.launches := rfl
@[simp] theorem State.goto_gangs (s : State) (a : Word) : (s.goto a).gangs = s.gangs := rfl
@[simp] theorem State.goto_groves (s : State) (a : Word) : (s.goto a).groves = s.groves := rfl
@[simp] theorem State.goto_accounts (s : State) (a : Word) : (s.goto a).accounts = s.accounts := rfl
@[simp] theorem State.goto_cmds (s : State) (a : Word) : (s.goto a).cmds = s.cmds := rfl
@[simp] theorem State.goto_joins (s : State) (a : Word) : (s.goto a).joins = s.joins := rfl
@[simp] theorem State.goto_keys (s : State) (a : Word) : (s.goto a).keys = s.keys := rfl
@[simp] theorem State.goto_badPages (s : State) (a : Word) : (s.goto a).badPages = s.badPages := rfl
@[simp] theorem State.goto_ticks (s : State) (a : Word) : (s.goto a).ticks = s.ticks := rfl
@[simp] theorem State.goto_time0 (s : State) (a : Word) : (s.goto a).time0 = s.time0 := rfl
@[simp] theorem State.goto_caphead (s : State) (a : Word) : (s.goto a).caphead = s.caphead := rfl
@[simp] theorem State.goto_energyCount (s : State) (a : Word) : (s.goto a).energyCount = s.energyCount := rfl
@[simp] theorem State.goto_attested (s : State) (a : Word) : (s.goto a).attested = s.attested := rfl
@[simp] theorem State.goto_remoteLists (s : State) (a : Word) : (s.goto a).remoteLists = s.remoteLists := rfl
@[simp] theorem State.goto_felledAway (s : State) (a : Word) : (s.goto a).felledAway = s.felledAway := rfl
@[simp] theorem State.goto_fabUp (s : State) (a : Word) : (s.goto a).fabUp = s.fabUp := rfl
@[simp] theorem State.goto_fabSize (s : State) (a : Word) : (s.goto a).fabSize = s.fabSize := rfl
@[simp] theorem State.goto_pkg (s : State) (a : Word) : (s.goto a).pkg = s.pkg := rfl
@[simp] theorem State.goto_unreachable (s : State) (a : Word) : (s.goto a).unreachable = s.unreachable := rfl
@[simp] theorem State.goto_deadLinks (s : State) (a : Word) : (s.goto a).deadLinks = s.deadLinks := rfl
@[simp] theorem State.goto_cxl256 (s : State) (a : Word) : (s.goto a).cxl256 = s.cxl256 := rfl
@[simp] theorem State.goto_shut (s : State) (a : Word) : (s.goto a).shut = s.shut := rfl
@[simp] theorem State.goto_agenda (s : State) (a : Word) : (s.goto a).agenda = s.agenda := rfl
@[simp] theorem State.goto_nextId (s : State) (a : Word) : (s.goto a).nextId = s.nextId := rfl
@[simp] theorem State.goto_freeCount (s : State) (a : Word) : (s.goto a).freeCount = s.freeCount := rfl
@[simp] theorem State.flag_h (s : State) (f : Flags) : (s.flag f).h = { s.h with fflags := s.h.fflags ||| f } := rfl
@[simp] theorem State.flag_others (s : State) (f : Flags) : (s.flag f).others = s.others := rfl
@[simp] theorem State.flag_mem (s : State) (f : Flags) : (s.flag f).mem = s.mem := rfl
@[simp] theorem State.flag_cores (s : State) (f : Flags) : (s.flag f).cores = s.cores := rfl
@[simp] theorem State.flag_flues (s : State) (f : Flags) : (s.flag f).flues = s.flues := rfl
@[simp] theorem State.flag_clusters (s : State) (f : Flags) : (s.flag f).clusters = s.clusters := rfl
@[simp] theorem State.flag_dies (s : State) (f : Flags) : (s.flag f).dies = s.dies := rfl
@[simp] theorem State.flag_launches (s : State) (f : Flags) : (s.flag f).launches = s.launches := rfl
@[simp] theorem State.flag_gangs (s : State) (f : Flags) : (s.flag f).gangs = s.gangs := rfl
@[simp] theorem State.flag_groves (s : State) (f : Flags) : (s.flag f).groves = s.groves := rfl
@[simp] theorem State.flag_accounts (s : State) (f : Flags) : (s.flag f).accounts = s.accounts := rfl
@[simp] theorem State.flag_cmds (s : State) (f : Flags) : (s.flag f).cmds = s.cmds := rfl
@[simp] theorem State.flag_joins (s : State) (f : Flags) : (s.flag f).joins = s.joins := rfl
@[simp] theorem State.flag_keys (s : State) (f : Flags) : (s.flag f).keys = s.keys := rfl
@[simp] theorem State.flag_badPages (s : State) (f : Flags) : (s.flag f).badPages = s.badPages := rfl
@[simp] theorem State.flag_ticks (s : State) (f : Flags) : (s.flag f).ticks = s.ticks := rfl
@[simp] theorem State.flag_time0 (s : State) (f : Flags) : (s.flag f).time0 = s.time0 := rfl
@[simp] theorem State.flag_caphead (s : State) (f : Flags) : (s.flag f).caphead = s.caphead := rfl
@[simp] theorem State.flag_energyCount (s : State) (f : Flags) : (s.flag f).energyCount = s.energyCount := rfl
@[simp] theorem State.flag_attested (s : State) (f : Flags) : (s.flag f).attested = s.attested := rfl
@[simp] theorem State.flag_remoteLists (s : State) (f : Flags) : (s.flag f).remoteLists = s.remoteLists := rfl
@[simp] theorem State.flag_felledAway (s : State) (f : Flags) : (s.flag f).felledAway = s.felledAway := rfl
@[simp] theorem State.flag_fabUp (s : State) (f : Flags) : (s.flag f).fabUp = s.fabUp := rfl
@[simp] theorem State.flag_fabSize (s : State) (f : Flags) : (s.flag f).fabSize = s.fabSize := rfl
@[simp] theorem State.flag_pkg (s : State) (f : Flags) : (s.flag f).pkg = s.pkg := rfl
@[simp] theorem State.flag_unreachable (s : State) (f : Flags) : (s.flag f).unreachable = s.unreachable := rfl
@[simp] theorem State.flag_deadLinks (s : State) (f : Flags) : (s.flag f).deadLinks = s.deadLinks := rfl
@[simp] theorem State.flag_cxl256 (s : State) (f : Flags) : (s.flag f).cxl256 = s.cxl256 := rfl
@[simp] theorem State.flag_shut (s : State) (f : Flags) : (s.flag f).shut = s.shut := rfl
@[simp] theorem State.flag_agenda (s : State) (f : Flags) : (s.flag f).agenda = s.agenda := rfl
@[simp] theorem State.flag_nextId (s : State) (f : Flags) : (s.flag f).nextId = s.nextId := rfl
@[simp] theorem State.flag_freeCount (s : State) (f : Flags) : (s.flag f).freeCount = s.freeCount := rfl
@[simp] theorem State.trapReturn_h (s : State) : s.trapReturn.h = { s.h with pc := s.h.tpc, vcfg := s.h.tsave, priv := s.h.pprv || s.h.key.dm, ih := false } := rfl
@[simp] theorem State.trapReturn_others (s : State) : s.trapReturn.others = s.others := rfl
@[simp] theorem State.trapReturn_mem (s : State) : s.trapReturn.mem = s.mem := rfl
@[simp] theorem State.trapReturn_cores (s : State) : s.trapReturn.cores = s.cores := rfl
@[simp] theorem State.trapReturn_flues (s : State) : s.trapReturn.flues = s.flues := rfl
@[simp] theorem State.trapReturn_clusters (s : State) : s.trapReturn.clusters = s.clusters := rfl
@[simp] theorem State.trapReturn_dies (s : State) : s.trapReturn.dies = s.dies := rfl
@[simp] theorem State.trapReturn_launches (s : State) : s.trapReturn.launches = s.launches := rfl
@[simp] theorem State.trapReturn_gangs (s : State) : s.trapReturn.gangs = s.gangs := rfl
@[simp] theorem State.trapReturn_groves (s : State) : s.trapReturn.groves = s.groves := rfl
@[simp] theorem State.trapReturn_accounts (s : State) : s.trapReturn.accounts = s.accounts := rfl
@[simp] theorem State.trapReturn_cmds (s : State) : s.trapReturn.cmds = s.cmds := rfl
@[simp] theorem State.trapReturn_joins (s : State) : s.trapReturn.joins = s.joins := rfl
@[simp] theorem State.trapReturn_keys (s : State) : s.trapReturn.keys = s.keys := rfl
@[simp] theorem State.trapReturn_badPages (s : State) : s.trapReturn.badPages = s.badPages := rfl
@[simp] theorem State.trapReturn_ticks (s : State) : s.trapReturn.ticks = s.ticks := rfl
@[simp] theorem State.trapReturn_time0 (s : State) : s.trapReturn.time0 = s.time0 := rfl
@[simp] theorem State.trapReturn_caphead (s : State) : s.trapReturn.caphead = s.caphead := rfl
@[simp] theorem State.trapReturn_energyCount (s : State) : s.trapReturn.energyCount = s.energyCount := rfl
@[simp] theorem State.trapReturn_attested (s : State) : s.trapReturn.attested = s.attested := rfl
@[simp] theorem State.trapReturn_remoteLists (s : State) : s.trapReturn.remoteLists = s.remoteLists := rfl
@[simp] theorem State.trapReturn_felledAway (s : State) : s.trapReturn.felledAway = s.felledAway := rfl
@[simp] theorem State.trapReturn_fabUp (s : State) : s.trapReturn.fabUp = s.fabUp := rfl
@[simp] theorem State.trapReturn_fabSize (s : State) : s.trapReturn.fabSize = s.fabSize := rfl
@[simp] theorem State.trapReturn_pkg (s : State) : s.trapReturn.pkg = s.pkg := rfl
@[simp] theorem State.trapReturn_unreachable (s : State) : s.trapReturn.unreachable = s.unreachable := rfl
@[simp] theorem State.trapReturn_deadLinks (s : State) : s.trapReturn.deadLinks = s.deadLinks := rfl
@[simp] theorem State.trapReturn_cxl256 (s : State) : s.trapReturn.cxl256 = s.cxl256 := rfl
@[simp] theorem State.trapReturn_shut (s : State) : s.trapReturn.shut = s.shut := rfl
@[simp] theorem State.trapReturn_agenda (s : State) : s.trapReturn.agenda = s.agenda := rfl
@[simp] theorem State.trapReturn_nextId (s : State) : s.trapReturn.nextId = s.nextId := rfl
@[simp] theorem State.trapReturn_freeCount (s : State) : s.trapReturn.freeCount = s.freeCount := rfl
@[simp] theorem State.passWait_h (s : State) : s.passWait.h = { s.h with wait := .none, pc := s.h.pc + 4 } := rfl
@[simp] theorem State.passWait_others (s : State) : s.passWait.others = s.others := rfl
@[simp] theorem State.passWait_mem (s : State) : s.passWait.mem = s.mem := rfl
@[simp] theorem State.passWait_cores (s : State) : s.passWait.cores = s.cores := rfl
@[simp] theorem State.passWait_flues (s : State) : s.passWait.flues = s.flues := rfl
@[simp] theorem State.passWait_clusters (s : State) : s.passWait.clusters = s.clusters := rfl
@[simp] theorem State.passWait_dies (s : State) : s.passWait.dies = s.dies := rfl
@[simp] theorem State.passWait_launches (s : State) : s.passWait.launches = s.launches := rfl
@[simp] theorem State.passWait_gangs (s : State) : s.passWait.gangs = s.gangs := rfl
@[simp] theorem State.passWait_groves (s : State) : s.passWait.groves = s.groves := rfl
@[simp] theorem State.passWait_accounts (s : State) : s.passWait.accounts = s.accounts := rfl
@[simp] theorem State.passWait_cmds (s : State) : s.passWait.cmds = s.cmds := rfl
@[simp] theorem State.passWait_joins (s : State) : s.passWait.joins = s.joins := rfl
@[simp] theorem State.passWait_keys (s : State) : s.passWait.keys = s.keys := rfl
@[simp] theorem State.passWait_badPages (s : State) : s.passWait.badPages = s.badPages := rfl
@[simp] theorem State.passWait_ticks (s : State) : s.passWait.ticks = s.ticks := rfl
@[simp] theorem State.passWait_time0 (s : State) : s.passWait.time0 = s.time0 := rfl
@[simp] theorem State.passWait_caphead (s : State) : s.passWait.caphead = s.caphead := rfl
@[simp] theorem State.passWait_energyCount (s : State) : s.passWait.energyCount = s.energyCount := rfl
@[simp] theorem State.passWait_attested (s : State) : s.passWait.attested = s.attested := rfl
@[simp] theorem State.passWait_remoteLists (s : State) : s.passWait.remoteLists = s.remoteLists := rfl
@[simp] theorem State.passWait_felledAway (s : State) : s.passWait.felledAway = s.felledAway := rfl
@[simp] theorem State.passWait_fabUp (s : State) : s.passWait.fabUp = s.fabUp := rfl
@[simp] theorem State.passWait_fabSize (s : State) : s.passWait.fabSize = s.fabSize := rfl
@[simp] theorem State.passWait_pkg (s : State) : s.passWait.pkg = s.pkg := rfl
@[simp] theorem State.passWait_unreachable (s : State) : s.passWait.unreachable = s.unreachable := rfl
@[simp] theorem State.passWait_deadLinks (s : State) : s.passWait.deadLinks = s.deadLinks := rfl
@[simp] theorem State.passWait_cxl256 (s : State) : s.passWait.cxl256 = s.cxl256 := rfl
@[simp] theorem State.passWait_shut (s : State) : s.passWait.shut = s.shut := rfl
@[simp] theorem State.passWait_agenda (s : State) : s.passWait.agenda = s.agenda := rfl
@[simp] theorem State.passWait_nextId (s : State) : s.passWait.nextId = s.nextId := rfl
@[simp] theorem State.passWait_freeCount (s : State) : s.passWait.freeCount = s.freeCount := rfl
@[simp] theorem State.setToken_h (s : State) (f n : Nat) : (s.setToken f n).h = { s.h with tokens := s.h.tokens.setIfInBounds f n } := rfl
@[simp] theorem State.setToken_others (s : State) (f n : Nat) : (s.setToken f n).others = s.others := rfl
@[simp] theorem State.setToken_mem (s : State) (f n : Nat) : (s.setToken f n).mem = s.mem := rfl
@[simp] theorem State.setToken_cores (s : State) (f n : Nat) : (s.setToken f n).cores = s.cores := rfl
@[simp] theorem State.setToken_flues (s : State) (f n : Nat) : (s.setToken f n).flues = s.flues := rfl
@[simp] theorem State.setToken_clusters (s : State) (f n : Nat) : (s.setToken f n).clusters = s.clusters := rfl
@[simp] theorem State.setToken_dies (s : State) (f n : Nat) : (s.setToken f n).dies = s.dies := rfl
@[simp] theorem State.setToken_launches (s : State) (f n : Nat) : (s.setToken f n).launches = s.launches := rfl
@[simp] theorem State.setToken_gangs (s : State) (f n : Nat) : (s.setToken f n).gangs = s.gangs := rfl
@[simp] theorem State.setToken_groves (s : State) (f n : Nat) : (s.setToken f n).groves = s.groves := rfl
@[simp] theorem State.setToken_accounts (s : State) (f n : Nat) : (s.setToken f n).accounts = s.accounts := rfl
@[simp] theorem State.setToken_cmds (s : State) (f n : Nat) : (s.setToken f n).cmds = s.cmds := rfl
@[simp] theorem State.setToken_joins (s : State) (f n : Nat) : (s.setToken f n).joins = s.joins := rfl
@[simp] theorem State.setToken_keys (s : State) (f n : Nat) : (s.setToken f n).keys = s.keys := rfl
@[simp] theorem State.setToken_badPages (s : State) (f n : Nat) : (s.setToken f n).badPages = s.badPages := rfl
@[simp] theorem State.setToken_ticks (s : State) (f n : Nat) : (s.setToken f n).ticks = s.ticks := rfl
@[simp] theorem State.setToken_time0 (s : State) (f n : Nat) : (s.setToken f n).time0 = s.time0 := rfl
@[simp] theorem State.setToken_caphead (s : State) (f n : Nat) : (s.setToken f n).caphead = s.caphead := rfl
@[simp] theorem State.setToken_energyCount (s : State) (f n : Nat) : (s.setToken f n).energyCount = s.energyCount := rfl
@[simp] theorem State.setToken_attested (s : State) (f n : Nat) : (s.setToken f n).attested = s.attested := rfl
@[simp] theorem State.setToken_remoteLists (s : State) (f n : Nat) : (s.setToken f n).remoteLists = s.remoteLists := rfl
@[simp] theorem State.setToken_felledAway (s : State) (f n : Nat) : (s.setToken f n).felledAway = s.felledAway := rfl
@[simp] theorem State.setToken_fabUp (s : State) (f n : Nat) : (s.setToken f n).fabUp = s.fabUp := rfl
@[simp] theorem State.setToken_fabSize (s : State) (f n : Nat) : (s.setToken f n).fabSize = s.fabSize := rfl
@[simp] theorem State.setToken_pkg (s : State) (f n : Nat) : (s.setToken f n).pkg = s.pkg := rfl
@[simp] theorem State.setToken_unreachable (s : State) (f n : Nat) : (s.setToken f n).unreachable = s.unreachable := rfl
@[simp] theorem State.setToken_deadLinks (s : State) (f n : Nat) : (s.setToken f n).deadLinks = s.deadLinks := rfl
@[simp] theorem State.setToken_cxl256 (s : State) (f n : Nat) : (s.setToken f n).cxl256 = s.cxl256 := rfl
@[simp] theorem State.setToken_shut (s : State) (f n : Nat) : (s.setToken f n).shut = s.shut := rfl
@[simp] theorem State.setToken_agenda (s : State) (f n : Nat) : (s.setToken f n).agenda = s.agenda := rfl
@[simp] theorem State.setToken_nextId (s : State) (f n : Nat) : (s.setToken f n).nextId = s.nextId := rfl
@[simp] theorem State.setToken_freeCount (s : State) (f n : Nat) : (s.setToken f n).freeCount = s.freeCount := rfl
@[simp] theorem State.putRow_h (s : State) (n grpc sewc : Nat) (row : Row) (poison : List Poison) : (s.putRow n grpc sewc row poison).h = s.h.putRow n grpc sewc row poison := rfl
@[simp] theorem State.putRow_others (s : State) (n grpc sewc : Nat) (row : Row) (poison : List Poison) : (s.putRow n grpc sewc row poison).others = s.others := rfl
@[simp] theorem State.putRow_mem (s : State) (n grpc sewc : Nat) (row : Row) (poison : List Poison) : (s.putRow n grpc sewc row poison).mem = s.mem := rfl
@[simp] theorem State.putRow_cores (s : State) (n grpc sewc : Nat) (row : Row) (poison : List Poison) : (s.putRow n grpc sewc row poison).cores = s.cores := rfl
@[simp] theorem State.putRow_flues (s : State) (n grpc sewc : Nat) (row : Row) (poison : List Poison) : (s.putRow n grpc sewc row poison).flues = s.flues := rfl
@[simp] theorem State.putRow_clusters (s : State) (n grpc sewc : Nat) (row : Row) (poison : List Poison) : (s.putRow n grpc sewc row poison).clusters = s.clusters := rfl
@[simp] theorem State.putRow_dies (s : State) (n grpc sewc : Nat) (row : Row) (poison : List Poison) : (s.putRow n grpc sewc row poison).dies = s.dies := rfl
@[simp] theorem State.putRow_launches (s : State) (n grpc sewc : Nat) (row : Row) (poison : List Poison) : (s.putRow n grpc sewc row poison).launches = s.launches := rfl
@[simp] theorem State.putRow_gangs (s : State) (n grpc sewc : Nat) (row : Row) (poison : List Poison) : (s.putRow n grpc sewc row poison).gangs = s.gangs := rfl
@[simp] theorem State.putRow_groves (s : State) (n grpc sewc : Nat) (row : Row) (poison : List Poison) : (s.putRow n grpc sewc row poison).groves = s.groves := rfl
@[simp] theorem State.putRow_accounts (s : State) (n grpc sewc : Nat) (row : Row) (poison : List Poison) : (s.putRow n grpc sewc row poison).accounts = s.accounts := rfl
@[simp] theorem State.putRow_cmds (s : State) (n grpc sewc : Nat) (row : Row) (poison : List Poison) : (s.putRow n grpc sewc row poison).cmds = s.cmds := rfl
@[simp] theorem State.putRow_joins (s : State) (n grpc sewc : Nat) (row : Row) (poison : List Poison) : (s.putRow n grpc sewc row poison).joins = s.joins := rfl
@[simp] theorem State.putRow_keys (s : State) (n grpc sewc : Nat) (row : Row) (poison : List Poison) : (s.putRow n grpc sewc row poison).keys = s.keys := rfl
@[simp] theorem State.putRow_badPages (s : State) (n grpc sewc : Nat) (row : Row) (poison : List Poison) : (s.putRow n grpc sewc row poison).badPages = s.badPages := rfl
@[simp] theorem State.putRow_ticks (s : State) (n grpc sewc : Nat) (row : Row) (poison : List Poison) : (s.putRow n grpc sewc row poison).ticks = s.ticks := rfl
@[simp] theorem State.putRow_time0 (s : State) (n grpc sewc : Nat) (row : Row) (poison : List Poison) : (s.putRow n grpc sewc row poison).time0 = s.time0 := rfl
@[simp] theorem State.putRow_caphead (s : State) (n grpc sewc : Nat) (row : Row) (poison : List Poison) : (s.putRow n grpc sewc row poison).caphead = s.caphead := rfl
@[simp] theorem State.putRow_energyCount (s : State) (n grpc sewc : Nat) (row : Row) (poison : List Poison) : (s.putRow n grpc sewc row poison).energyCount = s.energyCount := rfl
@[simp] theorem State.putRow_attested (s : State) (n grpc sewc : Nat) (row : Row) (poison : List Poison) : (s.putRow n grpc sewc row poison).attested = s.attested := rfl
@[simp] theorem State.putRow_remoteLists (s : State) (n grpc sewc : Nat) (row : Row) (poison : List Poison) : (s.putRow n grpc sewc row poison).remoteLists = s.remoteLists := rfl
@[simp] theorem State.putRow_felledAway (s : State) (n grpc sewc : Nat) (row : Row) (poison : List Poison) : (s.putRow n grpc sewc row poison).felledAway = s.felledAway := rfl
@[simp] theorem State.putRow_fabUp (s : State) (n grpc sewc : Nat) (row : Row) (poison : List Poison) : (s.putRow n grpc sewc row poison).fabUp = s.fabUp := rfl
@[simp] theorem State.putRow_fabSize (s : State) (n grpc sewc : Nat) (row : Row) (poison : List Poison) : (s.putRow n grpc sewc row poison).fabSize = s.fabSize := rfl
@[simp] theorem State.putRow_pkg (s : State) (n grpc sewc : Nat) (row : Row) (poison : List Poison) : (s.putRow n grpc sewc row poison).pkg = s.pkg := rfl
@[simp] theorem State.putRow_unreachable (s : State) (n grpc sewc : Nat) (row : Row) (poison : List Poison) : (s.putRow n grpc sewc row poison).unreachable = s.unreachable := rfl
@[simp] theorem State.putRow_deadLinks (s : State) (n grpc sewc : Nat) (row : Row) (poison : List Poison) : (s.putRow n grpc sewc row poison).deadLinks = s.deadLinks := rfl
@[simp] theorem State.putRow_cxl256 (s : State) (n grpc sewc : Nat) (row : Row) (poison : List Poison) : (s.putRow n grpc sewc row poison).cxl256 = s.cxl256 := rfl
@[simp] theorem State.putRow_shut (s : State) (n grpc sewc : Nat) (row : Row) (poison : List Poison) : (s.putRow n grpc sewc row poison).shut = s.shut := rfl
@[simp] theorem State.putRow_agenda (s : State) (n grpc sewc : Nat) (row : Row) (poison : List Poison) : (s.putRow n grpc sewc row poison).agenda = s.agenda := rfl
@[simp] theorem State.putRow_nextId (s : State) (n grpc sewc : Nat) (row : Row) (poison : List Poison) : (s.putRow n grpc sewc row poison).nextId = s.nextId := rfl
@[simp] theorem State.putRow_freeCount (s : State) (n grpc sewc : Nat) (row : Row) (poison : List Poison) : (s.putRow n grpc sewc row poison).freeCount = s.freeCount := rfl
@[simp] theorem State.enterTrap_others (s : State) (cause : Nat) (tval tinfo ret : Word) : (s.enterTrap cause tval tinfo ret).others = s.others := rfl
@[simp] theorem State.enterTrap_mem (s : State) (cause : Nat) (tval tinfo ret : Word) : (s.enterTrap cause tval tinfo ret).mem = s.mem := rfl
@[simp] theorem State.enterTrap_cores (s : State) (cause : Nat) (tval tinfo ret : Word) : (s.enterTrap cause tval tinfo ret).cores = s.cores := rfl
@[simp] theorem State.enterTrap_flues (s : State) (cause : Nat) (tval tinfo ret : Word) : (s.enterTrap cause tval tinfo ret).flues = s.flues := rfl
@[simp] theorem State.enterTrap_clusters (s : State) (cause : Nat) (tval tinfo ret : Word) : (s.enterTrap cause tval tinfo ret).clusters = s.clusters := rfl
@[simp] theorem State.enterTrap_dies (s : State) (cause : Nat) (tval tinfo ret : Word) : (s.enterTrap cause tval tinfo ret).dies = s.dies := rfl
@[simp] theorem State.enterTrap_launches (s : State) (cause : Nat) (tval tinfo ret : Word) : (s.enterTrap cause tval tinfo ret).launches = s.launches := rfl
@[simp] theorem State.enterTrap_gangs (s : State) (cause : Nat) (tval tinfo ret : Word) : (s.enterTrap cause tval tinfo ret).gangs = s.gangs := rfl
@[simp] theorem State.enterTrap_groves (s : State) (cause : Nat) (tval tinfo ret : Word) : (s.enterTrap cause tval tinfo ret).groves = s.groves := rfl
@[simp] theorem State.enterTrap_accounts (s : State) (cause : Nat) (tval tinfo ret : Word) : (s.enterTrap cause tval tinfo ret).accounts = s.accounts := rfl
@[simp] theorem State.enterTrap_cmds (s : State) (cause : Nat) (tval tinfo ret : Word) : (s.enterTrap cause tval tinfo ret).cmds = s.cmds := rfl
@[simp] theorem State.enterTrap_joins (s : State) (cause : Nat) (tval tinfo ret : Word) : (s.enterTrap cause tval tinfo ret).joins = s.joins := rfl
@[simp] theorem State.enterTrap_keys (s : State) (cause : Nat) (tval tinfo ret : Word) : (s.enterTrap cause tval tinfo ret).keys = s.keys := rfl
@[simp] theorem State.enterTrap_badPages (s : State) (cause : Nat) (tval tinfo ret : Word) : (s.enterTrap cause tval tinfo ret).badPages = s.badPages := rfl
@[simp] theorem State.enterTrap_ticks (s : State) (cause : Nat) (tval tinfo ret : Word) : (s.enterTrap cause tval tinfo ret).ticks = s.ticks := rfl
@[simp] theorem State.enterTrap_time0 (s : State) (cause : Nat) (tval tinfo ret : Word) : (s.enterTrap cause tval tinfo ret).time0 = s.time0 := rfl
@[simp] theorem State.enterTrap_caphead (s : State) (cause : Nat) (tval tinfo ret : Word) : (s.enterTrap cause tval tinfo ret).caphead = s.caphead := rfl
@[simp] theorem State.enterTrap_energyCount (s : State) (cause : Nat) (tval tinfo ret : Word) : (s.enterTrap cause tval tinfo ret).energyCount = s.energyCount := rfl
@[simp] theorem State.enterTrap_attested (s : State) (cause : Nat) (tval tinfo ret : Word) : (s.enterTrap cause tval tinfo ret).attested = s.attested := rfl
@[simp] theorem State.enterTrap_remoteLists (s : State) (cause : Nat) (tval tinfo ret : Word) : (s.enterTrap cause tval tinfo ret).remoteLists = s.remoteLists := rfl
@[simp] theorem State.enterTrap_felledAway (s : State) (cause : Nat) (tval tinfo ret : Word) : (s.enterTrap cause tval tinfo ret).felledAway = s.felledAway := rfl
@[simp] theorem State.enterTrap_fabUp (s : State) (cause : Nat) (tval tinfo ret : Word) : (s.enterTrap cause tval tinfo ret).fabUp = s.fabUp := rfl
@[simp] theorem State.enterTrap_fabSize (s : State) (cause : Nat) (tval tinfo ret : Word) : (s.enterTrap cause tval tinfo ret).fabSize = s.fabSize := rfl
@[simp] theorem State.enterTrap_pkg (s : State) (cause : Nat) (tval tinfo ret : Word) : (s.enterTrap cause tval tinfo ret).pkg = s.pkg := rfl
@[simp] theorem State.enterTrap_unreachable (s : State) (cause : Nat) (tval tinfo ret : Word) : (s.enterTrap cause tval tinfo ret).unreachable = s.unreachable := rfl
@[simp] theorem State.enterTrap_deadLinks (s : State) (cause : Nat) (tval tinfo ret : Word) : (s.enterTrap cause tval tinfo ret).deadLinks = s.deadLinks := rfl
@[simp] theorem State.enterTrap_cxl256 (s : State) (cause : Nat) (tval tinfo ret : Word) : (s.enterTrap cause tval tinfo ret).cxl256 = s.cxl256 := rfl
@[simp] theorem State.enterTrap_shut (s : State) (cause : Nat) (tval tinfo ret : Word) : (s.enterTrap cause tval tinfo ret).shut = s.shut := rfl
@[simp] theorem State.enterTrap_agenda (s : State) (cause : Nat) (tval tinfo ret : Word) : (s.enterTrap cause tval tinfo ret).agenda = s.agenda := rfl
@[simp] theorem State.enterTrap_nextId (s : State) (cause : Nat) (tval tinfo ret : Word) : (s.enterTrap cause tval tinfo ret).nextId = s.nextId := rfl
@[simp] theorem State.enterTrap_freeCount (s : State) (cause : Nat) (tval tinfo ret : Word) : (s.enterTrap cause tval tinfo ret).freeCount = s.freeCount := rfl
@[simp] theorem State.enterTrap_h_key (s : State) (cause : Nat) (tval tinfo ret : Word) : (s.enterTrap cause tval tinfo ret).h.key = s.h.key := rfl
@[simp] theorem State.enterTrap_h_uid (s : State) (cause : Nat) (tval tinfo ret : Word) : (s.enterTrap cause tval tinfo ret).h.uid = s.h.uid := rfl
@[simp] theorem State.enterTrap_h_gang (s : State) (cause : Nat) (tval tinfo ret : Word) : (s.enterTrap cause tval tinfo ret).h.gang = s.h.gang := rfl
@[simp] theorem State.enterTrap_h_run (s : State) (cause : Nat) (tval tinfo ret : Word) : (s.enterTrap cause tval tinfo ret).h.run = s.h.run := rfl
@[simp] theorem State.enterTrap_h_pc (s : State) (cause : Nat) (tval tinfo ret : Word) : (s.enterTrap cause tval tinfo ret).h.pc = s.h.tvec &&& ~~~3 := rfl
@[simp] theorem State.enterTrap_h_priv (s : State) (cause : Nat) (tval tinfo ret : Word) : (s.enterTrap cause tval tinfo ret).h.priv = true := rfl
@[simp] theorem State.enterTrap_h_x (s : State) (cause : Nat) (tval tinfo ret : Word) : (s.enterTrap cause tval tinfo ret).h.x = s.h.x := rfl
@[simp] theorem State.enterTrap_h_v (s : State) (cause : Nat) (tval tinfo ret : Word) : (s.enterTrap cause tval tinfo ret).h.v = s.h.v := rfl
@[simp] theorem State.enterTrap_h_k (s : State) (cause : Nat) (tval tinfo ret : Word) : (s.enterTrap cause tval tinfo ret).h.k = s.h.k := rfl
@[simp] theorem State.enterTrap_h_tb (s : State) (cause : Nat) (tval tinfo ret : Word) : (s.enterTrap cause tval tinfo ret).h.tb = s.h.tb := rfl
@[simp] theorem State.enterTrap_h_tbn (s : State) (cause : Nat) (tval tinfo ret : Word) : (s.enterTrap cause tval tinfo ret).h.tbn = s.h.tbn := rfl
@[simp] theorem State.enterTrap_h_vl (s : State) (cause : Nat) (tval tinfo ret : Word) : (s.enterTrap cause tval tinfo ret).h.vl = s.h.vl := rfl
@[simp] theorem State.enterTrap_h_vcfg (s : State) (cause : Nat) (tval tinfo ret : Word) : (s.enterTrap cause tval tinfo ret).h.vcfg = s.h.vcfg := rfl
@[simp] theorem State.enterTrap_h_rc (s : State) (cause : Nat) (tval tinfo ret : Word) : (s.enterTrap cause tval tinfo ret).h.rc = s.h.rc := rfl
@[simp] theorem State.enterTrap_h_vsi (s : State) (cause : Nat) (tval tinfo ret : Word) : (s.enterTrap cause tval tinfo ret).h.vsi = s.h.vsi := rfl
@[simp] theorem State.enterTrap_h_vsr (s : State) (cause : Nat) (tval tinfo ret : Word) : (s.enterTrap cause tval tinfo ret).h.vsr = s.h.vsr := rfl
@[simp] theorem State.enterTrap_h_vsp (s : State) (cause : Nat) (tval tinfo ret : Word) : (s.enterTrap cause tval tinfo ret).h.vsp = s.h.vsp := rfl
@[simp] theorem State.enterTrap_h_dl (s : State) (cause : Nat) (tval tinfo ret : Word) : (s.enterTrap cause tval tinfo ret).h.dl = s.h.dl := rfl
@[simp] theorem State.enterTrap_h_dt (s : State) (cause : Nat) (tval tinfo ret : Word) : (s.enterTrap cause tval tinfo ret).h.dt = s.h.dt := rfl
@[simp] theorem State.enterTrap_h_fflags (s : State) (cause : Nat) (tval tinfo ret : Word) : (s.enterTrap cause tval tinfo ret).h.fflags = s.h.fflags := rfl
@[simp] theorem State.enterTrap_h_xlist (s : State) (cause : Nat) (tval tinfo ret : Word) : (s.enterTrap cause tval tinfo ret).h.xlist = s.h.xlist := rfl
@[simp] theorem State.enterTrap_h_xcount (s : State) (cause : Nat) (tval tinfo ret : Word) : (s.enterTrap cause tval tinfo ret).h.xcount = s.h.xcount := rfl
@[simp] theorem State.enterTrap_h_xlimit (s : State) (cause : Nat) (tval tinfo ret : Word) : (s.enterTrap cause tval tinfo ret).h.xlimit = s.h.xlimit := rfl
@[simp] theorem State.enterTrap_h_mt (s : State) (cause : Nat) (tval tinfo ret : Word) : (s.enterTrap cause tval tinfo ret).h.mt = s.h.mt := rfl
@[simp] theorem State.enterTrap_h_nt (s : State) (cause : Nat) (tval tinfo ret : Word) : (s.enterTrap cause tval tinfo ret).h.nt = s.h.nt := rfl
@[simp] theorem State.enterTrap_h_kt (s : State) (cause : Nat) (tval tinfo ret : Word) : (s.enterTrap cause tval tinfo ret).h.kt = s.h.kt := rfl
@[simp] theorem State.enterTrap_h_mm (s : State) (cause : Nat) (tval tinfo ret : Word) : (s.enterTrap cause tval tinfo ret).h.mm = s.h.mm := rfl
@[simp] theorem State.enterTrap_h_yld (s : State) (cause : Nat) (tval tinfo ret : Word) : (s.enterTrap cause tval tinfo ret).h.yld = s.h.yld := rfl
@[simp] theorem State.enterTrap_h_gangSize (s : State) (cause : Nat) (tval tinfo ret : Word) : (s.enterTrap cause tval tinfo ret).h.gangSize = s.h.gangSize := rfl
@[simp] theorem State.enterTrap_h_member (s : State) (cause : Nat) (tval tinfo ret : Word) : (s.enterTrap cause tval tinfo ret).h.member = s.h.member := rfl
@[simp] theorem State.enterTrap_h_gangIdx (s : State) (cause : Nat) (tval tinfo ret : Word) : (s.enterTrap cause tval tinfo ret).h.gangIdx = s.h.gangIdx := rfl
@[simp] theorem State.enterTrap_h_cycle (s : State) (cause : Nat) (tval tinfo ret : Word) : (s.enterTrap cause tval tinfo ret).h.cycle = s.h.cycle := rfl
@[simp] theorem State.enterTrap_h_event (s : State) (cause : Nat) (tval tinfo ret : Word) : (s.enterTrap cause tval tinfo ret).h.event = s.h.event := rfl
@[simp] theorem State.enterTrap_h_evmask (s : State) (cause : Nat) (tval tinfo ret : Word) : (s.enterTrap cause tval tinfo ret).h.evmask = s.h.evmask := rfl
@[simp] theorem State.enterTrap_h_timecmp (s : State) (cause : Nat) (tval tinfo ret : Word) : (s.enterTrap cause tval tinfo ret).h.timecmp = s.h.timecmp := rfl
@[simp] theorem State.enterTrap_h_grove (s : State) (cause : Nat) (tval tinfo ret : Word) : (s.enterTrap cause tval tinfo ret).h.grove = s.h.grove := rfl
@[simp] theorem State.enterTrap_h_sppart (s : State) (cause : Nat) (tval tinfo ret : Word) : (s.enterTrap cause tval tinfo ret).h.sppart = s.h.sppart := rfl
@[simp] theorem State.enterTrap_h_nbar (s : State) (cause : Nat) (tval tinfo ret : Word) : (s.enterTrap cause tval tinfo ret).h.nbar = s.h.nbar := rfl
@[simp] theorem State.enterTrap_h_tvec (s : State) (cause : Nat) (tval tinfo ret : Word) : (s.enterTrap cause tval tinfo ret).h.tvec = s.h.tvec := rfl
@[simp] theorem State.enterTrap_h_tcause (s : State) (cause : Nat) (tval tinfo ret : Word) : (s.enterTrap cause tval tinfo ret).h.tcause = BitVec.ofNat 8 cause := rfl
@[simp] theorem State.enterTrap_h_tval (s : State) (cause : Nat) (tval tinfo ret : Word) : (s.enterTrap cause tval tinfo ret).h.tval = tval := rfl
@[simp] theorem State.enterTrap_h_tpc (s : State) (cause : Nat) (tval tinfo ret : Word) : (s.enterTrap cause tval tinfo ret).h.tpc = ret &&& ~~~1 := rfl
@[simp] theorem State.enterTrap_h_tinfo (s : State) (cause : Nat) (tval tinfo ret : Word) : (s.enterTrap cause tval tinfo ret).h.tinfo = tinfo := rfl
@[simp] theorem State.enterTrap_h_ih (s : State) (cause : Nat) (tval tinfo ret : Word) : (s.enterTrap cause tval tinfo ret).h.ih = true := rfl
@[simp] theorem State.enterTrap_h_pprv (s : State) (cause : Nat) (tval tinfo ret : Word) : (s.enterTrap cause tval tinfo ret).h.pprv = s.h.priv := rfl
@[simp] theorem State.enterTrap_h_tscr (s : State) (cause : Nat) (tval tinfo ret : Word) : (s.enterTrap cause tval tinfo ret).h.tscr = s.h.tscr := rfl
@[simp] theorem State.enterTrap_h_tsave (s : State) (cause : Nat) (tval tinfo ret : Word) : (s.enterTrap cause tval tinfo ret).h.tsave = s.h.vcfg := rfl
@[simp] theorem State.enterTrap_h_ptroot (s : State) (cause : Nat) (tval tinfo ret : Word) : (s.enterTrap cause tval tinfo ret).h.ptroot = s.h.ptroot := rfl
@[simp] theorem State.enterTrap_h_asid (s : State) (cause : Nat) (tval tinfo ret : Word) : (s.enterTrap cause tval tinfo ret).h.asid = s.h.asid := rfl
@[simp] theorem State.enterTrap_h_energyHi (s : State) (cause : Nat) (tval tinfo ret : Word) : (s.enterTrap cause tval tinfo ret).h.energyHi = s.h.energyHi := rfl
@[simp] theorem State.enterTrap_h_tokens (s : State) (cause : Nat) (tval tinfo ret : Word) : (s.enterTrap cause tval tinfo ret).h.tokens = s.h.returned := rfl
@[simp] theorem State.enterTrap_h_binds (s : State) (cause : Nat) (tval tinfo ret : Word) : (s.enterTrap cause tval tinfo ret).h.binds = s.h.binds := rfl
@[simp] theorem State.enterTrap_h_eng (s : State) (cause : Nat) (tval tinfo ret : Word) : (s.enterTrap cause tval tinfo ret).h.eng = s.h.eng := rfl
@[simp] theorem State.enterTrap_h_pv (s : State) (cause : Nat) (tval tinfo ret : Word) : (s.enterTrap cause tval tinfo ret).h.pv = s.h.pv := rfl
@[simp] theorem State.enterTrap_h_pg (s : State) (cause : Nat) (tval tinfo ret : Word) : (s.enterTrap cause tval tinfo ret).h.pg = s.h.pg := rfl
@[simp] theorem State.enterTrap_h_viq (s : State) (cause : Nat) (tval tinfo ret : Word) : (s.enterTrap cause tval tinfo ret).h.viq = [] := rfl
@[simp] theorem State.enterTrap_h_front (s : State) (cause : Nat) (tval tinfo ret : Word) : (s.enterTrap cause tval tinfo ret).h.front = none := rfl
@[simp] theorem State.enterTrap_h_ahead (s : State) (cause : Nat) (tval tinfo ret : Word) : (s.enterTrap cause tval tinfo ret).h.ahead = s.h.ahead := rfl
@[simp] theorem State.enterTrap_h_late (s : State) (cause : Nat) (tval tinfo ret : Word) : (s.enterTrap cause tval tinfo ret).h.late = s.h.late := rfl
@[simp] theorem State.enterTrap_h_pend (s : State) (cause : Nat) (tval tinfo ret : Word) : (s.enterTrap cause tval tinfo ret).h.pend = s.h.pend := rfl
@[simp] theorem State.enterTrap_h_laneFree (s : State) (cause : Nat) (tval tinfo ret : Word) : (s.enterTrap cause tval tinfo ret).h.laneFree = s.h.laneFree := rfl
@[simp] theorem State.enterTrap_h_ready (s : State) (cause : Nat) (tval tinfo ret : Word) : (s.enterTrap cause tval tinfo ret).h.ready = s.h.ready := rfl
@[simp] theorem State.enterTrap_h_lost (s : State) (cause : Nat) (tval tinfo ret : Word) : (s.enterTrap cause tval tinfo ret).h.lost = s.h.lost := rfl
@[simp] theorem State.enterTrap_h_upset (s : State) (cause : Nat) (tval tinfo ret : Word) : (s.enterTrap cause tval tinfo ret).h.upset = s.h.upset := rfl
@[simp] theorem State.enterTrap_h_wait (s : State) (cause : Nat) (tval tinfo ret : Word) : (s.enterTrap cause tval tinfo ret).h.wait = .none := rfl
@[simp] theorem State.enterTrap_h_saved (s : State) (cause : Nat) (tval tinfo ret : Word) : (s.enterTrap cause tval tinfo ret).h.saved = s.h.saved := rfl
@[simp] theorem Hart.putRow_key (h : Hart) (n grpc sewc : Nat) (row : Row) (poison : List Poison) : (h.putRow n grpc sewc row poison).key = h.key := rfl
@[simp] theorem Hart.putRow_uid (h : Hart) (n grpc sewc : Nat) (row : Row) (poison : List Poison) : (h.putRow n grpc sewc row poison).uid = h.uid := rfl
@[simp] theorem Hart.putRow_gang (h : Hart) (n grpc sewc : Nat) (row : Row) (poison : List Poison) : (h.putRow n grpc sewc row poison).gang = h.gang := rfl
@[simp] theorem Hart.putRow_run (h : Hart) (n grpc sewc : Nat) (row : Row) (poison : List Poison) : (h.putRow n grpc sewc row poison).run = h.run := rfl
@[simp] theorem Hart.putRow_pc (h : Hart) (n grpc sewc : Nat) (row : Row) (poison : List Poison) : (h.putRow n grpc sewc row poison).pc = h.pc := rfl
@[simp] theorem Hart.putRow_priv (h : Hart) (n grpc sewc : Nat) (row : Row) (poison : List Poison) : (h.putRow n grpc sewc row poison).priv = h.priv := rfl
@[simp] theorem Hart.putRow_x (h : Hart) (n grpc sewc : Nat) (row : Row) (poison : List Poison) : (h.putRow n grpc sewc row poison).x = h.x := rfl
@[simp] theorem Hart.putRow_k (h : Hart) (n grpc sewc : Nat) (row : Row) (poison : List Poison) : (h.putRow n grpc sewc row poison).k = h.k := rfl
@[simp] theorem Hart.putRow_tb (h : Hart) (n grpc sewc : Nat) (row : Row) (poison : List Poison) : (h.putRow n grpc sewc row poison).tb = h.tb := rfl
@[simp] theorem Hart.putRow_tbn (h : Hart) (n grpc sewc : Nat) (row : Row) (poison : List Poison) : (h.putRow n grpc sewc row poison).tbn = h.tbn := rfl
@[simp] theorem Hart.putRow_vl (h : Hart) (n grpc sewc : Nat) (row : Row) (poison : List Poison) : (h.putRow n grpc sewc row poison).vl = h.vl := rfl
@[simp] theorem Hart.putRow_vcfg (h : Hart) (n grpc sewc : Nat) (row : Row) (poison : List Poison) : (h.putRow n grpc sewc row poison).vcfg = h.vcfg := rfl
@[simp] theorem Hart.putRow_rc (h : Hart) (n grpc sewc : Nat) (row : Row) (poison : List Poison) : (h.putRow n grpc sewc row poison).rc = h.rc := rfl
@[simp] theorem Hart.putRow_vsi (h : Hart) (n grpc sewc : Nat) (row : Row) (poison : List Poison) : (h.putRow n grpc sewc row poison).vsi = h.vsi := rfl
@[simp] theorem Hart.putRow_vsr (h : Hart) (n grpc sewc : Nat) (row : Row) (poison : List Poison) : (h.putRow n grpc sewc row poison).vsr = h.vsr := rfl
@[simp] theorem Hart.putRow_vsp (h : Hart) (n grpc sewc : Nat) (row : Row) (poison : List Poison) : (h.putRow n grpc sewc row poison).vsp = h.vsp := rfl
@[simp] theorem Hart.putRow_dl (h : Hart) (n grpc sewc : Nat) (row : Row) (poison : List Poison) : (h.putRow n grpc sewc row poison).dl = h.dl := rfl
@[simp] theorem Hart.putRow_dt (h : Hart) (n grpc sewc : Nat) (row : Row) (poison : List Poison) : (h.putRow n grpc sewc row poison).dt = h.dt := rfl
@[simp] theorem Hart.putRow_fflags (h : Hart) (n grpc sewc : Nat) (row : Row) (poison : List Poison) : (h.putRow n grpc sewc row poison).fflags = h.fflags := rfl
@[simp] theorem Hart.putRow_xlist (h : Hart) (n grpc sewc : Nat) (row : Row) (poison : List Poison) : (h.putRow n grpc sewc row poison).xlist = h.xlist := rfl
@[simp] theorem Hart.putRow_xcount (h : Hart) (n grpc sewc : Nat) (row : Row) (poison : List Poison) : (h.putRow n grpc sewc row poison).xcount = h.xcount := rfl
@[simp] theorem Hart.putRow_xlimit (h : Hart) (n grpc sewc : Nat) (row : Row) (poison : List Poison) : (h.putRow n grpc sewc row poison).xlimit = h.xlimit := rfl
@[simp] theorem Hart.putRow_mt (h : Hart) (n grpc sewc : Nat) (row : Row) (poison : List Poison) : (h.putRow n grpc sewc row poison).mt = h.mt := rfl
@[simp] theorem Hart.putRow_nt (h : Hart) (n grpc sewc : Nat) (row : Row) (poison : List Poison) : (h.putRow n grpc sewc row poison).nt = h.nt := rfl
@[simp] theorem Hart.putRow_kt (h : Hart) (n grpc sewc : Nat) (row : Row) (poison : List Poison) : (h.putRow n grpc sewc row poison).kt = h.kt := rfl
@[simp] theorem Hart.putRow_mm (h : Hart) (n grpc sewc : Nat) (row : Row) (poison : List Poison) : (h.putRow n grpc sewc row poison).mm = h.mm := rfl
@[simp] theorem Hart.putRow_yld (h : Hart) (n grpc sewc : Nat) (row : Row) (poison : List Poison) : (h.putRow n grpc sewc row poison).yld = h.yld := rfl
@[simp] theorem Hart.putRow_gangSize (h : Hart) (n grpc sewc : Nat) (row : Row) (poison : List Poison) : (h.putRow n grpc sewc row poison).gangSize = h.gangSize := rfl
@[simp] theorem Hart.putRow_member (h : Hart) (n grpc sewc : Nat) (row : Row) (poison : List Poison) : (h.putRow n grpc sewc row poison).member = h.member := rfl
@[simp] theorem Hart.putRow_gangIdx (h : Hart) (n grpc sewc : Nat) (row : Row) (poison : List Poison) : (h.putRow n grpc sewc row poison).gangIdx = h.gangIdx := rfl
@[simp] theorem Hart.putRow_cycle (h : Hart) (n grpc sewc : Nat) (row : Row) (poison : List Poison) : (h.putRow n grpc sewc row poison).cycle = h.cycle := rfl
@[simp] theorem Hart.putRow_event (h : Hart) (n grpc sewc : Nat) (row : Row) (poison : List Poison) : (h.putRow n grpc sewc row poison).event = h.event := rfl
@[simp] theorem Hart.putRow_evmask (h : Hart) (n grpc sewc : Nat) (row : Row) (poison : List Poison) : (h.putRow n grpc sewc row poison).evmask = h.evmask := rfl
@[simp] theorem Hart.putRow_timecmp (h : Hart) (n grpc sewc : Nat) (row : Row) (poison : List Poison) : (h.putRow n grpc sewc row poison).timecmp = h.timecmp := rfl
@[simp] theorem Hart.putRow_grove (h : Hart) (n grpc sewc : Nat) (row : Row) (poison : List Poison) : (h.putRow n grpc sewc row poison).grove = h.grove := rfl
@[simp] theorem Hart.putRow_sppart (h : Hart) (n grpc sewc : Nat) (row : Row) (poison : List Poison) : (h.putRow n grpc sewc row poison).sppart = h.sppart := rfl
@[simp] theorem Hart.putRow_nbar (h : Hart) (n grpc sewc : Nat) (row : Row) (poison : List Poison) : (h.putRow n grpc sewc row poison).nbar = h.nbar := rfl
@[simp] theorem Hart.putRow_tvec (h : Hart) (n grpc sewc : Nat) (row : Row) (poison : List Poison) : (h.putRow n grpc sewc row poison).tvec = h.tvec := rfl
@[simp] theorem Hart.putRow_tcause (h : Hart) (n grpc sewc : Nat) (row : Row) (poison : List Poison) : (h.putRow n grpc sewc row poison).tcause = h.tcause := rfl
@[simp] theorem Hart.putRow_tval (h : Hart) (n grpc sewc : Nat) (row : Row) (poison : List Poison) : (h.putRow n grpc sewc row poison).tval = h.tval := rfl
@[simp] theorem Hart.putRow_tpc (h : Hart) (n grpc sewc : Nat) (row : Row) (poison : List Poison) : (h.putRow n grpc sewc row poison).tpc = h.tpc := rfl
@[simp] theorem Hart.putRow_tinfo (h : Hart) (n grpc sewc : Nat) (row : Row) (poison : List Poison) : (h.putRow n grpc sewc row poison).tinfo = h.tinfo := rfl
@[simp] theorem Hart.putRow_ih (h : Hart) (n grpc sewc : Nat) (row : Row) (poison : List Poison) : (h.putRow n grpc sewc row poison).ih = h.ih := rfl
@[simp] theorem Hart.putRow_pprv (h : Hart) (n grpc sewc : Nat) (row : Row) (poison : List Poison) : (h.putRow n grpc sewc row poison).pprv = h.pprv := rfl
@[simp] theorem Hart.putRow_tscr (h : Hart) (n grpc sewc : Nat) (row : Row) (poison : List Poison) : (h.putRow n grpc sewc row poison).tscr = h.tscr := rfl
@[simp] theorem Hart.putRow_tsave (h : Hart) (n grpc sewc : Nat) (row : Row) (poison : List Poison) : (h.putRow n grpc sewc row poison).tsave = h.tsave := rfl
@[simp] theorem Hart.putRow_ptroot (h : Hart) (n grpc sewc : Nat) (row : Row) (poison : List Poison) : (h.putRow n grpc sewc row poison).ptroot = h.ptroot := rfl
@[simp] theorem Hart.putRow_asid (h : Hart) (n grpc sewc : Nat) (row : Row) (poison : List Poison) : (h.putRow n grpc sewc row poison).asid = h.asid := rfl
@[simp] theorem Hart.putRow_energyHi (h : Hart) (n grpc sewc : Nat) (row : Row) (poison : List Poison) : (h.putRow n grpc sewc row poison).energyHi = h.energyHi := rfl
@[simp] theorem Hart.putRow_tokens (h : Hart) (n grpc sewc : Nat) (row : Row) (poison : List Poison) : (h.putRow n grpc sewc row poison).tokens = h.tokens := rfl
@[simp] theorem Hart.putRow_binds (h : Hart) (n grpc sewc : Nat) (row : Row) (poison : List Poison) : (h.putRow n grpc sewc row poison).binds = h.binds := rfl
@[simp] theorem Hart.putRow_eng (h : Hart) (n grpc sewc : Nat) (row : Row) (poison : List Poison) : (h.putRow n grpc sewc row poison).eng = h.eng := rfl
@[simp] theorem Hart.putRow_pv (h : Hart) (n grpc sewc : Nat) (row : Row) (poison : List Poison) : (h.putRow n grpc sewc row poison).pv = h.pv := rfl
@[simp] theorem Hart.putRow_pg (h : Hart) (n grpc sewc : Nat) (row : Row) (poison : List Poison) : (h.putRow n grpc sewc row poison).pg = h.pg := rfl
@[simp] theorem Hart.putRow_viq (h : Hart) (n grpc sewc : Nat) (row : Row) (poison : List Poison) : (h.putRow n grpc sewc row poison).viq = h.viq := rfl
@[simp] theorem Hart.putRow_front (h : Hart) (n grpc sewc : Nat) (row : Row) (poison : List Poison) : (h.putRow n grpc sewc row poison).front = h.front := rfl
@[simp] theorem Hart.putRow_ahead (h : Hart) (n grpc sewc : Nat) (row : Row) (poison : List Poison) : (h.putRow n grpc sewc row poison).ahead = h.ahead := rfl
@[simp] theorem Hart.putRow_late (h : Hart) (n grpc sewc : Nat) (row : Row) (poison : List Poison) : (h.putRow n grpc sewc row poison).late = h.late := rfl
@[simp] theorem Hart.putRow_pend (h : Hart) (n grpc sewc : Nat) (row : Row) (poison : List Poison) : (h.putRow n grpc sewc row poison).pend = h.pend := rfl
@[simp] theorem Hart.putRow_laneFree (h : Hart) (n grpc sewc : Nat) (row : Row) (poison : List Poison) : (h.putRow n grpc sewc row poison).laneFree = h.laneFree := rfl
@[simp] theorem Hart.putRow_ready (h : Hart) (n grpc sewc : Nat) (row : Row) (poison : List Poison) : (h.putRow n grpc sewc row poison).ready = h.ready := rfl
@[simp] theorem Hart.putRow_lost (h : Hart) (n grpc sewc : Nat) (row : Row) (poison : List Poison) : (h.putRow n grpc sewc row poison).lost = h.lost := rfl
@[simp] theorem Hart.putRow_upset (h : Hart) (n grpc sewc : Nat) (row : Row) (poison : List Poison) : (h.putRow n grpc sewc row poison).upset = h.upset := rfl
@[simp] theorem Hart.putRow_wait (h : Hart) (n grpc sewc : Nat) (row : Row) (poison : List Poison) : (h.putRow n grpc sewc row poison).wait = h.wait := rfl
@[simp] theorem Hart.putRow_saved (h : Hart) (n grpc sewc : Nat) (row : Row) (poison : List Poison) : (h.putRow n grpc sewc row poison).saved = h.saved := rfl
@[simp] theorem State.setCore_h (s : State) (k : CoreKey) (f : CoreSt → CoreSt) : (s.setCore k f).h = s.h := rfl
@[simp] theorem State.setCore_others (s : State) (k : CoreKey) (f : CoreSt → CoreSt) : (s.setCore k f).others = s.others := rfl
@[simp] theorem State.setCore_mem (s : State) (k : CoreKey) (f : CoreSt → CoreSt) : (s.setCore k f).mem = s.mem := rfl
@[simp] theorem State.setCore_flues (s : State) (k : CoreKey) (f : CoreSt → CoreSt) : (s.setCore k f).flues = s.flues := rfl
@[simp] theorem State.setCore_clusters (s : State) (k : CoreKey) (f : CoreSt → CoreSt) : (s.setCore k f).clusters = s.clusters := rfl
@[simp] theorem State.setCore_dies (s : State) (k : CoreKey) (f : CoreSt → CoreSt) : (s.setCore k f).dies = s.dies := rfl
@[simp] theorem State.setCore_launches (s : State) (k : CoreKey) (f : CoreSt → CoreSt) : (s.setCore k f).launches = s.launches := rfl
@[simp] theorem State.setCore_gangs (s : State) (k : CoreKey) (f : CoreSt → CoreSt) : (s.setCore k f).gangs = s.gangs := rfl
@[simp] theorem State.setCore_groves (s : State) (k : CoreKey) (f : CoreSt → CoreSt) : (s.setCore k f).groves = s.groves := rfl
@[simp] theorem State.setCore_accounts (s : State) (k : CoreKey) (f : CoreSt → CoreSt) : (s.setCore k f).accounts = s.accounts := rfl
@[simp] theorem State.setCore_cmds (s : State) (k : CoreKey) (f : CoreSt → CoreSt) : (s.setCore k f).cmds = s.cmds := rfl
@[simp] theorem State.setCore_joins (s : State) (k : CoreKey) (f : CoreSt → CoreSt) : (s.setCore k f).joins = s.joins := rfl
@[simp] theorem State.setCore_keys (s : State) (k : CoreKey) (f : CoreSt → CoreSt) : (s.setCore k f).keys = s.keys := rfl
@[simp] theorem State.setCore_badPages (s : State) (k : CoreKey) (f : CoreSt → CoreSt) : (s.setCore k f).badPages = s.badPages := rfl
@[simp] theorem State.setCore_ticks (s : State) (k : CoreKey) (f : CoreSt → CoreSt) : (s.setCore k f).ticks = s.ticks := rfl
@[simp] theorem State.setCore_time0 (s : State) (k : CoreKey) (f : CoreSt → CoreSt) : (s.setCore k f).time0 = s.time0 := rfl
@[simp] theorem State.setCore_caphead (s : State) (k : CoreKey) (f : CoreSt → CoreSt) : (s.setCore k f).caphead = s.caphead := rfl
@[simp] theorem State.setCore_energyCount (s : State) (k : CoreKey) (f : CoreSt → CoreSt) : (s.setCore k f).energyCount = s.energyCount := rfl
@[simp] theorem State.setCore_attested (s : State) (k : CoreKey) (f : CoreSt → CoreSt) : (s.setCore k f).attested = s.attested := rfl
@[simp] theorem State.setCore_remoteLists (s : State) (k : CoreKey) (f : CoreSt → CoreSt) : (s.setCore k f).remoteLists = s.remoteLists := rfl
@[simp] theorem State.setCore_felledAway (s : State) (k : CoreKey) (f : CoreSt → CoreSt) : (s.setCore k f).felledAway = s.felledAway := rfl
@[simp] theorem State.setCore_fabUp (s : State) (k : CoreKey) (f : CoreSt → CoreSt) : (s.setCore k f).fabUp = s.fabUp := rfl
@[simp] theorem State.setCore_fabSize (s : State) (k : CoreKey) (f : CoreSt → CoreSt) : (s.setCore k f).fabSize = s.fabSize := rfl
@[simp] theorem State.setCore_pkg (s : State) (k : CoreKey) (f : CoreSt → CoreSt) : (s.setCore k f).pkg = s.pkg := rfl
@[simp] theorem State.setCore_unreachable (s : State) (k : CoreKey) (f : CoreSt → CoreSt) : (s.setCore k f).unreachable = s.unreachable := rfl
@[simp] theorem State.setCore_deadLinks (s : State) (k : CoreKey) (f : CoreSt → CoreSt) : (s.setCore k f).deadLinks = s.deadLinks := rfl
@[simp] theorem State.setCore_cxl256 (s : State) (k : CoreKey) (f : CoreSt → CoreSt) : (s.setCore k f).cxl256 = s.cxl256 := rfl
@[simp] theorem State.setCore_shut (s : State) (k : CoreKey) (f : CoreSt → CoreSt) : (s.setCore k f).shut = s.shut := rfl
@[simp] theorem State.setCore_agenda (s : State) (k : CoreKey) (f : CoreSt → CoreSt) : (s.setCore k f).agenda = s.agenda := rfl
@[simp] theorem State.setCore_nextId (s : State) (k : CoreKey) (f : CoreSt → CoreSt) : (s.setCore k f).nextId = s.nextId := rfl
@[simp] theorem State.setCore_freeCount (s : State) (k : CoreKey) (f : CoreSt → CoreSt) : (s.setCore k f).freeCount = s.freeCount := rfl
@[simp] theorem State.setGang_h (s : State) (g : Nat) (f : Gang → Gang) : (s.setGang g f).h = s.h := rfl
@[simp] theorem State.setGang_others (s : State) (g : Nat) (f : Gang → Gang) : (s.setGang g f).others = s.others := rfl
@[simp] theorem State.setGang_mem (s : State) (g : Nat) (f : Gang → Gang) : (s.setGang g f).mem = s.mem := rfl
@[simp] theorem State.setGang_cores (s : State) (g : Nat) (f : Gang → Gang) : (s.setGang g f).cores = s.cores := rfl
@[simp] theorem State.setGang_flues (s : State) (g : Nat) (f : Gang → Gang) : (s.setGang g f).flues = s.flues := rfl
@[simp] theorem State.setGang_clusters (s : State) (g : Nat) (f : Gang → Gang) : (s.setGang g f).clusters = s.clusters := rfl
@[simp] theorem State.setGang_dies (s : State) (g : Nat) (f : Gang → Gang) : (s.setGang g f).dies = s.dies := rfl
@[simp] theorem State.setGang_launches (s : State) (g : Nat) (f : Gang → Gang) : (s.setGang g f).launches = s.launches := rfl
@[simp] theorem State.setGang_groves (s : State) (g : Nat) (f : Gang → Gang) : (s.setGang g f).groves = s.groves := rfl
@[simp] theorem State.setGang_accounts (s : State) (g : Nat) (f : Gang → Gang) : (s.setGang g f).accounts = s.accounts := rfl
@[simp] theorem State.setGang_cmds (s : State) (g : Nat) (f : Gang → Gang) : (s.setGang g f).cmds = s.cmds := rfl
@[simp] theorem State.setGang_joins (s : State) (g : Nat) (f : Gang → Gang) : (s.setGang g f).joins = s.joins := rfl
@[simp] theorem State.setGang_keys (s : State) (g : Nat) (f : Gang → Gang) : (s.setGang g f).keys = s.keys := rfl
@[simp] theorem State.setGang_badPages (s : State) (g : Nat) (f : Gang → Gang) : (s.setGang g f).badPages = s.badPages := rfl
@[simp] theorem State.setGang_ticks (s : State) (g : Nat) (f : Gang → Gang) : (s.setGang g f).ticks = s.ticks := rfl
@[simp] theorem State.setGang_time0 (s : State) (g : Nat) (f : Gang → Gang) : (s.setGang g f).time0 = s.time0 := rfl
@[simp] theorem State.setGang_caphead (s : State) (g : Nat) (f : Gang → Gang) : (s.setGang g f).caphead = s.caphead := rfl
@[simp] theorem State.setGang_energyCount (s : State) (g : Nat) (f : Gang → Gang) : (s.setGang g f).energyCount = s.energyCount := rfl
@[simp] theorem State.setGang_attested (s : State) (g : Nat) (f : Gang → Gang) : (s.setGang g f).attested = s.attested := rfl
@[simp] theorem State.setGang_remoteLists (s : State) (g : Nat) (f : Gang → Gang) : (s.setGang g f).remoteLists = s.remoteLists := rfl
@[simp] theorem State.setGang_felledAway (s : State) (g : Nat) (f : Gang → Gang) : (s.setGang g f).felledAway = s.felledAway := rfl
@[simp] theorem State.setGang_fabUp (s : State) (g : Nat) (f : Gang → Gang) : (s.setGang g f).fabUp = s.fabUp := rfl
@[simp] theorem State.setGang_fabSize (s : State) (g : Nat) (f : Gang → Gang) : (s.setGang g f).fabSize = s.fabSize := rfl
@[simp] theorem State.setGang_pkg (s : State) (g : Nat) (f : Gang → Gang) : (s.setGang g f).pkg = s.pkg := rfl
@[simp] theorem State.setGang_unreachable (s : State) (g : Nat) (f : Gang → Gang) : (s.setGang g f).unreachable = s.unreachable := rfl
@[simp] theorem State.setGang_deadLinks (s : State) (g : Nat) (f : Gang → Gang) : (s.setGang g f).deadLinks = s.deadLinks := rfl
@[simp] theorem State.setGang_cxl256 (s : State) (g : Nat) (f : Gang → Gang) : (s.setGang g f).cxl256 = s.cxl256 := rfl
@[simp] theorem State.setGang_shut (s : State) (g : Nat) (f : Gang → Gang) : (s.setGang g f).shut = s.shut := rfl
@[simp] theorem State.setGang_agenda (s : State) (g : Nat) (f : Gang → Gang) : (s.setGang g f).agenda = s.agenda := rfl
@[simp] theorem State.setGang_nextId (s : State) (g : Nat) (f : Gang → Gang) : (s.setGang g f).nextId = s.nextId := rfl
@[simp] theorem State.setGang_freeCount (s : State) (g : Nat) (f : Gang → Gang) : (s.setGang g f).freeCount = s.freeCount := rfl
@[simp] theorem State.setLaunch_h (s : State) (l : Nat) (f : Launch → Launch) : (s.setLaunch l f).h = s.h := rfl
@[simp] theorem State.setLaunch_others (s : State) (l : Nat) (f : Launch → Launch) : (s.setLaunch l f).others = s.others := rfl
@[simp] theorem State.setLaunch_mem (s : State) (l : Nat) (f : Launch → Launch) : (s.setLaunch l f).mem = s.mem := rfl
@[simp] theorem State.setLaunch_cores (s : State) (l : Nat) (f : Launch → Launch) : (s.setLaunch l f).cores = s.cores := rfl
@[simp] theorem State.setLaunch_flues (s : State) (l : Nat) (f : Launch → Launch) : (s.setLaunch l f).flues = s.flues := rfl
@[simp] theorem State.setLaunch_clusters (s : State) (l : Nat) (f : Launch → Launch) : (s.setLaunch l f).clusters = s.clusters := rfl
@[simp] theorem State.setLaunch_dies (s : State) (l : Nat) (f : Launch → Launch) : (s.setLaunch l f).dies = s.dies := rfl
@[simp] theorem State.setLaunch_gangs (s : State) (l : Nat) (f : Launch → Launch) : (s.setLaunch l f).gangs = s.gangs := rfl
@[simp] theorem State.setLaunch_groves (s : State) (l : Nat) (f : Launch → Launch) : (s.setLaunch l f).groves = s.groves := rfl
@[simp] theorem State.setLaunch_accounts (s : State) (l : Nat) (f : Launch → Launch) : (s.setLaunch l f).accounts = s.accounts := rfl
@[simp] theorem State.setLaunch_cmds (s : State) (l : Nat) (f : Launch → Launch) : (s.setLaunch l f).cmds = s.cmds := rfl
@[simp] theorem State.setLaunch_joins (s : State) (l : Nat) (f : Launch → Launch) : (s.setLaunch l f).joins = s.joins := rfl
@[simp] theorem State.setLaunch_keys (s : State) (l : Nat) (f : Launch → Launch) : (s.setLaunch l f).keys = s.keys := rfl
@[simp] theorem State.setLaunch_badPages (s : State) (l : Nat) (f : Launch → Launch) : (s.setLaunch l f).badPages = s.badPages := rfl
@[simp] theorem State.setLaunch_ticks (s : State) (l : Nat) (f : Launch → Launch) : (s.setLaunch l f).ticks = s.ticks := rfl
@[simp] theorem State.setLaunch_time0 (s : State) (l : Nat) (f : Launch → Launch) : (s.setLaunch l f).time0 = s.time0 := rfl
@[simp] theorem State.setLaunch_caphead (s : State) (l : Nat) (f : Launch → Launch) : (s.setLaunch l f).caphead = s.caphead := rfl
@[simp] theorem State.setLaunch_energyCount (s : State) (l : Nat) (f : Launch → Launch) : (s.setLaunch l f).energyCount = s.energyCount := rfl
@[simp] theorem State.setLaunch_attested (s : State) (l : Nat) (f : Launch → Launch) : (s.setLaunch l f).attested = s.attested := rfl
@[simp] theorem State.setLaunch_remoteLists (s : State) (l : Nat) (f : Launch → Launch) : (s.setLaunch l f).remoteLists = s.remoteLists := rfl
@[simp] theorem State.setLaunch_felledAway (s : State) (l : Nat) (f : Launch → Launch) : (s.setLaunch l f).felledAway = s.felledAway := rfl
@[simp] theorem State.setLaunch_fabUp (s : State) (l : Nat) (f : Launch → Launch) : (s.setLaunch l f).fabUp = s.fabUp := rfl
@[simp] theorem State.setLaunch_fabSize (s : State) (l : Nat) (f : Launch → Launch) : (s.setLaunch l f).fabSize = s.fabSize := rfl
@[simp] theorem State.setLaunch_pkg (s : State) (l : Nat) (f : Launch → Launch) : (s.setLaunch l f).pkg = s.pkg := rfl
@[simp] theorem State.setLaunch_unreachable (s : State) (l : Nat) (f : Launch → Launch) : (s.setLaunch l f).unreachable = s.unreachable := rfl
@[simp] theorem State.setLaunch_deadLinks (s : State) (l : Nat) (f : Launch → Launch) : (s.setLaunch l f).deadLinks = s.deadLinks := rfl
@[simp] theorem State.setLaunch_cxl256 (s : State) (l : Nat) (f : Launch → Launch) : (s.setLaunch l f).cxl256 = s.cxl256 := rfl
@[simp] theorem State.setLaunch_shut (s : State) (l : Nat) (f : Launch → Launch) : (s.setLaunch l f).shut = s.shut := rfl
@[simp] theorem State.setLaunch_agenda (s : State) (l : Nat) (f : Launch → Launch) : (s.setLaunch l f).agenda = s.agenda := rfl
@[simp] theorem State.setLaunch_nextId (s : State) (l : Nat) (f : Launch → Launch) : (s.setLaunch l f).nextId = s.nextId := rfl
@[simp] theorem State.setLaunch_freeCount (s : State) (l : Nat) (f : Launch → Launch) : (s.setLaunch l f).freeCount = s.freeCount := rfl
@[simp] theorem State.setCluster_h (s : State) (die clu : Nat) (f : ClusterSt → ClusterSt) : (s.setCluster die clu f).h = s.h := rfl
@[simp] theorem State.setCluster_others (s : State) (die clu : Nat) (f : ClusterSt → ClusterSt) : (s.setCluster die clu f).others = s.others := rfl
@[simp] theorem State.setCluster_mem (s : State) (die clu : Nat) (f : ClusterSt → ClusterSt) : (s.setCluster die clu f).mem = s.mem := rfl
@[simp] theorem State.setCluster_cores (s : State) (die clu : Nat) (f : ClusterSt → ClusterSt) : (s.setCluster die clu f).cores = s.cores := rfl
@[simp] theorem State.setCluster_flues (s : State) (die clu : Nat) (f : ClusterSt → ClusterSt) : (s.setCluster die clu f).flues = s.flues := rfl
@[simp] theorem State.setCluster_dies (s : State) (die clu : Nat) (f : ClusterSt → ClusterSt) : (s.setCluster die clu f).dies = s.dies := rfl
@[simp] theorem State.setCluster_launches (s : State) (die clu : Nat) (f : ClusterSt → ClusterSt) : (s.setCluster die clu f).launches = s.launches := rfl
@[simp] theorem State.setCluster_gangs (s : State) (die clu : Nat) (f : ClusterSt → ClusterSt) : (s.setCluster die clu f).gangs = s.gangs := rfl
@[simp] theorem State.setCluster_groves (s : State) (die clu : Nat) (f : ClusterSt → ClusterSt) : (s.setCluster die clu f).groves = s.groves := rfl
@[simp] theorem State.setCluster_accounts (s : State) (die clu : Nat) (f : ClusterSt → ClusterSt) : (s.setCluster die clu f).accounts = s.accounts := rfl
@[simp] theorem State.setCluster_cmds (s : State) (die clu : Nat) (f : ClusterSt → ClusterSt) : (s.setCluster die clu f).cmds = s.cmds := rfl
@[simp] theorem State.setCluster_joins (s : State) (die clu : Nat) (f : ClusterSt → ClusterSt) : (s.setCluster die clu f).joins = s.joins := rfl
@[simp] theorem State.setCluster_keys (s : State) (die clu : Nat) (f : ClusterSt → ClusterSt) : (s.setCluster die clu f).keys = s.keys := rfl
@[simp] theorem State.setCluster_badPages (s : State) (die clu : Nat) (f : ClusterSt → ClusterSt) : (s.setCluster die clu f).badPages = s.badPages := rfl
@[simp] theorem State.setCluster_ticks (s : State) (die clu : Nat) (f : ClusterSt → ClusterSt) : (s.setCluster die clu f).ticks = s.ticks := rfl
@[simp] theorem State.setCluster_time0 (s : State) (die clu : Nat) (f : ClusterSt → ClusterSt) : (s.setCluster die clu f).time0 = s.time0 := rfl
@[simp] theorem State.setCluster_caphead (s : State) (die clu : Nat) (f : ClusterSt → ClusterSt) : (s.setCluster die clu f).caphead = s.caphead := rfl
@[simp] theorem State.setCluster_energyCount (s : State) (die clu : Nat) (f : ClusterSt → ClusterSt) : (s.setCluster die clu f).energyCount = s.energyCount := rfl
@[simp] theorem State.setCluster_attested (s : State) (die clu : Nat) (f : ClusterSt → ClusterSt) : (s.setCluster die clu f).attested = s.attested := rfl
@[simp] theorem State.setCluster_remoteLists (s : State) (die clu : Nat) (f : ClusterSt → ClusterSt) : (s.setCluster die clu f).remoteLists = s.remoteLists := rfl
@[simp] theorem State.setCluster_felledAway (s : State) (die clu : Nat) (f : ClusterSt → ClusterSt) : (s.setCluster die clu f).felledAway = s.felledAway := rfl
@[simp] theorem State.setCluster_fabUp (s : State) (die clu : Nat) (f : ClusterSt → ClusterSt) : (s.setCluster die clu f).fabUp = s.fabUp := rfl
@[simp] theorem State.setCluster_fabSize (s : State) (die clu : Nat) (f : ClusterSt → ClusterSt) : (s.setCluster die clu f).fabSize = s.fabSize := rfl
@[simp] theorem State.setCluster_pkg (s : State) (die clu : Nat) (f : ClusterSt → ClusterSt) : (s.setCluster die clu f).pkg = s.pkg := rfl
@[simp] theorem State.setCluster_unreachable (s : State) (die clu : Nat) (f : ClusterSt → ClusterSt) : (s.setCluster die clu f).unreachable = s.unreachable := rfl
@[simp] theorem State.setCluster_deadLinks (s : State) (die clu : Nat) (f : ClusterSt → ClusterSt) : (s.setCluster die clu f).deadLinks = s.deadLinks := rfl
@[simp] theorem State.setCluster_cxl256 (s : State) (die clu : Nat) (f : ClusterSt → ClusterSt) : (s.setCluster die clu f).cxl256 = s.cxl256 := rfl
@[simp] theorem State.setCluster_shut (s : State) (die clu : Nat) (f : ClusterSt → ClusterSt) : (s.setCluster die clu f).shut = s.shut := rfl
@[simp] theorem State.setCluster_agenda (s : State) (die clu : Nat) (f : ClusterSt → ClusterSt) : (s.setCluster die clu f).agenda = s.agenda := rfl
@[simp] theorem State.setCluster_nextId (s : State) (die clu : Nat) (f : ClusterSt → ClusterSt) : (s.setCluster die clu f).nextId = s.nextId := rfl
@[simp] theorem State.setCluster_freeCount (s : State) (die clu : Nat) (f : ClusterSt → ClusterSt) : (s.setCluster die clu f).freeCount = s.freeCount := rfl
@[simp] theorem State.setFlue_h (s : State) (k : FlueKey) (f : FlueSt → FlueSt) : (s.setFlue k f).h = s.h := rfl
@[simp] theorem State.setFlue_others (s : State) (k : FlueKey) (f : FlueSt → FlueSt) : (s.setFlue k f).others = s.others := rfl
@[simp] theorem State.setFlue_mem (s : State) (k : FlueKey) (f : FlueSt → FlueSt) : (s.setFlue k f).mem = s.mem := rfl
@[simp] theorem State.setFlue_cores (s : State) (k : FlueKey) (f : FlueSt → FlueSt) : (s.setFlue k f).cores = s.cores := rfl
@[simp] theorem State.setFlue_clusters (s : State) (k : FlueKey) (f : FlueSt → FlueSt) : (s.setFlue k f).clusters = s.clusters := rfl
@[simp] theorem State.setFlue_dies (s : State) (k : FlueKey) (f : FlueSt → FlueSt) : (s.setFlue k f).dies = s.dies := rfl
@[simp] theorem State.setFlue_launches (s : State) (k : FlueKey) (f : FlueSt → FlueSt) : (s.setFlue k f).launches = s.launches := rfl
@[simp] theorem State.setFlue_gangs (s : State) (k : FlueKey) (f : FlueSt → FlueSt) : (s.setFlue k f).gangs = s.gangs := rfl
@[simp] theorem State.setFlue_groves (s : State) (k : FlueKey) (f : FlueSt → FlueSt) : (s.setFlue k f).groves = s.groves := rfl
@[simp] theorem State.setFlue_accounts (s : State) (k : FlueKey) (f : FlueSt → FlueSt) : (s.setFlue k f).accounts = s.accounts := rfl
@[simp] theorem State.setFlue_cmds (s : State) (k : FlueKey) (f : FlueSt → FlueSt) : (s.setFlue k f).cmds = s.cmds := rfl
@[simp] theorem State.setFlue_joins (s : State) (k : FlueKey) (f : FlueSt → FlueSt) : (s.setFlue k f).joins = s.joins := rfl
@[simp] theorem State.setFlue_keys (s : State) (k : FlueKey) (f : FlueSt → FlueSt) : (s.setFlue k f).keys = s.keys := rfl
@[simp] theorem State.setFlue_badPages (s : State) (k : FlueKey) (f : FlueSt → FlueSt) : (s.setFlue k f).badPages = s.badPages := rfl
@[simp] theorem State.setFlue_ticks (s : State) (k : FlueKey) (f : FlueSt → FlueSt) : (s.setFlue k f).ticks = s.ticks := rfl
@[simp] theorem State.setFlue_time0 (s : State) (k : FlueKey) (f : FlueSt → FlueSt) : (s.setFlue k f).time0 = s.time0 := rfl
@[simp] theorem State.setFlue_caphead (s : State) (k : FlueKey) (f : FlueSt → FlueSt) : (s.setFlue k f).caphead = s.caphead := rfl
@[simp] theorem State.setFlue_energyCount (s : State) (k : FlueKey) (f : FlueSt → FlueSt) : (s.setFlue k f).energyCount = s.energyCount := rfl
@[simp] theorem State.setFlue_attested (s : State) (k : FlueKey) (f : FlueSt → FlueSt) : (s.setFlue k f).attested = s.attested := rfl
@[simp] theorem State.setFlue_remoteLists (s : State) (k : FlueKey) (f : FlueSt → FlueSt) : (s.setFlue k f).remoteLists = s.remoteLists := rfl
@[simp] theorem State.setFlue_felledAway (s : State) (k : FlueKey) (f : FlueSt → FlueSt) : (s.setFlue k f).felledAway = s.felledAway := rfl
@[simp] theorem State.setFlue_fabUp (s : State) (k : FlueKey) (f : FlueSt → FlueSt) : (s.setFlue k f).fabUp = s.fabUp := rfl
@[simp] theorem State.setFlue_fabSize (s : State) (k : FlueKey) (f : FlueSt → FlueSt) : (s.setFlue k f).fabSize = s.fabSize := rfl
@[simp] theorem State.setFlue_pkg (s : State) (k : FlueKey) (f : FlueSt → FlueSt) : (s.setFlue k f).pkg = s.pkg := rfl
@[simp] theorem State.setFlue_unreachable (s : State) (k : FlueKey) (f : FlueSt → FlueSt) : (s.setFlue k f).unreachable = s.unreachable := rfl
@[simp] theorem State.setFlue_deadLinks (s : State) (k : FlueKey) (f : FlueSt → FlueSt) : (s.setFlue k f).deadLinks = s.deadLinks := rfl
@[simp] theorem State.setFlue_cxl256 (s : State) (k : FlueKey) (f : FlueSt → FlueSt) : (s.setFlue k f).cxl256 = s.cxl256 := rfl
@[simp] theorem State.setFlue_shut (s : State) (k : FlueKey) (f : FlueSt → FlueSt) : (s.setFlue k f).shut = s.shut := rfl
@[simp] theorem State.setFlue_agenda (s : State) (k : FlueKey) (f : FlueSt → FlueSt) : (s.setFlue k f).agenda = s.agenda := rfl
@[simp] theorem State.setFlue_nextId (s : State) (k : FlueKey) (f : FlueSt → FlueSt) : (s.setFlue k f).nextId = s.nextId := rfl
@[simp] theorem State.setFlue_freeCount (s : State) (k : FlueKey) (f : FlueSt → FlueSt) : (s.setFlue k f).freeCount = s.freeCount := rfl
@[simp] theorem State.setGrove_h (s : State) (slot : Nat) (f : Grove → Grove) : (s.setGrove slot f).h = s.h := rfl
@[simp] theorem State.setGrove_others (s : State) (slot : Nat) (f : Grove → Grove) : (s.setGrove slot f).others = s.others := rfl
@[simp] theorem State.setGrove_mem (s : State) (slot : Nat) (f : Grove → Grove) : (s.setGrove slot f).mem = s.mem := rfl
@[simp] theorem State.setGrove_cores (s : State) (slot : Nat) (f : Grove → Grove) : (s.setGrove slot f).cores = s.cores := rfl
@[simp] theorem State.setGrove_flues (s : State) (slot : Nat) (f : Grove → Grove) : (s.setGrove slot f).flues = s.flues := rfl
@[simp] theorem State.setGrove_clusters (s : State) (slot : Nat) (f : Grove → Grove) : (s.setGrove slot f).clusters = s.clusters := rfl
@[simp] theorem State.setGrove_dies (s : State) (slot : Nat) (f : Grove → Grove) : (s.setGrove slot f).dies = s.dies := rfl
@[simp] theorem State.setGrove_launches (s : State) (slot : Nat) (f : Grove → Grove) : (s.setGrove slot f).launches = s.launches := rfl
@[simp] theorem State.setGrove_gangs (s : State) (slot : Nat) (f : Grove → Grove) : (s.setGrove slot f).gangs = s.gangs := rfl
@[simp] theorem State.setGrove_accounts (s : State) (slot : Nat) (f : Grove → Grove) : (s.setGrove slot f).accounts = s.accounts := rfl
@[simp] theorem State.setGrove_cmds (s : State) (slot : Nat) (f : Grove → Grove) : (s.setGrove slot f).cmds = s.cmds := rfl
@[simp] theorem State.setGrove_joins (s : State) (slot : Nat) (f : Grove → Grove) : (s.setGrove slot f).joins = s.joins := rfl
@[simp] theorem State.setGrove_keys (s : State) (slot : Nat) (f : Grove → Grove) : (s.setGrove slot f).keys = s.keys := rfl
@[simp] theorem State.setGrove_badPages (s : State) (slot : Nat) (f : Grove → Grove) : (s.setGrove slot f).badPages = s.badPages := rfl
@[simp] theorem State.setGrove_ticks (s : State) (slot : Nat) (f : Grove → Grove) : (s.setGrove slot f).ticks = s.ticks := rfl
@[simp] theorem State.setGrove_time0 (s : State) (slot : Nat) (f : Grove → Grove) : (s.setGrove slot f).time0 = s.time0 := rfl
@[simp] theorem State.setGrove_caphead (s : State) (slot : Nat) (f : Grove → Grove) : (s.setGrove slot f).caphead = s.caphead := rfl
@[simp] theorem State.setGrove_energyCount (s : State) (slot : Nat) (f : Grove → Grove) : (s.setGrove slot f).energyCount = s.energyCount := rfl
@[simp] theorem State.setGrove_attested (s : State) (slot : Nat) (f : Grove → Grove) : (s.setGrove slot f).attested = s.attested := rfl
@[simp] theorem State.setGrove_remoteLists (s : State) (slot : Nat) (f : Grove → Grove) : (s.setGrove slot f).remoteLists = s.remoteLists := rfl
@[simp] theorem State.setGrove_felledAway (s : State) (slot : Nat) (f : Grove → Grove) : (s.setGrove slot f).felledAway = s.felledAway := rfl
@[simp] theorem State.setGrove_fabUp (s : State) (slot : Nat) (f : Grove → Grove) : (s.setGrove slot f).fabUp = s.fabUp := rfl
@[simp] theorem State.setGrove_fabSize (s : State) (slot : Nat) (f : Grove → Grove) : (s.setGrove slot f).fabSize = s.fabSize := rfl
@[simp] theorem State.setGrove_pkg (s : State) (slot : Nat) (f : Grove → Grove) : (s.setGrove slot f).pkg = s.pkg := rfl
@[simp] theorem State.setGrove_unreachable (s : State) (slot : Nat) (f : Grove → Grove) : (s.setGrove slot f).unreachable = s.unreachable := rfl
@[simp] theorem State.setGrove_deadLinks (s : State) (slot : Nat) (f : Grove → Grove) : (s.setGrove slot f).deadLinks = s.deadLinks := rfl
@[simp] theorem State.setGrove_cxl256 (s : State) (slot : Nat) (f : Grove → Grove) : (s.setGrove slot f).cxl256 = s.cxl256 := rfl
@[simp] theorem State.setGrove_shut (s : State) (slot : Nat) (f : Grove → Grove) : (s.setGrove slot f).shut = s.shut := rfl
@[simp] theorem State.setGrove_agenda (s : State) (slot : Nat) (f : Grove → Grove) : (s.setGrove slot f).agenda = s.agenda := rfl
@[simp] theorem State.setGrove_nextId (s : State) (slot : Nat) (f : Grove → Grove) : (s.setGrove slot f).nextId = s.nextId := rfl
@[simp] theorem State.setGrove_freeCount (s : State) (slot : Nat) (f : Grove → Grove) : (s.setGrove slot f).freeCount = s.freeCount := rfl
@[simp] theorem State.setDie_h (s : State) (d : Nat) (f : Die → Die) : (s.setDie d f).h = s.h := by unfold State.setDie; split <;> rfl
@[simp] theorem State.setDie_others (s : State) (d : Nat) (f : Die → Die) : (s.setDie d f).others = s.others := by unfold State.setDie; split <;> rfl
@[simp] theorem State.setDie_mem (s : State) (d : Nat) (f : Die → Die) : (s.setDie d f).mem = s.mem := by unfold State.setDie; split <;> rfl
@[simp] theorem State.setDie_cores (s : State) (d : Nat) (f : Die → Die) : (s.setDie d f).cores = s.cores := by unfold State.setDie; split <;> rfl
@[simp] theorem State.setDie_flues (s : State) (d : Nat) (f : Die → Die) : (s.setDie d f).flues = s.flues := by unfold State.setDie; split <;> rfl
@[simp] theorem State.setDie_clusters (s : State) (d : Nat) (f : Die → Die) : (s.setDie d f).clusters = s.clusters := by unfold State.setDie; split <;> rfl
@[simp] theorem State.setDie_launches (s : State) (d : Nat) (f : Die → Die) : (s.setDie d f).launches = s.launches := by unfold State.setDie; split <;> rfl
@[simp] theorem State.setDie_gangs (s : State) (d : Nat) (f : Die → Die) : (s.setDie d f).gangs = s.gangs := by unfold State.setDie; split <;> rfl
@[simp] theorem State.setDie_groves (s : State) (d : Nat) (f : Die → Die) : (s.setDie d f).groves = s.groves := by unfold State.setDie; split <;> rfl
@[simp] theorem State.setDie_accounts (s : State) (d : Nat) (f : Die → Die) : (s.setDie d f).accounts = s.accounts := by unfold State.setDie; split <;> rfl
@[simp] theorem State.setDie_cmds (s : State) (d : Nat) (f : Die → Die) : (s.setDie d f).cmds = s.cmds := by unfold State.setDie; split <;> rfl
@[simp] theorem State.setDie_joins (s : State) (d : Nat) (f : Die → Die) : (s.setDie d f).joins = s.joins := by unfold State.setDie; split <;> rfl
@[simp] theorem State.setDie_keys (s : State) (d : Nat) (f : Die → Die) : (s.setDie d f).keys = s.keys := by unfold State.setDie; split <;> rfl
@[simp] theorem State.setDie_badPages (s : State) (d : Nat) (f : Die → Die) : (s.setDie d f).badPages = s.badPages := by unfold State.setDie; split <;> rfl
@[simp] theorem State.setDie_ticks (s : State) (d : Nat) (f : Die → Die) : (s.setDie d f).ticks = s.ticks := by unfold State.setDie; split <;> rfl
@[simp] theorem State.setDie_time0 (s : State) (d : Nat) (f : Die → Die) : (s.setDie d f).time0 = s.time0 := by unfold State.setDie; split <;> rfl
@[simp] theorem State.setDie_caphead (s : State) (d : Nat) (f : Die → Die) : (s.setDie d f).caphead = s.caphead := by unfold State.setDie; split <;> rfl
@[simp] theorem State.setDie_energyCount (s : State) (d : Nat) (f : Die → Die) : (s.setDie d f).energyCount = s.energyCount := by unfold State.setDie; split <;> rfl
@[simp] theorem State.setDie_attested (s : State) (d : Nat) (f : Die → Die) : (s.setDie d f).attested = s.attested := by unfold State.setDie; split <;> rfl
@[simp] theorem State.setDie_remoteLists (s : State) (d : Nat) (f : Die → Die) : (s.setDie d f).remoteLists = s.remoteLists := by unfold State.setDie; split <;> rfl
@[simp] theorem State.setDie_felledAway (s : State) (d : Nat) (f : Die → Die) : (s.setDie d f).felledAway = s.felledAway := by unfold State.setDie; split <;> rfl
@[simp] theorem State.setDie_fabUp (s : State) (d : Nat) (f : Die → Die) : (s.setDie d f).fabUp = s.fabUp := by unfold State.setDie; split <;> rfl
@[simp] theorem State.setDie_fabSize (s : State) (d : Nat) (f : Die → Die) : (s.setDie d f).fabSize = s.fabSize := by unfold State.setDie; split <;> rfl
@[simp] theorem State.setDie_pkg (s : State) (d : Nat) (f : Die → Die) : (s.setDie d f).pkg = s.pkg := by unfold State.setDie; split <;> rfl
@[simp] theorem State.setDie_unreachable (s : State) (d : Nat) (f : Die → Die) : (s.setDie d f).unreachable = s.unreachable := by unfold State.setDie; split <;> rfl
@[simp] theorem State.setDie_deadLinks (s : State) (d : Nat) (f : Die → Die) : (s.setDie d f).deadLinks = s.deadLinks := by unfold State.setDie; split <;> rfl
@[simp] theorem State.setDie_cxl256 (s : State) (d : Nat) (f : Die → Die) : (s.setDie d f).cxl256 = s.cxl256 := by unfold State.setDie; split <;> rfl
@[simp] theorem State.setDie_shut (s : State) (d : Nat) (f : Die → Die) : (s.setDie d f).shut = s.shut := by unfold State.setDie; split <;> rfl
@[simp] theorem State.setDie_agenda (s : State) (d : Nat) (f : Die → Die) : (s.setDie d f).agenda = s.agenda := by unfold State.setDie; split <;> rfl
@[simp] theorem State.setDie_nextId (s : State) (d : Nat) (f : Die → Die) : (s.setDie d f).nextId = s.nextId := by unfold State.setDie; split <;> rfl
@[simp] theorem State.setDie_freeCount (s : State) (d : Nat) (f : Die → Die) : (s.setDie d f).freeCount = s.freeCount := by unfold State.setDie; split <;> rfl
@[simp] theorem State.mapHarts_mem (s : State) (p : Hart → Bool) (f : Hart → Hart) : (s.mapHarts p f).mem = s.mem := rfl
@[simp] theorem State.mapHarts_cores (s : State) (p : Hart → Bool) (f : Hart → Hart) : (s.mapHarts p f).cores = s.cores := rfl
@[simp] theorem State.mapHarts_flues (s : State) (p : Hart → Bool) (f : Hart → Hart) : (s.mapHarts p f).flues = s.flues := rfl
@[simp] theorem State.mapHarts_clusters (s : State) (p : Hart → Bool) (f : Hart → Hart) : (s.mapHarts p f).clusters = s.clusters := rfl
@[simp] theorem State.mapHarts_dies (s : State) (p : Hart → Bool) (f : Hart → Hart) : (s.mapHarts p f).dies = s.dies := rfl
@[simp] theorem State.mapHarts_launches (s : State) (p : Hart → Bool) (f : Hart → Hart) : (s.mapHarts p f).launches = s.launches := rfl
@[simp] theorem State.mapHarts_gangs (s : State) (p : Hart → Bool) (f : Hart → Hart) : (s.mapHarts p f).gangs = s.gangs := rfl
@[simp] theorem State.mapHarts_groves (s : State) (p : Hart → Bool) (f : Hart → Hart) : (s.mapHarts p f).groves = s.groves := rfl
@[simp] theorem State.mapHarts_accounts (s : State) (p : Hart → Bool) (f : Hart → Hart) : (s.mapHarts p f).accounts = s.accounts := rfl
@[simp] theorem State.mapHarts_cmds (s : State) (p : Hart → Bool) (f : Hart → Hart) : (s.mapHarts p f).cmds = s.cmds := rfl
@[simp] theorem State.mapHarts_joins (s : State) (p : Hart → Bool) (f : Hart → Hart) : (s.mapHarts p f).joins = s.joins := rfl
@[simp] theorem State.mapHarts_keys (s : State) (p : Hart → Bool) (f : Hart → Hart) : (s.mapHarts p f).keys = s.keys := rfl
@[simp] theorem State.mapHarts_badPages (s : State) (p : Hart → Bool) (f : Hart → Hart) : (s.mapHarts p f).badPages = s.badPages := rfl
@[simp] theorem State.mapHarts_ticks (s : State) (p : Hart → Bool) (f : Hart → Hart) : (s.mapHarts p f).ticks = s.ticks := rfl
@[simp] theorem State.mapHarts_time0 (s : State) (p : Hart → Bool) (f : Hart → Hart) : (s.mapHarts p f).time0 = s.time0 := rfl
@[simp] theorem State.mapHarts_caphead (s : State) (p : Hart → Bool) (f : Hart → Hart) : (s.mapHarts p f).caphead = s.caphead := rfl
@[simp] theorem State.mapHarts_energyCount (s : State) (p : Hart → Bool) (f : Hart → Hart) : (s.mapHarts p f).energyCount = s.energyCount := rfl
@[simp] theorem State.mapHarts_attested (s : State) (p : Hart → Bool) (f : Hart → Hart) : (s.mapHarts p f).attested = s.attested := rfl
@[simp] theorem State.mapHarts_remoteLists (s : State) (p : Hart → Bool) (f : Hart → Hart) : (s.mapHarts p f).remoteLists = s.remoteLists := rfl
@[simp] theorem State.mapHarts_felledAway (s : State) (p : Hart → Bool) (f : Hart → Hart) : (s.mapHarts p f).felledAway = s.felledAway := rfl
@[simp] theorem State.mapHarts_fabUp (s : State) (p : Hart → Bool) (f : Hart → Hart) : (s.mapHarts p f).fabUp = s.fabUp := rfl
@[simp] theorem State.mapHarts_fabSize (s : State) (p : Hart → Bool) (f : Hart → Hart) : (s.mapHarts p f).fabSize = s.fabSize := rfl
@[simp] theorem State.mapHarts_pkg (s : State) (p : Hart → Bool) (f : Hart → Hart) : (s.mapHarts p f).pkg = s.pkg := rfl
@[simp] theorem State.mapHarts_unreachable (s : State) (p : Hart → Bool) (f : Hart → Hart) : (s.mapHarts p f).unreachable = s.unreachable := rfl
@[simp] theorem State.mapHarts_deadLinks (s : State) (p : Hart → Bool) (f : Hart → Hart) : (s.mapHarts p f).deadLinks = s.deadLinks := rfl
@[simp] theorem State.mapHarts_cxl256 (s : State) (p : Hart → Bool) (f : Hart → Hart) : (s.mapHarts p f).cxl256 = s.cxl256 := rfl
@[simp] theorem State.mapHarts_shut (s : State) (p : Hart → Bool) (f : Hart → Hart) : (s.mapHarts p f).shut = s.shut := rfl
@[simp] theorem State.mapHarts_agenda (s : State) (p : Hart → Bool) (f : Hart → Hart) : (s.mapHarts p f).agenda = s.agenda := rfl
@[simp] theorem State.mapHarts_nextId (s : State) (p : Hart → Bool) (f : Hart → Hart) : (s.mapHarts p f).nextId = s.nextId := rfl
@[simp] theorem State.mapHarts_freeCount (s : State) (p : Hart → Bool) (f : Hart → Hart) : (s.mapHarts p f).freeCount = s.freeCount := rfl

/-! ### Commit -/

@[simp] theorem State.rd_wr (s : State) (d r : Reg) (v : Word) : (s.wr d v).rd r = if r = d ∧ d ≠ 0 then v else s.rd r := Hart.rd_wr ..
@[simp] theorem State.rd_adv (s : State) (n : Word) (r : Reg) : (s.adv n).rd r = s.rd r := rfl
@[simp] theorem State.rd_zero (s : State) : s.rd 0 = 0 := rfl
@[simp] theorem State.wr_zero (s : State) (v : Word) : s.wr 0 v = s := rfl

/-! ### A queue at rest -/

@[simp] theorem Hart.flushed_viq (h : Hart) : h.flushed.viq = [] := rfl
@[simp] theorem Hart.flushed_front (h : Hart) : h.flushed.front = none := rfl
@[simp] theorem Hart.flushed_tokens (h : Hart) : h.flushed.tokens = h.returned := rfl
theorem Hart.returned_nil {h : Hart} (hq : h.viq = []) : h.returned = h.tokens := by simp [Hart.returned, hq]
/-- Nothing is discarded where nothing is queued. -/
theorem Hart.flushed_rest {h : Hart} (hq : h.viq = []) (hf : h.front = none) : h.flushed = h := by
  obtain ⟨⟩ := h
  simp_all [Hart.flushed, Hart.returned]
/-- With no acknowledgement lost, an instruction that waits for stores does what it does (R355). -/
theorem State.acked_none {s : State} (hl : s.h.lost = []) (n : Nat) (a b : Bool) (o : Out) : s.acked n a b o = o := by
  simp [State.acked, State.lostFor, hl]

end Sys2Proof.Machine
end

