-- ==== Sys2Proof/Laws/Issue.lean ====
section
/-! SUPPORT. Issue, dispatch and retirement of a vector instruction on a hart whose vector work is at rest. -/

namespace Sys2Proof.Machine

theorem Hart.boundTo_nil {h : Hart} (hb : h.binds = []) (n : Nat) : h.boundTo n = none := by
  simp [Hart.boundTo, hb]

theorem Hart.feeds_nil {h : Hart} (hb : h.binds = []) (seen : List Nat) (l : List (Nat × Nat)) : h.feeds seen l = [] := by
  induction l generalizing seen with
  | nil => rfl
  | cons p t ih =>
    obtain ⟨r, n⟩ := p
    rw [Hart.feeds, Hart.boundTo_nil hb]
    split <;> exact ih _

/-- Without bindings nothing is delivered before an effect. -/
theorem withStrips_unbound {α : Type} {s : State} (hb : s.h.binds = []) (v : VCtx) (op : VOp) (m : Nat → M α) :
    (withStrips v op m).on s = match (m (s.h.indexWidth op.index)).on s with
      | (.ok r, t) => (.ok (r, []), t)
      | (.error e, t) => (.error e, t) := by
  have hfin : (do
      let r ← m (s.h.indexWidth op.index)
      return (r, ([] : List WriteBack)) : M (α × List WriteBack)).on s = match (m (s.h.indexWidth op.index)).on s with
        | (.ok r, t) => (.ok (r, []), t)
        | (.error e, t) => (.error e, t) := by
    rw [M.on_bind]
    rcases (m (s.h.indexWidth op.index)).on s with ⟨r, u⟩
    cases r <;> rfl
  rw [withStrips, M.on_bind, M.on_get]
  simp only [Hart.feeds_nil hb]
  by_cases h : s.h.resumed
  · simp only [h, if_true]; exact hfin
  · simp only [h]; exact hfin

/-- Without bindings an instruction has its own effect alone. -/
theorem fedEffect_unbound {s : State} (hb : s.h.binds = []) (v : VCtx) (op : VOp) :
    (fedEffect v op).on s = (vectorEffect v (s.h.indexWidth op.index) op).on s := by
  rw [fedEffect, M.on_bind, withStrips_unbound hb]
  rcases (vectorEffect v (s.h.indexWidth op.index) op).on s with ⟨r, u⟩
  cases r with
  | error e => rfl
  | ok r => obtain ⟨c, st⟩ := r; rfl

theorem State.runVector_done {s t : State} {op : VOp} {c : Cost} (hb : s.h.binds = [])
    (h : (vectorEffect s.vctx (s.h.indexWidth op.index) op).on s = (.ok (c, none), t)) : s.runVector op = (.done c, t) := by
  rw [State.runVector, fedEffect_unbound hb, h]

/-- Nothing is held where the gate is open, the damper is not engaged and the lane clocks run; a die manager core has neither damper nor
lane clocks. -/
theorem State.holdsBack_false {s : State} (hg : (s.core (coreOf s.h.key)).shut = false)
    (h : s.h.key.dm = true ∨
      ((s.flue (flueOf (coreOf s.h.key))).damped = false ∧ s.lanesClocked (coreOf s.h.key) = true))
    (op : VOp) (c : Cost) : s.holdsBack op c = false := by
  rw [State.holdsBack, hg, Bool.false_or, State.damps]
  rcases h with h | ⟨h, hl⟩
  · simp [coreOf, h]
  · simp [h, hl]

theorem assoc_assocSet {α β : Type} [DecidableEq α] (l : List (α × β)) (k j : α) (v d : β) :
    assoc (assocSet l k v) j d = if j = k then v else assoc l j d := by
  induction l with
  | nil =>
    by_cases h : k = j
    · simp [assoc, assocSet, h]
    · have : ¬ j = k := fun e => h e.symm
      simp [assoc, assocSet, h, this]
  | cons p t ih =>
    obtain ⟨a, b⟩ := p
    simp only [assocSet]
    by_cases h : a = k
    · subst h
      by_cases h2 : a = j
      · simp [assoc, h2]
      · have : ¬ j = a := fun e => h2 e.symm
        simp [assoc, h2, this]
    · simp only [h, if_false, assoc, ih]
      by_cases h2 : a = j
      · have : ¬ j = k := fun e => h (h2.trans e)
        simp [h2, this]
      · simp [h2]

/-- A core's state after a change of one core. -/
theorem State.core_setCore (s : State) (k j : CoreKey) (f : CoreSt → CoreSt) :
    (s.setCore k f).core j = if j = k then f (s.core k) else s.core j := by
  rw [State.core, State.setCore]
  exact assoc_assocSet ..

theorem CoreSt.Kept.refl (a : CoreSt) : a.Kept a := by cases a; rfl

theorem CoreSt.Kept.trans {a b c : CoreSt} (h : a.Kept b) (g : b.Kept c) : a.Kept c := by
  unfold CoreSt.Kept at *
  rw [← h, ← g]

theorem CoreSt.charged_kept (a : CoreSt) (n : Nat) (ps : List Rat) : a.Kept (a.charged n ps) := rfl

theorem Hart.Same.refl (a : Hart) : a.Same a := by cases a; rfl

theorem Hart.Same.trans {a b c : Hart} (h : a.Same b) (g : b.Same c) : a.Same c := by
  unfold Hart.Same at *
  rw [← h, ← g]

theorem State.KeptAround.refl (s : State) : s.KeptAround s := ⟨rfl, fun _ => rfl⟩

/-- Changes around a hart, one after another. -/
theorem State.KeptAround.trans {s t u : State} (h : s.KeptAround t) (g : t.KeptAround u) : s.KeptAround u := by
  refine ⟨?_, fun k => (h.2 k).trans (g.2 k)⟩
  rw [← h.1, ← g.1]

theorem State.KeptAround.setCore {s t : State} (h : s.KeptAround t) (k : CoreKey) (f : CoreSt → CoreSt)
    (hf : ∀ a : CoreSt, a.Kept (f a)) : s.KeptAround (t.setCore k f) := by
  refine ⟨h.1, fun j => ?_⟩
  rw [State.core_setCore]
  split
  · rename_i e; subst e; exact (h.2 j).trans (hf _)
  · exact h.2 j

theorem State.account_h (s : State) (c : Tally) : (s.account c).h = s.h := by
  unfold State.account; split
  · rfl
  · split
    · rfl
    · split <;> rfl

theorem State.KeptAround.account {s t : State} (h : s.KeptAround t) (c : Tally) : s.KeptAround (t.account c) := by
  have e : t.KeptAround (t.account c) := by
    unfold State.account
    split
    · exact .refl t
    · split
      · exact .refl t
      · split <;> exact ⟨rfl, fun _ => rfl⟩
  exact State.KeptAround.trans h e

theorem State.KeptAround.setHart {s t : State} (h : s.KeptAround t) (x : Hart) : s.KeptAround { t with h := x } :=
  ⟨h.1, h.2⟩

theorem State.takeLanes_same (s : State) (op : VOp) (c : Cost) : s.h.Same (s.takeLanes op c).h := by
  unfold State.takeLanes; split <;> rfl

theorem State.KeptAround.takeLanes {s t : State} (h : s.KeptAround t) (op : VOp) (c : Cost) : s.KeptAround (t.takeLanes op c) := by
  unfold State.takeLanes; split
  · exact h
  · exact State.KeptAround.setHart h _

/-- A charge leaves the hart as it was but for its lanes' time. -/
theorem State.charge_same (s : State) (op : VOp) (c : Cost) : s.h.Same (s.charge op c).h := by
  unfold State.charge
  dsimp only
  split
  · exact .refl _
  · exact State.takeLanes_same (s.setCore ..) op c

theorem State.KeptAround.charge {s t : State} (h : s.KeptAround t) (op : VOp) (c : Cost) : s.KeptAround (t.charge op c) := by
  unfold State.charge
  dsimp only
  split
  · exact h
  · exact State.KeptAround.takeLanes (State.KeptAround.setCore h _ _ fun a => a.charged_kept _ _) op c

theorem Hart.popHead_nil {h : Hart} (hq : h.viq = []) : h.popHead = h := by
  simp [Hart.popHead, Hart.head, hq]

/-- Retirement of an instruction that posts no token, with nothing queued. -/
theorem State.commit_eq {op : VOp} (hpost : op.posts = none) {s : State} (hq : s.h.viq = []) :
    s.commit op = { s with h := { s.h with vsi := 0, vsr := 0, vsp := 0, pc := s.h.pc + op.bytes } } := by
  rw [State.commit, State.postToken, hpost, State.retire]
  dsimp only
  rw [Hart.popHead_nil hq]

theorem State.commit_kept {op : VOp} (hpost : op.posts = none) {s t : State} (h : s.KeptAround t) (hq : t.h.viq = []) :
    s.KeptAround (t.commit op) := by
  rw [State.commit_eq hpost hq]; exact State.KeptAround.setHart h _

theorem State.seedStep_h (s : State) : s.seedStep.h = s.h := rfl

theorem State.seedStep_kept {s t : State} (h : s.KeptAround t) : s.KeptAround t.seedStep :=
  State.KeptAround.setCore h _ _ fun _ => rfl

/-- No post waits, so no stream is held. -/
theorem VOp.streamHeld_false {h : Hart} (hp : h.pend = []) (op : VOp) : op.streamHeld h = false := by
  unfold VOp.streamHeld
  rw [hp]
  cases op <;> simp

/-- A vector instruction that takes and posts no token, on a hart at rest, whose effect ends without a stop: it retires, and
the hart goes on after it. -/
theorem State.issue_done {s t : State} {enc : Word} {op : VOp} {c : Cost} (hr : s.Ready)
    (hmode : op.wrongMode s.h.mm = false) (hlegal : op.legal s s.vctx = true) (hval : op.badValue s s.vctx = none)
    (hpost : op.posts = none) (htake : op.takes s.h = none) (hidle : op.idle s.h s.vctx = false)
    (hrun : (vectorEffect s.vctx (s.h.indexWidth op.index) op).on s = (.ok (c, none), t))
    (hups : t.h.upset = []) (hviq : t.h.viq = []) (htake' : op.takes t.h = none) :
    ∃ u, s.issue enc op = .next u ∧ t.KeptAround u ∧
      Hart.Same { t.h with vsi := 0, vsr := 0, vsp := 0, pc := t.h.pc + op.bytes } u.h := by
  obtain ⟨⟨⟨hq, ha, hp⟩, hb, -⟩, hgate, hdamp⟩ := hr
  have hv := State.runVector_done hb hrun
  let e := VEntry.fresh enc op s.h.resolved
  have hd : s.dispatch e = s.finish e false := by
    simp only [State.dispatch, e, VEntry.fresh, VOp.tokenBlocked, VOp.streamHeld_false hp, htake, hidle,
      State.holdsBack_false hgate hdamp, Bool.false_or, Bool.false_eq_true, if_false]
  have hk := State.KeptAround.account (State.KeptAround.charge (State.KeptAround.refl t) op c) c.tally
  have hh : t.h.Same ((t.charge op c).account c.tally).h := by rw [State.account_h]; exact t.charge_same op c
  generalize hx : (t.charge op c).account c.tally = x at hk hh
  have hu : x.h.upset = [] := by rw [← hups, ← hh]
  have hw : x.h.viq = [] := by rw [← hviq, ← hh]
  have ht : op.takes x.h = none := by
    rw [← htake', ← hh]; cases op <;> rfl
  have hf : s.finish e false = if c.units.isEmpty then x.commit op else x.seedStep.commit op := by
    rw [State.finish]
    simp only [e, VEntry.fresh, VEntry.look, Bool.false_eq_true, if_false, hv, Ran1.cost, hx, State.takeToken, ht,
      State.checkThenCommit, hu]
  refine ⟨s.finish e false, ?_, ?_, ?_⟩
  · simp only [State.issue, hmode, hlegal, hval, ha, hq, List.isEmpty_nil, Bool.not_true, Bool.false_eq_true, if_false, if_true]
    exact congrArg _ hd
  · rw [hf]
    split
    · exact State.commit_kept hpost hk hw
    · exact State.commit_kept hpost (State.seedStep_kept hk) hw
  · rw [hf]
    split
    · rw [State.commit_eq hpost hw]; unfold Hart.Same at *; rw [← hh]
    · rw [State.commit_eq hpost (s := x.seedStep) hw]; unfold Hart.Same at *; rw [← hh]; rfl

end Sys2Proof.Machine
end

