-- ==== Sys2Proof/Laws/PerInstr.lean ====
section
/-! SUPPORT. The round trip of each constructor of Instr: decoding what the encoder writes gives the instruction and its
bytes back, for every operand value; a row that no word stands for has no encoding. -/

namespace Sys2Proof.Laws

/-- Decoding the bytes of a well-formed instruction that has an encoding gives it back with its length. -/
def RoundTrip.Statement (i : Instr) : Prop :=
  i.wf = true → i.encoded = true → decode (encodeBytes i) = .ok (i, i.size)

theorem roundTrip32 {i : Instr} {w : BitVec 32} {maj : BitVec 6} (he : encode i = w.setWidth 64) (hs : i.size = 4)
    (ht : Tagged maj w) (hd : decode32 w = .ok i) : RoundTrip.Statement i := by
  intro hw _
  rw [encodeBytes, hs, he]
  exact decode_word32 w i ht.1 hd hw

theorem roundTrip16 {i : Instr} {w : BitVec 16} (he : encode i = w.setWidth 64) (hs : i.size = 2) (h0 : bf 0 1 w = 0#1)
    (hd : i.wf = true → decode16 w = .ok i) : RoundTrip.Statement i := by
  intro hw _
  rw [encodeBytes, hs, he]
  exact decode_word16 w i h0 (hd hw) hw

theorem roundTrip64 {i : Instr} {c : BitVec 6} {t : Tile} (he : encode i = encTile c t) (hs : i.size = 8)
    (hd : decode64 (encTile c t) = .ok i) : RoundTrip.Statement i := by
  intro hw _
  rw [encodeBytes, hs, he]
  exact decode_word64 _ i (encTile_fixed c t).1 hd hw

/-- A compressed word other than `N_INC` is not the zero parcel. -/
theorem encN_ne_zero {op : BitVec 3} {d : Reg} {p : BitVec 7} (h : op.toNat ≠ 0 ∨ d.toNat ≠ 0 ∨ p.toNat ≠ 0) :
    encN op d p ≠ 0#16 := by
  intro e
  have h2 := congrArg BitVec.toNat e
  have z : (0#16).toNat = 0 := rfl
  rw [encN_toNat, z] at h2
  omega

theorem decode16_encN {op : BitVec 3} {d : Reg} {p : BitVec 7} {r : Except DecodeError Instr}
    (h : op.toNat ≠ 0 ∨ d.toNat ≠ 0 ∨ p.toNat ≠ 0)
    (hd : (match op.toNat with
      | 0 => Except.ok (.nInc d p)
      | 1 => mbz (bf 14 2 (encN op d p) == 0) (.nCopy d (bf 9 5 (encN op d p)))
      | 2 => .ok (.nLdf d p)
      | 3 => .ok (.nStf d p)
      | 4 => .ok (.nBrz d p)
      | 5 => .ok (.nBrnz d p)
      | 6 => .ok (.nGo (bf 4 12 (encN op d p)))
      | _ => mbz (bf 14 2 (encN op d p) == 0) (.nAcc d (bf 9 5 (encN op d p)))) = r) :
    decode16 (encN op d p) = r := by
  rw [decode16, if_neg (encN_ne_zero h)]
  simp only [encN_fields]
  exact hd

theorem decode64_tile (c : BitVec 6) (t : Tile) (i : Instr) (h : (match c.toNat with
    | 0 => mbz true (.mop t)
    | 1 => mbz true (.mops t)
    | 2 => mbz true (.mopl t)
    | 3 => mbz true (.mopd t)
    | _ => .error .reservedMajor) = .ok i) : decode64 (encTile c t) = .ok i := by
  rw [decode64]
  simp only [encTile_fields, encTile_fixed]
  exact h


theorem RoundTrip.add (d a b : Reg) : RoundTrip.Statement (.add d a b) := by
  refine roundTrip32 rfl rfl (encSR_tagged ..) ?_
  rw [decode32, (encSR_tagged ..).2]
  change decAlu _ = _
  rw [decAlu, (encSR_fields ..).2.2.2.2.1]
  change mbz _ _ = _
  simp only [encSR_fields]
  rfl

theorem RoundTrip.sub (d a b : Reg) : RoundTrip.Statement (.sub d a b) := by
  refine roundTrip32 rfl rfl (encSR_tagged ..) ?_
  rw [decode32, (encSR_tagged ..).2]
  change decAlu _ = _
  rw [decAlu, (encSR_fields ..).2.2.2.2.1]
  change mbz _ _ = _
  simp only [encSR_fields]
  rfl

theorem RoundTrip.and (d a b : Reg) : RoundTrip.Statement (.and d a b) := by
  refine roundTrip32 rfl rfl (encSR_tagged ..) ?_
  rw [decode32, (encSR_tagged ..).2]
  change decAlu _ = _
  rw [decAlu, (encSR_fields ..).2.2.2.2.1]
  change mbz _ _ = _
  simp only [encSR_fields]
  rfl

theorem RoundTrip.or (d a b : Reg) : RoundTrip.Statement (.or d a b) := by
  refine roundTrip32 rfl rfl (encSR_tagged ..) ?_
  rw [decode32, (encSR_tagged ..).2]
  change decAlu _ = _
  rw [decAlu, (encSR_fields ..).2.2.2.2.1]
  change mbz _ _ = _
  simp only [encSR_fields]
  rfl

theorem RoundTrip.xor (d a b : Reg) : RoundTrip.Statement (.xor d a b) := by
  refine roundTrip32 rfl rfl (encSR_tagged ..) ?_
  rw [decode32, (encSR_tagged ..).2]
  change decAlu _ = _
  rw [decAlu, (encSR_fields ..).2.2.2.2.1]
  change mbz _ _ = _
  simp only [encSR_fields]
  rfl

theorem RoundTrip.andn (d a b : Reg) : RoundTrip.Statement (.andn d a b) := by
  refine roundTrip32 rfl rfl (encSR_tagged ..) ?_
  rw [decode32, (encSR_tagged ..).2]
  change decAlu _ = _
  rw [decAlu, (encSR_fields ..).2.2.2.2.1]
  change mbz _ _ = _
  simp only [encSR_fields]
  rfl

theorem RoundTrip.sll (d a b : Reg) : RoundTrip.Statement (.sll d a b) := by
  refine roundTrip32 rfl rfl (encSR_tagged ..) ?_
  rw [decode32, (encSR_tagged ..).2]
  change decAlu _ = _
  rw [decAlu, (encSR_fields ..).2.2.2.2.1]
  change mbz _ _ = _
  simp only [encSR_fields]
  rfl

theorem RoundTrip.srl (d a b : Reg) : RoundTrip.Statement (.srl d a b) := by
  refine roundTrip32 rfl rfl (encSR_tagged ..) ?_
  rw [decode32, (encSR_tagged ..).2]
  change decAlu _ = _
  rw [decAlu, (encSR_fields ..).2.2.2.2.1]
  change mbz _ _ = _
  simp only [encSR_fields]
  rfl

theorem RoundTrip.sra (d a b : Reg) : RoundTrip.Statement (.sra d a b) := by
  refine roundTrip32 rfl rfl (encSR_tagged ..) ?_
  rw [decode32, (encSR_tagged ..).2]
  change decAlu _ = _
  rw [decAlu, (encSR_fields ..).2.2.2.2.1]
  change mbz _ _ = _
  simp only [encSR_fields]
  rfl

theorem RoundTrip.slt (d a b : Reg) : RoundTrip.Statement (.slt d a b) := by
  refine roundTrip32 rfl rfl (encSR_tagged ..) ?_
  rw [decode32, (encSR_tagged ..).2]
  change decAlu _ = _
  rw [decAlu, (encSR_fields ..).2.2.2.2.1]
  change mbz _ _ = _
  simp only [encSR_fields]
  rfl

theorem RoundTrip.sltu (d a b : Reg) : RoundTrip.Statement (.sltu d a b) := by
  refine roundTrip32 rfl rfl (encSR_tagged ..) ?_
  rw [decode32, (encSR_tagged ..).2]
  change decAlu _ = _
  rw [decAlu, (encSR_fields ..).2.2.2.2.1]
  change mbz _ _ = _
  simp only [encSR_fields]
  rfl

theorem RoundTrip.min (d a b : Reg) : RoundTrip.Statement (.min d a b) := by
  refine roundTrip32 rfl rfl (encSR_tagged ..) ?_
  rw [decode32, (encSR_tagged ..).2]
  change decAlu _ = _
  rw [decAlu, (encSR_fields ..).2.2.2.2.1]
  change mbz _ _ = _
  simp only [encSR_fields]
  rfl

theorem RoundTrip.max (d a b : Reg) : RoundTrip.Statement (.max d a b) := by
  refine roundTrip32 rfl rfl (encSR_tagged ..) ?_
  rw [decode32, (encSR_tagged ..).2]
  change decAlu _ = _
  rw [decAlu, (encSR_fields ..).2.2.2.2.1]
  change mbz _ _ = _
  simp only [encSR_fields]
  rfl

theorem RoundTrip.minu (d a b : Reg) : RoundTrip.Statement (.minu d a b) := by
  refine roundTrip32 rfl rfl (encSR_tagged ..) ?_
  rw [decode32, (encSR_tagged ..).2]
  change decAlu _ = _
  rw [decAlu, (encSR_fields ..).2.2.2.2.1]
  change mbz _ _ = _
  simp only [encSR_fields]
  rfl

theorem RoundTrip.maxu (d a b : Reg) : RoundTrip.Statement (.maxu d a b) := by
  refine roundTrip32 rfl rfl (encSR_tagged ..) ?_
  rw [decode32, (encSR_tagged ..).2]
  change decAlu _ = _
  rw [decAlu, (encSR_fields ..).2.2.2.2.1]
  change mbz _ _ = _
  simp only [encSR_fields]
  rfl

theorem RoundTrip.mul (d a b : Reg) : RoundTrip.Statement (.mul d a b) := by
  refine roundTrip32 rfl rfl (encSR_tagged ..) ?_
  rw [decode32, (encSR_tagged ..).2]
  change decAlu _ = _
  rw [decAlu, (encSR_fields ..).2.2.2.2.1]
  change mbz _ _ = _
  simp only [encSR_fields]
  rfl

theorem RoundTrip.mulh (d a b : Reg) : RoundTrip.Statement (.mulh d a b) := by
  refine roundTrip32 rfl rfl (encSR_tagged ..) ?_
  rw [decode32, (encSR_tagged ..).2]
  change decAlu _ = _
  rw [decAlu, (encSR_fields ..).2.2.2.2.1]
  change mbz _ _ = _
  simp only [encSR_fields]
  rfl

theorem RoundTrip.mulhu (d a b : Reg) : RoundTrip.Statement (.mulhu d a b) := by
  refine roundTrip32 rfl rfl (encSR_tagged ..) ?_
  rw [decode32, (encSR_tagged ..).2]
  change decAlu _ = _
  rw [decAlu, (encSR_fields ..).2.2.2.2.1]
  change mbz _ _ = _
  simp only [encSR_fields]
  rfl

theorem RoundTrip.div (d a b : Reg) : RoundTrip.Statement (.div d a b) := by
  refine roundTrip32 rfl rfl (encSR_tagged ..) ?_
  rw [decode32, (encSR_tagged ..).2]
  change decAlu _ = _
  rw [decAlu, (encSR_fields ..).2.2.2.2.1]
  change mbz _ _ = _
  simp only [encSR_fields]
  rfl

theorem RoundTrip.divu (d a b : Reg) : RoundTrip.Statement (.divu d a b) := by
  refine roundTrip32 rfl rfl (encSR_tagged ..) ?_
  rw [decode32, (encSR_tagged ..).2]
  change decAlu _ = _
  rw [decAlu, (encSR_fields ..).2.2.2.2.1]
  change mbz _ _ = _
  simp only [encSR_fields]
  rfl

theorem RoundTrip.rem (d a b : Reg) : RoundTrip.Statement (.rem d a b) := by
  refine roundTrip32 rfl rfl (encSR_tagged ..) ?_
  rw [decode32, (encSR_tagged ..).2]
  change decAlu _ = _
  rw [decAlu, (encSR_fields ..).2.2.2.2.1]
  change mbz _ _ = _
  simp only [encSR_fields]
  rfl

theorem RoundTrip.remu (d a b : Reg) : RoundTrip.Statement (.remu d a b) := by
  refine roundTrip32 rfl rfl (encSR_tagged ..) ?_
  rw [decode32, (encSR_tagged ..).2]
  change decAlu _ = _
  rw [decAlu, (encSR_fields ..).2.2.2.2.1]
  change mbz _ _ = _
  simp only [encSR_fields]
  rfl

theorem RoundTrip.clz (d a : Reg) : RoundTrip.Statement (.clz d a) := by
  refine roundTrip32 rfl rfl (encSR_tagged ..) ?_
  rw [decode32, (encSR_tagged ..).2]
  change decAlu _ = _
  rw [decAlu, (encSR_fields ..).2.2.2.2.1]
  change mbz _ _ = _
  simp only [encSR_fields]
  rfl

theorem RoundTrip.ctz (d a : Reg) : RoundTrip.Statement (.ctz d a) := by
  refine roundTrip32 rfl rfl (encSR_tagged ..) ?_
  rw [decode32, (encSR_tagged ..).2]
  change decAlu _ = _
  rw [decAlu, (encSR_fields ..).2.2.2.2.1]
  change mbz _ _ = _
  simp only [encSR_fields]
  rfl

theorem RoundTrip.popc (d a : Reg) : RoundTrip.Statement (.popc d a) := by
  refine roundTrip32 rfl rfl (encSR_tagged ..) ?_
  rw [decode32, (encSR_tagged ..).2]
  change decAlu _ = _
  rw [decAlu, (encSR_fields ..).2.2.2.2.1]
  change mbz _ _ = _
  simp only [encSR_fields]
  rfl

theorem RoundTrip.addw (d a b : Reg) : RoundTrip.Statement (.addw d a b) := by
  refine roundTrip32 rfl rfl (encSR_tagged ..) ?_
  rw [decode32, (encSR_tagged ..).2]
  change decAlu _ = _
  rw [decAlu, (encSR_fields ..).2.2.2.2.1]
  change mbz _ _ = _
  simp only [encSR_fields]
  rfl

theorem RoundTrip.subw (d a b : Reg) : RoundTrip.Statement (.subw d a b) := by
  refine roundTrip32 rfl rfl (encSR_tagged ..) ?_
  rw [decode32, (encSR_tagged ..).2]
  change decAlu _ = _
  rw [decAlu, (encSR_fields ..).2.2.2.2.1]
  change mbz _ _ = _
  simp only [encSR_fields]
  rfl

theorem RoundTrip.addi (d a : Reg) (i : BitVec 14) : RoundTrip.Statement (.addi d a i) := by
  refine roundTrip32 rfl rfl (encSI_tagged ..) ?_
  rw [decode32, (encSI_tagged ..).2]
  change Except.ok _ = _
  simp only [encSI_fields]

theorem RoundTrip.andi (d a : Reg) (i : BitVec 14) : RoundTrip.Statement (.andi d a i) := by
  refine roundTrip32 rfl rfl (encSI_tagged ..) ?_
  rw [decode32, (encSI_tagged ..).2]
  change Except.ok _ = _
  simp only [encSI_fields]

theorem RoundTrip.ori (d a : Reg) (i : BitVec 14) : RoundTrip.Statement (.ori d a i) := by
  refine roundTrip32 rfl rfl (encSI_tagged ..) ?_
  rw [decode32, (encSI_tagged ..).2]
  change Except.ok _ = _
  simp only [encSI_fields]

theorem RoundTrip.xori (d a : Reg) (i : BitVec 14) : RoundTrip.Statement (.xori d a i) := by
  refine roundTrip32 rfl rfl (encSI_tagged ..) ?_
  rw [decode32, (encSI_tagged ..).2]
  change Except.ok _ = _
  simp only [encSI_fields]

theorem RoundTrip.slli (d a : Reg) (s : BitVec 6) : RoundTrip.Statement (.slli d a s) := by
  refine roundTrip32 rfl rfl (encSI_tagged ..) ?_
  rw [decode32, (encSI_tagged ..).2]
  change decShi _ = _
  rw [decShi, (encSI_shift ..).2.2]
  change mbz _ _ = _
  simp only [encSI_fields, encSI_shift]
  rfl

theorem RoundTrip.srli (d a : Reg) (s : BitVec 6) : RoundTrip.Statement (.srli d a s) := by
  refine roundTrip32 rfl rfl (encSI_tagged ..) ?_
  rw [decode32, (encSI_tagged ..).2]
  change decShi _ = _
  rw [decShi, (encSI_shift ..).2.2]
  change mbz _ _ = _
  simp only [encSI_fields, encSI_shift]
  rfl

theorem RoundTrip.srai (d a : Reg) (s : BitVec 6) : RoundTrip.Statement (.srai d a s) := by
  refine roundTrip32 rfl rfl (encSI_tagged ..) ?_
  rw [decode32, (encSI_tagged ..).2]
  change decShi _ = _
  rw [decShi, (encSI_shift ..).2.2]
  change mbz _ _ = _
  simp only [encSI_fields, encSI_shift]
  rfl

theorem RoundTrip.slti (d a : Reg) (i : BitVec 14) : RoundTrip.Statement (.slti d a i) := by
  refine roundTrip32 rfl rfl (encSI_tagged ..) ?_
  rw [decode32, (encSI_tagged ..).2]
  change Except.ok _ = _
  simp only [encSI_fields]

theorem RoundTrip.lui (d : Reg) (i : BitVec 19) : RoundTrip.Statement (.lui d i) := by
  refine roundTrip32 rfl rfl (encSU_tagged ..) ?_
  rw [decode32, (encSU_tagged ..).2]
  change Except.ok _ = _
  simp only [encSU_fields]

theorem RoundTrip.addpc (d : Reg) (i : BitVec 19) : RoundTrip.Statement (.addpc d i) := by
  refine roundTrip32 rfl rfl (encSU_tagged ..) ?_
  rw [decode32, (encSU_tagged ..).2]
  change Except.ok _ = _
  simp only [encSU_fields]

theorem RoundTrip.beq (a b : Reg) (o : BitVec 14) : RoundTrip.Statement (.beq a b o) := by
  refine roundTrip32 rfl rfl (encSI_tagged ..) ?_
  rw [decode32, (encSI_tagged ..).2]
  change Except.ok _ = _
  simp only [encSI_fields]

theorem RoundTrip.bne (a b : Reg) (o : BitVec 14) : RoundTrip.Statement (.bne a b o) := by
  refine roundTrip32 rfl rfl (encSI_tagged ..) ?_
  rw [decode32, (encSI_tagged ..).2]
  change Except.ok _ = _
  simp only [encSI_fields]

theorem RoundTrip.blt (a b : Reg) (o : BitVec 14) : RoundTrip.Statement (.blt a b o) := by
  refine roundTrip32 rfl rfl (encSI_tagged ..) ?_
  rw [decode32, (encSI_tagged ..).2]
  change Except.ok _ = _
  simp only [encSI_fields]

theorem RoundTrip.bge (a b : Reg) (o : BitVec 14) : RoundTrip.Statement (.bge a b o) := by
  refine roundTrip32 rfl rfl (encSI_tagged ..) ?_
  rw [decode32, (encSI_tagged ..).2]
  change Except.ok _ = _
  simp only [encSI_fields]

theorem RoundTrip.bltu (a b : Reg) (o : BitVec 14) : RoundTrip.Statement (.bltu a b o) := by
  refine roundTrip32 rfl rfl (encSI_tagged ..) ?_
  rw [decode32, (encSI_tagged ..).2]
  change Except.ok _ = _
  simp only [encSI_fields]

theorem RoundTrip.bgeu (a b : Reg) (o : BitVec 14) : RoundTrip.Statement (.bgeu a b o) := by
  refine roundTrip32 rfl rfl (encSI_tagged ..) ?_
  rw [decode32, (encSI_tagged ..).2]
  change Except.ok _ = _
  simp only [encSI_fields]

theorem RoundTrip.jal (d : Reg) (o : BitVec 19) : RoundTrip.Statement (.jal d o) := by
  refine roundTrip32 rfl rfl (encSU_tagged ..) ?_
  rw [decode32, (encSU_tagged ..).2]
  change Except.ok _ = _
  simp only [encSU_fields]

theorem RoundTrip.jalr (d a : Reg) (i : BitVec 14) : RoundTrip.Statement (.jalr d a i) := by
  refine roundTrip32 rfl rfl (encSI_tagged ..) ?_
  rw [decode32, (encSI_tagged ..).2]
  change Except.ok _ = _
  simp only [encSI_fields]

theorem RoundTrip.lb (d a : Reg) (i : BitVec 11) : RoundTrip.Statement (.lb d a i) := by
  refine roundTrip32 rfl rfl (encSM_tagged ..) ?_
  rw [decode32, (encSM_tagged ..).2]
  change decLoad _ = _
  rw [decLoad, (encSM_fields ..).2.2.1]
  change Except.ok _ = _
  simp only [encSM_fields]

theorem RoundTrip.lh (d a : Reg) (i : BitVec 11) : RoundTrip.Statement (.lh d a i) := by
  refine roundTrip32 rfl rfl (encSM_tagged ..) ?_
  rw [decode32, (encSM_tagged ..).2]
  change decLoad _ = _
  rw [decLoad, (encSM_fields ..).2.2.1]
  change Except.ok _ = _
  simp only [encSM_fields]

theorem RoundTrip.lw (d a : Reg) (i : BitVec 11) : RoundTrip.Statement (.lw d a i) := by
  refine roundTrip32 rfl rfl (encSM_tagged ..) ?_
  rw [decode32, (encSM_tagged ..).2]
  change decLoad _ = _
  rw [decLoad, (encSM_fields ..).2.2.1]
  change Except.ok _ = _
  simp only [encSM_fields]

theorem RoundTrip.ld (d a : Reg) (i : BitVec 11) : RoundTrip.Statement (.ld d a i) := by
  refine roundTrip32 rfl rfl (encSM_tagged ..) ?_
  rw [decode32, (encSM_tagged ..).2]
  change decLoad _ = _
  rw [decLoad, (encSM_fields ..).2.2.1]
  change Except.ok _ = _
  simp only [encSM_fields]

theorem RoundTrip.lbz (d a : Reg) (i : BitVec 11) : RoundTrip.Statement (.lbz d a i) := by
  refine roundTrip32 rfl rfl (encSM_tagged ..) ?_
  rw [decode32, (encSM_tagged ..).2]
  change decLoad _ = _
  rw [decLoad, (encSM_fields ..).2.2.1]
  change Except.ok _ = _
  simp only [encSM_fields]

theorem RoundTrip.lhz (d a : Reg) (i : BitVec 11) : RoundTrip.Statement (.lhz d a i) := by
  refine roundTrip32 rfl rfl (encSM_tagged ..) ?_
  rw [decode32, (encSM_tagged ..).2]
  change decLoad _ = _
  rw [decLoad, (encSM_fields ..).2.2.1]
  change Except.ok _ = _
  simp only [encSM_fields]

theorem RoundTrip.lwz (d a : Reg) (i : BitVec 11) : RoundTrip.Statement (.lwz d a i) := by
  refine roundTrip32 rfl rfl (encSM_tagged ..) ?_
  rw [decode32, (encSM_tagged ..).2]
  change decLoad _ = _
  rw [decLoad, (encSM_fields ..).2.2.1]
  change Except.ok _ = _
  simp only [encSM_fields]

theorem RoundTrip.sb (d a : Reg) (i : BitVec 11) : RoundTrip.Statement (.sb d a i) := by
  refine roundTrip32 rfl rfl (encSM_tagged ..) ?_
  rw [decode32, (encSM_tagged ..).2]
  change decStore _ = _
  rw [decStore, (encSM_fields ..).2.2.1]
  change Except.ok _ = _
  simp only [encSM_fields]

theorem RoundTrip.sh (d a : Reg) (i : BitVec 11) : RoundTrip.Statement (.sh d a i) := by
  refine roundTrip32 rfl rfl (encSM_tagged ..) ?_
  rw [decode32, (encSM_tagged ..).2]
  change decStore _ = _
  rw [decStore, (encSM_fields ..).2.2.1]
  change Except.ok _ = _
  simp only [encSM_fields]

theorem RoundTrip.sw (d a : Reg) (i : BitVec 11) : RoundTrip.Statement (.sw d a i) := by
  refine roundTrip32 rfl rfl (encSM_tagged ..) ?_
  rw [decode32, (encSM_tagged ..).2]
  change decStore _ = _
  rw [decStore, (encSM_fields ..).2.2.1]
  change Except.ok _ = _
  simp only [encSM_fields]

theorem RoundTrip.sd (d a : Reg) (i : BitVec 11) : RoundTrip.Statement (.sd d a i) := by
  refine roundTrip32 rfl rfl (encSM_tagged ..) ?_
  rw [decode32, (encSM_tagged ..).2]
  change decStore _ = _
  rw [decStore, (encSM_fields ..).2.2.1]
  change Except.ok _ = _
  simp only [encSM_fields]

theorem RoundTrip.amoswap (d a b : Reg) (x : BitVec 4) (o : BitVec 2) : RoundTrip.Statement (.amoswap d a b x o) := by
  refine roundTrip32 rfl rfl (encSR_tagged ..) ?_
  rw [decode32, (encSR_tagged ..).2]
  change decAmo _ = _
  rw [decAmo, (encSR_amo ..).1]
  change Except.ok _ = _
  simp only [encSR_fields, encSR_amo]

theorem RoundTrip.amoadd (d a b : Reg) (x : BitVec 4) (o : BitVec 2) : RoundTrip.Statement (.amoadd d a b x o) := by
  refine roundTrip32 rfl rfl (encSR_tagged ..) ?_
  rw [decode32, (encSR_tagged ..).2]
  change decAmo _ = _
  rw [decAmo, (encSR_amo ..).1]
  change Except.ok _ = _
  simp only [encSR_fields, encSR_amo]

theorem RoundTrip.amoand (d a b : Reg) (x : BitVec 4) (o : BitVec 2) : RoundTrip.Statement (.amoand d a b x o) := by
  refine roundTrip32 rfl rfl (encSR_tagged ..) ?_
  rw [decode32, (encSR_tagged ..).2]
  change decAmo _ = _
  rw [decAmo, (encSR_amo ..).1]
  change Except.ok _ = _
  simp only [encSR_fields, encSR_amo]

theorem RoundTrip.amoor (d a b : Reg) (x : BitVec 4) (o : BitVec 2) : RoundTrip.Statement (.amoor d a b x o) := by
  refine roundTrip32 rfl rfl (encSR_tagged ..) ?_
  rw [decode32, (encSR_tagged ..).2]
  change decAmo _ = _
  rw [decAmo, (encSR_amo ..).1]
  change Except.ok _ = _
  simp only [encSR_fields, encSR_amo]

theorem RoundTrip.amoxor (d a b : Reg) (x : BitVec 4) (o : BitVec 2) : RoundTrip.Statement (.amoxor d a b x o) := by
  refine roundTrip32 rfl rfl (encSR_tagged ..) ?_
  rw [decode32, (encSR_tagged ..).2]
  change decAmo _ = _
  rw [decAmo, (encSR_amo ..).1]
  change Except.ok _ = _
  simp only [encSR_fields, encSR_amo]

theorem RoundTrip.amomin (d a b : Reg) (x : BitVec 4) (o : BitVec 2) : RoundTrip.Statement (.amomin d a b x o) := by
  refine roundTrip32 rfl rfl (encSR_tagged ..) ?_
  rw [decode32, (encSR_tagged ..).2]
  change decAmo _ = _
  rw [decAmo, (encSR_amo ..).1]
  change Except.ok _ = _
  simp only [encSR_fields, encSR_amo]

theorem RoundTrip.amomax (d a b : Reg) (x : BitVec 4) (o : BitVec 2) : RoundTrip.Statement (.amomax d a b x o) := by
  refine roundTrip32 rfl rfl (encSR_tagged ..) ?_
  rw [decode32, (encSR_tagged ..).2]
  change decAmo _ = _
  rw [decAmo, (encSR_amo ..).1]
  change Except.ok _ = _
  simp only [encSR_fields, encSR_amo]

theorem RoundTrip.amocas (d a b : Reg) (x : BitVec 4) (o : BitVec 2) : RoundTrip.Statement (.amocas d a b x o) := by
  refine roundTrip32 rfl rfl (encSR_tagged ..) ?_
  rw [decode32, (encSR_tagged ..).2]
  change decAmo _ = _
  rw [decAmo, (encSR_amo ..).1]
  change Except.ok _ = _
  simp only [encSR_fields, encSR_amo]

theorem RoundTrip.amowswap (d a b : Reg) (x : BitVec 4) (o : BitVec 2) : RoundTrip.Statement (.amowswap d a b x o) := by
  refine roundTrip32 rfl rfl (encSR_tagged ..) ?_
  rw [decode32, (encSR_tagged ..).2]
  change decAmow _ = _
  rw [decAmow, (encSR_amo ..).1]
  change Except.ok _ = _
  simp only [encSR_fields, encSR_amo]

theorem RoundTrip.amowadd (d a b : Reg) (x : BitVec 4) (o : BitVec 2) : RoundTrip.Statement (.amowadd d a b x o) := by
  refine roundTrip32 rfl rfl (encSR_tagged ..) ?_
  rw [decode32, (encSR_tagged ..).2]
  change decAmow _ = _
  rw [decAmow, (encSR_amo ..).1]
  change Except.ok _ = _
  simp only [encSR_fields, encSR_amo]

theorem RoundTrip.amowand (d a b : Reg) (x : BitVec 4) (o : BitVec 2) : RoundTrip.Statement (.amowand d a b x o) := by
  refine roundTrip32 rfl rfl (encSR_tagged ..) ?_
  rw [decode32, (encSR_tagged ..).2]
  change decAmow _ = _
  rw [decAmow, (encSR_amo ..).1]
  change Except.ok _ = _
  simp only [encSR_fields, encSR_amo]

theorem RoundTrip.amowor (d a b : Reg) (x : BitVec 4) (o : BitVec 2) : RoundTrip.Statement (.amowor d a b x o) := by
  refine roundTrip32 rfl rfl (encSR_tagged ..) ?_
  rw [decode32, (encSR_tagged ..).2]
  change decAmow _ = _
  rw [decAmow, (encSR_amo ..).1]
  change Except.ok _ = _
  simp only [encSR_fields, encSR_amo]

theorem RoundTrip.amowxor (d a b : Reg) (x : BitVec 4) (o : BitVec 2) : RoundTrip.Statement (.amowxor d a b x o) := by
  refine roundTrip32 rfl rfl (encSR_tagged ..) ?_
  rw [decode32, (encSR_tagged ..).2]
  change decAmow _ = _
  rw [decAmow, (encSR_amo ..).1]
  change Except.ok _ = _
  simp only [encSR_fields, encSR_amo]

theorem RoundTrip.amowmin (d a b : Reg) (x : BitVec 4) (o : BitVec 2) : RoundTrip.Statement (.amowmin d a b x o) := by
  refine roundTrip32 rfl rfl (encSR_tagged ..) ?_
  rw [decode32, (encSR_tagged ..).2]
  change decAmow _ = _
  rw [decAmow, (encSR_amo ..).1]
  change Except.ok _ = _
  simp only [encSR_fields, encSR_amo]

theorem RoundTrip.amowmax (d a b : Reg) (x : BitVec 4) (o : BitVec 2) : RoundTrip.Statement (.amowmax d a b x o) := by
  refine roundTrip32 rfl rfl (encSR_tagged ..) ?_
  rw [decode32, (encSR_tagged ..).2]
  change decAmow _ = _
  rw [decAmow, (encSR_amo ..).1]
  change Except.ok _ = _
  simp only [encSR_fields, encSR_amo]

theorem RoundTrip.amowcas (d a b : Reg) (x : BitVec 4) (o : BitVec 2) : RoundTrip.Statement (.amowcas d a b x o) := by
  refine roundTrip32 rfl rfl (encSR_tagged ..) ?_
  rw [decode32, (encSR_tagged ..).2]
  change decAmow _ = _
  rw [decAmow, (encSR_amo ..).1]
  change Except.ok _ = _
  simp only [encSR_fields, encSR_amo]

theorem RoundTrip.lda (d a : Reg) (x : BitVec 4) : RoundTrip.Statement (.lda d a x) := by
  refine roundTrip32 rfl rfl (encSR_tagged ..) ?_
  rw [decode32, (encSR_tagged ..).2]
  change decLso _ = _
  rw [decLso, (encSR_fields ..).2.2.2.2.1]
  change mbz _ _ = _
  simp only [encSR_fields]
  rfl

theorem RoundTrip.lwa (d a : Reg) (x : BitVec 4) : RoundTrip.Statement (.lwa d a x) := by
  refine roundTrip32 rfl rfl (encSR_tagged ..) ?_
  rw [decode32, (encSR_tagged ..).2]
  change decLso _ = _
  rw [decLso, (encSR_fields ..).2.2.2.2.1]
  change mbz _ _ = _
  simp only [encSR_fields]
  rfl

theorem RoundTrip.stl (a b : Reg) (x : BitVec 4) : RoundTrip.Statement (.stl a b x) := by
  refine roundTrip32 rfl rfl (encSR_tagged ..) ?_
  rw [decode32, (encSR_tagged ..).2]
  change decLso _ = _
  rw [decLso, (encSR_fields ..).2.2.2.2.1]
  change mbz _ _ = _
  simp only [encSR_fields]
  rfl

theorem RoundTrip.swl (a b : Reg) (x : BitVec 4) : RoundTrip.Statement (.swl a b x) := by
  refine roundTrip32 rfl rfl (encSR_tagged ..) ?_
  rw [decode32, (encSR_tagged ..).2]
  change decLso _ = _
  rw [decLso, (encSR_fields ..).2.2.2.2.1]
  change mbz _ _ = _
  simp only [encSR_fields]
  rfl

theorem RoundTrip.fence (x : BitVec 4) : RoundTrip.Statement (.fence x) := by
  refine roundTrip32 rfl rfl (encSR_tagged ..) ?_
  rw [decode32, (encSR_tagged ..).2]
  change decFence _ = _
  rw [decFence, (encSR_fields ..).2.2.2.2.1]
  change mbz _ _ = _
  simp only [encSR_fields]
  rfl

theorem RoundTrip.fenceSV (x : BitVec 4) : RoundTrip.Statement (.fenceSV x) := by
  refine roundTrip32 rfl rfl (encSR_tagged ..) ?_
  rw [decode32, (encSR_tagged ..).2]
  change decFence _ = _
  rw [decFence, (encSR_fields ..).2.2.2.2.1]
  change mbz _ _ = _
  simp only [encSR_fields]
  rfl

theorem RoundTrip.fenceVS (x : BitVec 4) : RoundTrip.Statement (.fenceVS x) := by
  refine roundTrip32 rfl rfl (encSR_tagged ..) ?_
  rw [decode32, (encSR_tagged ..).2]
  change decFence _ = _
  rw [decFence, (encSR_fields ..).2.2.2.2.1]
  change mbz _ _ = _
  simp only [encSR_fields]
  rfl

theorem RoundTrip.fenceVV (x : BitVec 4) : RoundTrip.Statement (.fenceVV x) := by
  refine roundTrip32 rfl rfl (encSR_tagged ..) ?_
  rw [decode32, (encSR_tagged ..).2]
  change decFence _ = _
  rw [decFence, (encSR_fields ..).2.2.2.2.1]
  change mbz _ _ = _
  simp only [encSR_fields]
  rfl

theorem RoundTrip.fenceSS (x : BitVec 4) : RoundTrip.Statement (.fenceSS x) := by
  refine roundTrip32 rfl rfl (encSR_tagged ..) ?_
  rw [decode32, (encSR_tagged ..).2]
  change decFence _ = _
  rw [decFence, (encSR_fields ..).2.2.2.2.1]
  change mbz _ _ = _
  simp only [encSR_fields]
  rfl

theorem RoundTrip.fenceI : RoundTrip.Statement (.fenceI) := by
  refine roundTrip32 rfl rfl (encSR_tagged ..) ?_
  rw [decode32, (encSR_tagged ..).2]
  change decFence _ = _
  rw [decFence, (encSR_fields ..).2.2.2.2.1]
  change mbz _ _ = _
  simp only [encSR_fields]
  rfl

theorem RoundTrip.getsr (d : Reg) (n : BitVec 9) : RoundTrip.Statement (.getsr d n) := by
  refine roundTrip32 rfl rfl (encSYS_tagged ..) ?_
  rw [decode32, (encSYS_tagged ..).2]
  change decSys _ = _
  rw [decSys, (encSYS_fields ..).2.2.1]
  change mbz _ _ = _
  simp only [encSYS_fields]
  rfl

theorem RoundTrip.putsr (a : Reg) (n : BitVec 9) : RoundTrip.Statement (.putsr a n) := by
  refine roundTrip32 rfl rfl (encSYS_tagged ..) ?_
  rw [decode32, (encSYS_tagged ..).2]
  change decSys _ = _
  rw [decSys, (encSYS_fields ..).2.2.1]
  change mbz _ _ = _
  simp only [encSYS_fields]
  rfl

theorem RoundTrip.swapsr (d a : Reg) (n : BitVec 9) : RoundTrip.Statement (.swapsr d a n) := by
  refine roundTrip32 rfl rfl (encSYS_tagged ..) ?_
  rw [decode32, (encSYS_tagged ..).2]
  change decSys _ = _
  rw [decSys, (encSYS_fields ..).2.2.1]
  change Except.ok _ = _
  simp only [encSYS_fields]

theorem RoundTrip.setsrb (d a : Reg) (n : BitVec 9) : RoundTrip.Statement (.setsrb d a n) := by
  refine roundTrip32 rfl rfl (encSYS_tagged ..) ?_
  rw [decode32, (encSYS_tagged ..).2]
  change decSys _ = _
  rw [decSys, (encSYS_fields ..).2.2.1]
  change Except.ok _ = _
  simp only [encSYS_fields]

theorem RoundTrip.clrsrb (d a : Reg) (n : BitVec 9) : RoundTrip.Statement (.clrsrb d a n) := by
  refine roundTrip32 rfl rfl (encSYS_tagged ..) ?_
  rw [decode32, (encSYS_tagged ..).2]
  change decSys _ = _
  rw [decSys, (encSYS_fields ..).2.2.1]
  change Except.ok _ = _
  simp only [encSYS_fields]

theorem RoundTrip.trap (a : Reg) (n : BitVec 9) : RoundTrip.Statement (.trap a n) := by
  refine roundTrip32 rfl rfl (encSYS_tagged ..) ?_
  rw [decode32, (encSYS_tagged ..).2]
  change decSys _ = _
  rw [decSys, (encSYS_fields ..).2.2.1]
  change mbz _ _ = _
  simp only [encSYS_fields]
  rfl

theorem RoundTrip.tret : RoundTrip.Statement (.tret) := by
  refine roundTrip32 rfl rfl (encSYS_tagged ..) ?_
  rw [decode32, (encSYS_tagged ..).2]
  change decSys _ = _
  rw [decSys, (encSYS_fields ..).2.2.1]
  change mbz _ _ = _
  simp only [encSYS_fields]
  rfl

theorem RoundTrip.wfe (d : Reg) : RoundTrip.Statement (.wfe d) := by
  refine roundTrip32 rfl rfl (encSYS_tagged ..) ?_
  rw [decode32, (encSYS_tagged ..).2]
  change decSys _ = _
  rw [decSys, (encSYS_fields ..).2.2.1]
  change mbz _ _ = _
  simp only [encSYS_fields]
  rfl

theorem RoundTrip.endHart : RoundTrip.Statement (.endHart) := by
  refine roundTrip32 rfl rfl (encSYS_tagged ..) ?_
  rw [decode32, (encSYS_tagged ..).2]
  change decSys _ = _
  rw [decSys, (encSYS_fields ..).2.2.1]
  change mbz _ _ = _
  simp only [encSYS_fields]
  rfl

theorem RoundTrip.yieldpt (a : Reg) (s : BitVec 1) : RoundTrip.Statement (.yieldpt a s) := by
  refine roundTrip32 rfl rfl (encSYS_tagged ..) ?_
  rw [decode32, (encSYS_tagged ..).2]
  change decSys _ = _
  rw [decSys, (encSYS_fields ..).2.2.1]
  change mbz _ _ = _
  simp only [encSYS_fields, encSYS_yield]
  rfl

theorem RoundTrip.halt : RoundTrip.Statement (.halt) := by
  refine roundTrip32 rfl rfl (encSYS_tagged ..) ?_
  rw [decode32, (encSYS_tagged ..).2]
  change decSys _ = _
  rw [decSys, (encSYS_fields ..).2.2.1]
  change mbz _ _ = _
  simp only [encSYS_fields]
  rfl

theorem RoundTrip.brkpt (n : BitVec 9) : RoundTrip.Statement (.brkpt n) := by
  refine roundTrip32 rfl rfl (encSYS_tagged ..) ?_
  rw [decode32, (encSYS_tagged ..).2]
  change decSys _ = _
  rw [decSys, (encSYS_fields ..).2.2.1]
  change mbz _ _ = _
  simp only [encSYS_fields]
  rfl

theorem RoundTrip.fadd (d a b : Reg) : RoundTrip.Statement (.fadd d a b) := by
  refine roundTrip32 rfl rfl (encSR_tagged ..) ?_
  rw [decode32, (encSR_tagged ..).2]
  change decSfp _ = _
  rw [decSfp, (encSR_fields ..).2.2.2.2.1]
  change mbz _ _ = _
  simp only [encSR_fields]
  rfl

theorem RoundTrip.fsub (d a b : Reg) : RoundTrip.Statement (.fsub d a b) := by
  refine roundTrip32 rfl rfl (encSR_tagged ..) ?_
  rw [decode32, (encSR_tagged ..).2]
  change decSfp _ = _
  rw [decSfp, (encSR_fields ..).2.2.2.2.1]
  change mbz _ _ = _
  simp only [encSR_fields]
  rfl

theorem RoundTrip.fmul (d a b : Reg) : RoundTrip.Statement (.fmul d a b) := by
  refine roundTrip32 rfl rfl (encSR_tagged ..) ?_
  rw [decode32, (encSR_tagged ..).2]
  change decSfp _ = _
  rw [decSfp, (encSR_fields ..).2.2.2.2.1]
  change mbz _ _ = _
  simp only [encSR_fields]
  rfl

theorem RoundTrip.fdiv (d a b : Reg) : RoundTrip.Statement (.fdiv d a b) := by
  refine roundTrip32 rfl rfl (encSR_tagged ..) ?_
  rw [decode32, (encSR_tagged ..).2]
  change decSfp _ = _
  rw [decSfp, (encSR_fields ..).2.2.2.2.1]
  change mbz _ _ = _
  simp only [encSR_fields]
  rfl

theorem RoundTrip.fmin (d a b : Reg) : RoundTrip.Statement (.fmin d a b) := by
  refine roundTrip32 rfl rfl (encSR_tagged ..) ?_
  rw [decode32, (encSR_tagged ..).2]
  change decSfp _ = _
  rw [decSfp, (encSR_fields ..).2.2.2.2.1]
  change mbz _ _ = _
  simp only [encSR_fields]
  rfl

theorem RoundTrip.fmax (d a b : Reg) : RoundTrip.Statement (.fmax d a b) := by
  refine roundTrip32 rfl rfl (encSR_tagged ..) ?_
  rw [decode32, (encSR_tagged ..).2]
  change decSfp _ = _
  rw [decSfp, (encSR_fields ..).2.2.2.2.1]
  change mbz _ _ = _
  simp only [encSR_fields]
  rfl

theorem RoundTrip.fsqrt (d a : Reg) : RoundTrip.Statement (.fsqrt d a) := by
  refine roundTrip32 rfl rfl (encSR_tagged ..) ?_
  rw [decode32, (encSR_tagged ..).2]
  change decSfp _ = _
  rw [decSfp, (encSR_fields ..).2.2.2.2.1]
  change mbz _ _ = _
  simp only [encSR_fields]
  rfl

theorem RoundTrip.fcvtFI (d a : Reg) : RoundTrip.Statement (.fcvtFI d a) := by
  refine roundTrip32 rfl rfl (encSR_tagged ..) ?_
  rw [decode32, (encSR_tagged ..).2]
  change decSfp _ = _
  rw [decSfp, (encSR_fields ..).2.2.2.2.1]
  change mbz _ _ = _
  simp only [encSR_fields]
  rfl

theorem RoundTrip.fcvtIF (d a : Reg) : RoundTrip.Statement (.fcvtIF d a) := by
  refine roundTrip32 rfl rfl (encSR_tagged ..) ?_
  rw [decode32, (encSR_tagged ..).2]
  change decSfp _ = _
  rw [decSfp, (encSR_fields ..).2.2.2.2.1]
  change mbz _ _ = _
  simp only [encSR_fields]
  rfl

theorem RoundTrip.feq (d a b : Reg) : RoundTrip.Statement (.feq d a b) := by
  refine roundTrip32 rfl rfl (encSR_tagged ..) ?_
  rw [decode32, (encSR_tagged ..).2]
  change decSfp _ = _
  rw [decSfp, (encSR_fields ..).2.2.2.2.1]
  change mbz _ _ = _
  simp only [encSR_fields]
  rfl

theorem RoundTrip.flt (d a b : Reg) : RoundTrip.Statement (.flt d a b) := by
  refine roundTrip32 rfl rfl (encSR_tagged ..) ?_
  rw [decode32, (encSR_tagged ..).2]
  change decSfp _ = _
  rw [decSfp, (encSR_fields ..).2.2.2.2.1]
  change mbz _ _ = _
  simp only [encSR_fields]
  rfl

theorem RoundTrip.fle (d a b : Reg) : RoundTrip.Statement (.fle d a b) := by
  refine roundTrip32 rfl rfl (encSR_tagged ..) ?_
  rw [decode32, (encSR_tagged ..).2]
  change decSfp _ = _
  rw [decSfp, (encSR_fields ..).2.2.2.2.1]
  change mbz _ _ = _
  simp only [encSR_fields]
  rfl

theorem RoundTrip.setvl (d a : Reg) (c : BitVec 12) : RoundTrip.Statement (.setvl d a c) := by
  refine roundTrip32 rfl rfl (encSI_tagged ..) ?_
  rw [decode32, (encSI_tagged ..).2]
  change mbz _ _ = _
  simp only [encSI_fields, encSI_cfg]
  rfl

theorem RoundTrip.setvlr (d a b : Reg) : RoundTrip.Statement (.setvlr d a b) := by
  refine roundTrip32 rfl rfl (encSR_tagged ..) ?_
  rw [decode32, (encSR_tagged ..).2]
  change decVcfgx _ = _
  rw [decVcfgx, (encSR_fields ..).2.2.2.2.1]
  change mbz _ _ = _
  simp only [encSR_fields]
  rfl

theorem RoundTrip.setrc (d a : Reg) : RoundTrip.Statement (.setrc d a) := by
  refine roundTrip32 rfl rfl (encSR_tagged ..) ?_
  rw [decode32, (encSR_tagged ..).2]
  change decVcfgx _ = _
  rw [decVcfgx, (encSR_fields ..).2.2.2.2.1]
  change mbz _ _ = _
  simp only [encSR_fields]
  rfl

theorem RoundTrip.setdim (a b : Reg) (n : BitVec 2) : RoundTrip.Statement (.setdim a b n) := by
  refine roundTrip32 rfl rfl (encSR_tagged ..) ?_
  rw [decode32, (encSR_tagged ..).2]
  change decVcfgx _ = _
  rw [decVcfgx, (encSR_fields ..).2.2.2.2.1]
  change mbz _ _ = _
  simp only [encSR_fields, encSR_dim]
  rfl

theorem RoundTrip.vaddVV (d a b : Reg) (k : BitVec 3) (e : BitVec 1) : RoundTrip.Statement (.vaddVV d a b k e) := by
  refine roundTrip32 rfl rfl (encSR_tagged ..) ?_
  rw [decode32, (encSR_tagged ..).2]
  change decViVV _ = _
  rw [decViVV, (encSR_fields ..).2.2.2.2.1]
  change Except.ok _ = _
  simp only [encSR_fields, encSR_masked]

theorem RoundTrip.vsubVV (d a b : Reg) (k : BitVec 3) (e : BitVec 1) : RoundTrip.Statement (.vsubVV d a b k e) := by
  refine roundTrip32 rfl rfl (encSR_tagged ..) ?_
  rw [decode32, (encSR_tagged ..).2]
  change decViVV _ = _
  rw [decViVV, (encSR_fields ..).2.2.2.2.1]
  change Except.ok _ = _
  simp only [encSR_fields, encSR_masked]

theorem RoundTrip.vrsubVV (d a b : Reg) (k : BitVec 3) (e : BitVec 1) : RoundTrip.Statement (.vrsubVV d a b k e) := by
  refine roundTrip32 rfl rfl (encSR_tagged ..) ?_
  rw [decode32, (encSR_tagged ..).2]
  change decViVV _ = _
  rw [decViVV, (encSR_fields ..).2.2.2.2.1]
  change Except.ok _ = _
  simp only [encSR_fields, encSR_masked]

theorem RoundTrip.vmulVV (d a b : Reg) (k : BitVec 3) (e : BitVec 1) : RoundTrip.Statement (.vmulVV d a b k e) := by
  refine roundTrip32 rfl rfl (encSR_tagged ..) ?_
  rw [decode32, (encSR_tagged ..).2]
  change decViVV _ = _
  rw [decViVV, (encSR_fields ..).2.2.2.2.1]
  change Except.ok _ = _
  simp only [encSR_fields, encSR_masked]

theorem RoundTrip.vmulhVV (d a b : Reg) (k : BitVec 3) (e : BitVec 1) : RoundTrip.Statement (.vmulhVV d a b k e) := by
  refine roundTrip32 rfl rfl (encSR_tagged ..) ?_
  rw [decode32, (encSR_tagged ..).2]
  change decViVV _ = _
  rw [decViVV, (encSR_fields ..).2.2.2.2.1]
  change Except.ok _ = _
  simp only [encSR_fields, encSR_masked]

theorem RoundTrip.vmulhuVV (d a b : Reg) (k : BitVec 3) (e : BitVec 1) : RoundTrip.Statement (.vmulhuVV d a b k e) := by
  refine roundTrip32 rfl rfl (encSR_tagged ..) ?_
  rw [decode32, (encSR_tagged ..).2]
  change decViVV _ = _
  rw [decViVV, (encSR_fields ..).2.2.2.2.1]
  change Except.ok _ = _
  simp only [encSR_fields, encSR_masked]

theorem RoundTrip.vdivVV (d a b : Reg) (k : BitVec 3) (e : BitVec 1) : RoundTrip.Statement (.vdivVV d a b k e) := by
  refine roundTrip32 rfl rfl (encSR_tagged ..) ?_
  rw [decode32, (encSR_tagged ..).2]
  change decViVV _ = _
  rw [decViVV, (encSR_fields ..).2.2.2.2.1]
  change Except.ok _ = _
  simp only [encSR_fields, encSR_masked]

theorem RoundTrip.vdivuVV (d a b : Reg) (k : BitVec 3) (e : BitVec 1) : RoundTrip.Statement (.vdivuVV d a b k e) := by
  refine roundTrip32 rfl rfl (encSR_tagged ..) ?_
  rw [decode32, (encSR_tagged ..).2]
  change decViVV _ = _
  rw [decViVV, (encSR_fields ..).2.2.2.2.1]
  change Except.ok _ = _
  simp only [encSR_fields, encSR_masked]

theorem RoundTrip.vremVV (d a b : Reg) (k : BitVec 3) (e : BitVec 1) : RoundTrip.Statement (.vremVV d a b k e) := by
  refine roundTrip32 rfl rfl (encSR_tagged ..) ?_
  rw [decode32, (encSR_tagged ..).2]
  change decViVV _ = _
  rw [decViVV, (encSR_fields ..).2.2.2.2.1]
  change Except.ok _ = _
  simp only [encSR_fields, encSR_masked]

theorem RoundTrip.vremuVV (d a b : Reg) (k : BitVec 3) (e : BitVec 1) : RoundTrip.Statement (.vremuVV d a b k e) := by
  refine roundTrip32 rfl rfl (encSR_tagged ..) ?_
  rw [decode32, (encSR_tagged ..).2]
  change decViVV _ = _
  rw [decViVV, (encSR_fields ..).2.2.2.2.1]
  change Except.ok _ = _
  simp only [encSR_fields, encSR_masked]

theorem RoundTrip.vminVV (d a b : Reg) (k : BitVec 3) (e : BitVec 1) : RoundTrip.Statement (.vminVV d a b k e) := by
  refine roundTrip32 rfl rfl (encSR_tagged ..) ?_
  rw [decode32, (encSR_tagged ..).2]
  change decViVV _ = _
  rw [decViVV, (encSR_fields ..).2.2.2.2.1]
  change Except.ok _ = _
  simp only [encSR_fields, encSR_masked]

theorem RoundTrip.vmaxVV (d a b : Reg) (k : BitVec 3) (e : BitVec 1) : RoundTrip.Statement (.vmaxVV d a b k e) := by
  refine roundTrip32 rfl rfl (encSR_tagged ..) ?_
  rw [decode32, (encSR_tagged ..).2]
  change decViVV _ = _
  rw [decViVV, (encSR_fields ..).2.2.2.2.1]
  change Except.ok _ = _
  simp only [encSR_fields, encSR_masked]

theorem RoundTrip.vminuVV (d a b : Reg) (k : BitVec 3) (e : BitVec 1) : RoundTrip.Statement (.vminuVV d a b k e) := by
  refine roundTrip32 rfl rfl (encSR_tagged ..) ?_
  rw [decode32, (encSR_tagged ..).2]
  change decViVV _ = _
  rw [decViVV, (encSR_fields ..).2.2.2.2.1]
  change Except.ok _ = _
  simp only [encSR_fields, encSR_masked]

theorem RoundTrip.vmaxuVV (d a b : Reg) (k : BitVec 3) (e : BitVec 1) : RoundTrip.Statement (.vmaxuVV d a b k e) := by
  refine roundTrip32 rfl rfl (encSR_tagged ..) ?_
  rw [decode32, (encSR_tagged ..).2]
  change decViVV _ = _
  rw [decViVV, (encSR_fields ..).2.2.2.2.1]
  change Except.ok _ = _
  simp only [encSR_fields, encSR_masked]

theorem RoundTrip.vandVV (d a b : Reg) (k : BitVec 3) (e : BitVec 1) : RoundTrip.Statement (.vandVV d a b k e) := by
  refine roundTrip32 rfl rfl (encSR_tagged ..) ?_
  rw [decode32, (encSR_tagged ..).2]
  change decViVV _ = _
  rw [decViVV, (encSR_fields ..).2.2.2.2.1]
  change Except.ok _ = _
  simp only [encSR_fields, encSR_masked]

theorem RoundTrip.vorVV (d a b : Reg) (k : BitVec 3) (e : BitVec 1) : RoundTrip.Statement (.vorVV d a b k e) := by
  refine roundTrip32 rfl rfl (encSR_tagged ..) ?_
  rw [decode32, (encSR_tagged ..).2]
  change decViVV _ = _
  rw [decViVV, (encSR_fields ..).2.2.2.2.1]
  change Except.ok _ = _
  simp only [encSR_fields, encSR_masked]

theorem RoundTrip.vxorVV (d a b : Reg) (k : BitVec 3) (e : BitVec 1) : RoundTrip.Statement (.vxorVV d a b k e) := by
  refine roundTrip32 rfl rfl (encSR_tagged ..) ?_
  rw [decode32, (encSR_tagged ..).2]
  change decViVV _ = _
  rw [decViVV, (encSR_fields ..).2.2.2.2.1]
  change Except.ok _ = _
  simp only [encSR_fields, encSR_masked]

theorem RoundTrip.vsllVV (d a b : Reg) (k : BitVec 3) (e : BitVec 1) : RoundTrip.Statement (.vsllVV d a b k e) := by
  refine roundTrip32 rfl rfl (encSR_tagged ..) ?_
  rw [decode32, (encSR_tagged ..).2]
  change decViVV _ = _
  rw [decViVV, (encSR_fields ..).2.2.2.2.1]
  change Except.ok _ = _
  simp only [encSR_fields, encSR_masked]

theorem RoundTrip.vsrlVV (d a b : Reg) (k : BitVec 3) (e : BitVec 1) : RoundTrip.Statement (.vsrlVV d a b k e) := by
  refine roundTrip32 rfl rfl (encSR_tagged ..) ?_
  rw [decode32, (encSR_tagged ..).2]
  change decViVV _ = _
  rw [decViVV, (encSR_fields ..).2.2.2.2.1]
  change Except.ok _ = _
  simp only [encSR_fields, encSR_masked]

theorem RoundTrip.vsraVV (d a b : Reg) (k : BitVec 3) (e : BitVec 1) : RoundTrip.Statement (.vsraVV d a b k e) := by
  refine roundTrip32 rfl rfl (encSR_tagged ..) ?_
  rw [decode32, (encSR_tagged ..).2]
  change decViVV _ = _
  rw [decViVV, (encSR_fields ..).2.2.2.2.1]
  change Except.ok _ = _
  simp only [encSR_fields, encSR_masked]

theorem RoundTrip.vsaddVV (d a b : Reg) (k : BitVec 3) (e : BitVec 1) : RoundTrip.Statement (.vsaddVV d a b k e) := by
  refine roundTrip32 rfl rfl (encSR_tagged ..) ?_
  rw [decode32, (encSR_tagged ..).2]
  change decViVV _ = _
  rw [decViVV, (encSR_fields ..).2.2.2.2.1]
  change Except.ok _ = _
  simp only [encSR_fields, encSR_masked]

theorem RoundTrip.vssubVV (d a b : Reg) (k : BitVec 3) (e : BitVec 1) : RoundTrip.Statement (.vssubVV d a b k e) := by
  refine roundTrip32 rfl rfl (encSR_tagged ..) ?_
  rw [decode32, (encSR_tagged ..).2]
  change decViVV _ = _
  rw [decViVV, (encSR_fields ..).2.2.2.2.1]
  change Except.ok _ = _
  simp only [encSR_fields, encSR_masked]

theorem RoundTrip.vsadduVV (d a b : Reg) (k : BitVec 3) (e : BitVec 1) : RoundTrip.Statement (.vsadduVV d a b k e) := by
  refine roundTrip32 rfl rfl (encSR_tagged ..) ?_
  rw [decode32, (encSR_tagged ..).2]
  change decViVV _ = _
  rw [decViVV, (encSR_fields ..).2.2.2.2.1]
  change Except.ok _ = _
  simp only [encSR_fields, encSR_masked]

theorem RoundTrip.vssubuVV (d a b : Reg) (k : BitVec 3) (e : BitVec 1) : RoundTrip.Statement (.vssubuVV d a b k e) := by
  refine roundTrip32 rfl rfl (encSR_tagged ..) ?_
  rw [decode32, (encSR_tagged ..).2]
  change decViVV _ = _
  rw [decViVV, (encSR_fields ..).2.2.2.2.1]
  change Except.ok _ = _
  simp only [encSR_fields, encSR_masked]

theorem RoundTrip.vmaccVV (d a b : Reg) (k : BitVec 3) (e : BitVec 1) : RoundTrip.Statement (.vmaccVV d a b k e) := by
  refine roundTrip32 rfl rfl (encSR_tagged ..) ?_
  rw [decode32, (encSR_tagged ..).2]
  change decViVV _ = _
  rw [decViVV, (encSR_fields ..).2.2.2.2.1]
  change Except.ok _ = _
  simp only [encSR_fields, encSR_masked]

theorem RoundTrip.vabs (d a : Reg) (k : BitVec 3) (e : BitVec 1) : RoundTrip.Statement (.vabs d a k e) := by
  refine roundTrip32 rfl rfl (encSR_tagged ..) ?_
  rw [decode32, (encSR_tagged ..).2]
  change decViVV _ = _
  rw [decViVV, (encSR_fields ..).2.2.2.2.1]
  change mbz _ _ = _
  simp only [encSR_fields, encSR_masked]
  rfl

theorem RoundTrip.vneg (d a : Reg) (k : BitVec 3) (e : BitVec 1) : RoundTrip.Statement (.vneg d a k e) := by
  refine roundTrip32 rfl rfl (encSR_tagged ..) ?_
  rw [decode32, (encSR_tagged ..).2]
  change decViVV _ = _
  rw [decViVV, (encSR_fields ..).2.2.2.2.1]
  change mbz _ _ = _
  simp only [encSR_fields, encSR_masked]
  rfl

theorem RoundTrip.vaddVS (d a b : Reg) (k : BitVec 3) (e : BitVec 1) : RoundTrip.Statement (.vaddVS d a b k e) := by
  refine roundTrip32 rfl rfl (encSR_tagged ..) ?_
  rw [decode32, (encSR_tagged ..).2]
  change decViVS _ = _
  rw [decViVS, (encSR_fields ..).2.2.2.2.1]
  change Except.ok _ = _
  simp only [encSR_fields, encSR_masked]

theorem RoundTrip.vsubVS (d a b : Reg) (k : BitVec 3) (e : BitVec 1) : RoundTrip.Statement (.vsubVS d a b k e) := by
  refine roundTrip32 rfl rfl (encSR_tagged ..) ?_
  rw [decode32, (encSR_tagged ..).2]
  change decViVS _ = _
  rw [decViVS, (encSR_fields ..).2.2.2.2.1]
  change Except.ok _ = _
  simp only [encSR_fields, encSR_masked]

theorem RoundTrip.vrsubVS (d a b : Reg) (k : BitVec 3) (e : BitVec 1) : RoundTrip.Statement (.vrsubVS d a b k e) := by
  refine roundTrip32 rfl rfl (encSR_tagged ..) ?_
  rw [decode32, (encSR_tagged ..).2]
  change decViVS _ = _
  rw [decViVS, (encSR_fields ..).2.2.2.2.1]
  change Except.ok _ = _
  simp only [encSR_fields, encSR_masked]

theorem RoundTrip.vmulVS (d a b : Reg) (k : BitVec 3) (e : BitVec 1) : RoundTrip.Statement (.vmulVS d a b k e) := by
  refine roundTrip32 rfl rfl (encSR_tagged ..) ?_
  rw [decode32, (encSR_tagged ..).2]
  change decViVS _ = _
  rw [decViVS, (encSR_fields ..).2.2.2.2.1]
  change Except.ok _ = _
  simp only [encSR_fields, encSR_masked]

theorem RoundTrip.vmulhVS (d a b : Reg) (k : BitVec 3) (e : BitVec 1) : RoundTrip.Statement (.vmulhVS d a b k e) := by
  refine roundTrip32 rfl rfl (encSR_tagged ..) ?_
  rw [decode32, (encSR_tagged ..).2]
  change decViVS _ = _
  rw [decViVS, (encSR_fields ..).2.2.2.2.1]
  change Except.ok _ = _
  simp only [encSR_fields, encSR_masked]

theorem RoundTrip.vmulhuVS (d a b : Reg) (k : BitVec 3) (e : BitVec 1) : RoundTrip.Statement (.vmulhuVS d a b k e) := by
  refine roundTrip32 rfl rfl (encSR_tagged ..) ?_
  rw [decode32, (encSR_tagged ..).2]
  change decViVS _ = _
  rw [decViVS, (encSR_fields ..).2.2.2.2.1]
  change Except.ok _ = _
  simp only [encSR_fields, encSR_masked]

theorem RoundTrip.vdivVS (d a b : Reg) (k : BitVec 3) (e : BitVec 1) : RoundTrip.Statement (.vdivVS d a b k e) := by
  refine roundTrip32 rfl rfl (encSR_tagged ..) ?_
  rw [decode32, (encSR_tagged ..).2]
  change decViVS _ = _
  rw [decViVS, (encSR_fields ..).2.2.2.2.1]
  change Except.ok _ = _
  simp only [encSR_fields, encSR_masked]

theorem RoundTrip.vdivuVS (d a b : Reg) (k : BitVec 3) (e : BitVec 1) : RoundTrip.Statement (.vdivuVS d a b k e) := by
  refine roundTrip32 rfl rfl (encSR_tagged ..) ?_
  rw [decode32, (encSR_tagged ..).2]
  change decViVS _ = _
  rw [decViVS, (encSR_fields ..).2.2.2.2.1]
  change Except.ok _ = _
  simp only [encSR_fields, encSR_masked]

theorem RoundTrip.vremVS (d a b : Reg) (k : BitVec 3) (e : BitVec 1) : RoundTrip.Statement (.vremVS d a b k e) := by
  refine roundTrip32 rfl rfl (encSR_tagged ..) ?_
  rw [decode32, (encSR_tagged ..).2]
  change decViVS _ = _
  rw [decViVS, (encSR_fields ..).2.2.2.2.1]
  change Except.ok _ = _
  simp only [encSR_fields, encSR_masked]

theorem RoundTrip.vremuVS (d a b : Reg) (k : BitVec 3) (e : BitVec 1) : RoundTrip.Statement (.vremuVS d a b k e) := by
  refine roundTrip32 rfl rfl (encSR_tagged ..) ?_
  rw [decode32, (encSR_tagged ..).2]
  change decViVS _ = _
  rw [decViVS, (encSR_fields ..).2.2.2.2.1]
  change Except.ok _ = _
  simp only [encSR_fields, encSR_masked]

theorem RoundTrip.vminVS (d a b : Reg) (k : BitVec 3) (e : BitVec 1) : RoundTrip.Statement (.vminVS d a b k e) := by
  refine roundTrip32 rfl rfl (encSR_tagged ..) ?_
  rw [decode32, (encSR_tagged ..).2]
  change decViVS _ = _
  rw [decViVS, (encSR_fields ..).2.2.2.2.1]
  change Except.ok _ = _
  simp only [encSR_fields, encSR_masked]

theorem RoundTrip.vmaxVS (d a b : Reg) (k : BitVec 3) (e : BitVec 1) : RoundTrip.Statement (.vmaxVS d a b k e) := by
  refine roundTrip32 rfl rfl (encSR_tagged ..) ?_
  rw [decode32, (encSR_tagged ..).2]
  change decViVS _ = _
  rw [decViVS, (encSR_fields ..).2.2.2.2.1]
  change Except.ok _ = _
  simp only [encSR_fields, encSR_masked]

theorem RoundTrip.vminuVS (d a b : Reg) (k : BitVec 3) (e : BitVec 1) : RoundTrip.Statement (.vminuVS d a b k e) := by
  refine roundTrip32 rfl rfl (encSR_tagged ..) ?_
  rw [decode32, (encSR_tagged ..).2]
  change decViVS _ = _
  rw [decViVS, (encSR_fields ..).2.2.2.2.1]
  change Except.ok _ = _
  simp only [encSR_fields, encSR_masked]

theorem RoundTrip.vmaxuVS (d a b : Reg) (k : BitVec 3) (e : BitVec 1) : RoundTrip.Statement (.vmaxuVS d a b k e) := by
  refine roundTrip32 rfl rfl (encSR_tagged ..) ?_
  rw [decode32, (encSR_tagged ..).2]
  change decViVS _ = _
  rw [decViVS, (encSR_fields ..).2.2.2.2.1]
  change Except.ok _ = _
  simp only [encSR_fields, encSR_masked]

theorem RoundTrip.vandVS (d a b : Reg) (k : BitVec 3) (e : BitVec 1) : RoundTrip.Statement (.vandVS d a b k e) := by
  refine roundTrip32 rfl rfl (encSR_tagged ..) ?_
  rw [decode32, (encSR_tagged ..).2]
  change decViVS _ = _
  rw [decViVS, (encSR_fields ..).2.2.2.2.1]
  change Except.ok _ = _
  simp only [encSR_fields, encSR_masked]

theorem RoundTrip.vorVS (d a b : Reg) (k : BitVec 3) (e : BitVec 1) : RoundTrip.Statement (.vorVS d a b k e) := by
  refine roundTrip32 rfl rfl (encSR_tagged ..) ?_
  rw [decode32, (encSR_tagged ..).2]
  change decViVS _ = _
  rw [decViVS, (encSR_fields ..).2.2.2.2.1]
  change Except.ok _ = _
  simp only [encSR_fields, encSR_masked]

theorem RoundTrip.vxorVS (d a b : Reg) (k : BitVec 3) (e : BitVec 1) : RoundTrip.Statement (.vxorVS d a b k e) := by
  refine roundTrip32 rfl rfl (encSR_tagged ..) ?_
  rw [decode32, (encSR_tagged ..).2]
  change decViVS _ = _
  rw [decViVS, (encSR_fields ..).2.2.2.2.1]
  change Except.ok _ = _
  simp only [encSR_fields, encSR_masked]

theorem RoundTrip.vsllVS (d a b : Reg) (k : BitVec 3) (e : BitVec 1) : RoundTrip.Statement (.vsllVS d a b k e) := by
  refine roundTrip32 rfl rfl (encSR_tagged ..) ?_
  rw [decode32, (encSR_tagged ..).2]
  change decViVS _ = _
  rw [decViVS, (encSR_fields ..).2.2.2.2.1]
  change Except.ok _ = _
  simp only [encSR_fields, encSR_masked]

theorem RoundTrip.vsrlVS (d a b : Reg) (k : BitVec 3) (e : BitVec 1) : RoundTrip.Statement (.vsrlVS d a b k e) := by
  refine roundTrip32 rfl rfl (encSR_tagged ..) ?_
  rw [decode32, (encSR_tagged ..).2]
  change decViVS _ = _
  rw [decViVS, (encSR_fields ..).2.2.2.2.1]
  change Except.ok _ = _
  simp only [encSR_fields, encSR_masked]

theorem RoundTrip.vsraVS (d a b : Reg) (k : BitVec 3) (e : BitVec 1) : RoundTrip.Statement (.vsraVS d a b k e) := by
  refine roundTrip32 rfl rfl (encSR_tagged ..) ?_
  rw [decode32, (encSR_tagged ..).2]
  change decViVS _ = _
  rw [decViVS, (encSR_fields ..).2.2.2.2.1]
  change Except.ok _ = _
  simp only [encSR_fields, encSR_masked]

theorem RoundTrip.vsaddVS (d a b : Reg) (k : BitVec 3) (e : BitVec 1) : RoundTrip.Statement (.vsaddVS d a b k e) := by
  refine roundTrip32 rfl rfl (encSR_tagged ..) ?_
  rw [decode32, (encSR_tagged ..).2]
  change decViVS _ = _
  rw [decViVS, (encSR_fields ..).2.2.2.2.1]
  change Except.ok _ = _
  simp only [encSR_fields, encSR_masked]

theorem RoundTrip.vssubVS (d a b : Reg) (k : BitVec 3) (e : BitVec 1) : RoundTrip.Statement (.vssubVS d a b k e) := by
  refine roundTrip32 rfl rfl (encSR_tagged ..) ?_
  rw [decode32, (encSR_tagged ..).2]
  change decViVS _ = _
  rw [decViVS, (encSR_fields ..).2.2.2.2.1]
  change Except.ok _ = _
  simp only [encSR_fields, encSR_masked]

theorem RoundTrip.vsadduVS (d a b : Reg) (k : BitVec 3) (e : BitVec 1) : RoundTrip.Statement (.vsadduVS d a b k e) := by
  refine roundTrip32 rfl rfl (encSR_tagged ..) ?_
  rw [decode32, (encSR_tagged ..).2]
  change decViVS _ = _
  rw [decViVS, (encSR_fields ..).2.2.2.2.1]
  change Except.ok _ = _
  simp only [encSR_fields, encSR_masked]

theorem RoundTrip.vssubuVS (d a b : Reg) (k : BitVec 3) (e : BitVec 1) : RoundTrip.Statement (.vssubuVS d a b k e) := by
  refine roundTrip32 rfl rfl (encSR_tagged ..) ?_
  rw [decode32, (encSR_tagged ..).2]
  change decViVS _ = _
  rw [decViVS, (encSR_fields ..).2.2.2.2.1]
  change Except.ok _ = _
  simp only [encSR_fields, encSR_masked]

theorem RoundTrip.vmaccVS (d a b : Reg) (k : BitVec 3) (e : BitVec 1) : RoundTrip.Statement (.vmaccVS d a b k e) := by
  refine roundTrip32 rfl rfl (encSR_tagged ..) ?_
  rw [decode32, (encSR_tagged ..).2]
  change decViVS _ = _
  rw [decViVS, (encSR_fields ..).2.2.2.2.1]
  change Except.ok _ = _
  simp only [encSR_fields, encSR_masked]

theorem RoundTrip.vaddVI (d a : Reg) (i : BitVec 5) (k : BitVec 3) (e : BitVec 1) : RoundTrip.Statement (.vaddVI d a i k e) := by
  refine roundTrip32 rfl rfl (encSR_tagged ..) ?_
  rw [decode32, (encSR_tagged ..).2]
  change decViVI _ = _
  rw [decViVI, (encSR_fields ..).2.2.2.2.1]
  change Except.ok _ = _
  simp only [encSR_fields, encSR_masked]

theorem RoundTrip.vsubVI (d a : Reg) (i : BitVec 5) (k : BitVec 3) (e : BitVec 1) : RoundTrip.Statement (.vsubVI d a i k e) := by
  refine roundTrip32 rfl rfl (encSR_tagged ..) ?_
  rw [decode32, (encSR_tagged ..).2]
  change decViVI _ = _
  rw [decViVI, (encSR_fields ..).2.2.2.2.1]
  change Except.ok _ = _
  simp only [encSR_fields, encSR_masked]

theorem RoundTrip.vrsubVI (d a : Reg) (i : BitVec 5) (k : BitVec 3) (e : BitVec 1) : RoundTrip.Statement (.vrsubVI d a i k e) := by
  refine roundTrip32 rfl rfl (encSR_tagged ..) ?_
  rw [decode32, (encSR_tagged ..).2]
  change decViVI _ = _
  rw [decViVI, (encSR_fields ..).2.2.2.2.1]
  change Except.ok _ = _
  simp only [encSR_fields, encSR_masked]

theorem RoundTrip.vmulVI (d a : Reg) (i : BitVec 5) (k : BitVec 3) (e : BitVec 1) : RoundTrip.Statement (.vmulVI d a i k e) := by
  refine roundTrip32 rfl rfl (encSR_tagged ..) ?_
  rw [decode32, (encSR_tagged ..).2]
  change decViVI _ = _
  rw [decViVI, (encSR_fields ..).2.2.2.2.1]
  change Except.ok _ = _
  simp only [encSR_fields, encSR_masked]

theorem RoundTrip.vmulhVI (d a : Reg) (i : BitVec 5) (k : BitVec 3) (e : BitVec 1) : RoundTrip.Statement (.vmulhVI d a i k e) := by
  refine roundTrip32 rfl rfl (encSR_tagged ..) ?_
  rw [decode32, (encSR_tagged ..).2]
  change decViVI _ = _
  rw [decViVI, (encSR_fields ..).2.2.2.2.1]
  change Except.ok _ = _
  simp only [encSR_fields, encSR_masked]

theorem RoundTrip.vmulhuVI (d a : Reg) (i : BitVec 5) (k : BitVec 3) (e : BitVec 1) : RoundTrip.Statement (.vmulhuVI d a i k e) := by
  refine roundTrip32 rfl rfl (encSR_tagged ..) ?_
  rw [decode32, (encSR_tagged ..).2]
  change decViVI _ = _
  rw [decViVI, (encSR_fields ..).2.2.2.2.1]
  change Except.ok _ = _
  simp only [encSR_fields, encSR_masked]

theorem RoundTrip.vdivVI (d a : Reg) (i : BitVec 5) (k : BitVec 3) (e : BitVec 1) : RoundTrip.Statement (.vdivVI d a i k e) := by
  refine roundTrip32 rfl rfl (encSR_tagged ..) ?_
  rw [decode32, (encSR_tagged ..).2]
  change decViVI _ = _
  rw [decViVI, (encSR_fields ..).2.2.2.2.1]
  change Except.ok _ = _
  simp only [encSR_fields, encSR_masked]

theorem RoundTrip.vdivuVI (d a : Reg) (i : BitVec 5) (k : BitVec 3) (e : BitVec 1) : RoundTrip.Statement (.vdivuVI d a i k e) := by
  refine roundTrip32 rfl rfl (encSR_tagged ..) ?_
  rw [decode32, (encSR_tagged ..).2]
  change decViVI _ = _
  rw [decViVI, (encSR_fields ..).2.2.2.2.1]
  change Except.ok _ = _
  simp only [encSR_fields, encSR_masked]

theorem RoundTrip.vremVI (d a : Reg) (i : BitVec 5) (k : BitVec 3) (e : BitVec 1) : RoundTrip.Statement (.vremVI d a i k e) := by
  refine roundTrip32 rfl rfl (encSR_tagged ..) ?_
  rw [decode32, (encSR_tagged ..).2]
  change decViVI _ = _
  rw [decViVI, (encSR_fields ..).2.2.2.2.1]
  change Except.ok _ = _
  simp only [encSR_fields, encSR_masked]

theorem RoundTrip.vremuVI (d a : Reg) (i : BitVec 5) (k : BitVec 3) (e : BitVec 1) : RoundTrip.Statement (.vremuVI d a i k e) := by
  refine roundTrip32 rfl rfl (encSR_tagged ..) ?_
  rw [decode32, (encSR_tagged ..).2]
  change decViVI _ = _
  rw [decViVI, (encSR_fields ..).2.2.2.2.1]
  change Except.ok _ = _
  simp only [encSR_fields, encSR_masked]

theorem RoundTrip.vminVI (d a : Reg) (i : BitVec 5) (k : BitVec 3) (e : BitVec 1) : RoundTrip.Statement (.vminVI d a i k e) := by
  refine roundTrip32 rfl rfl (encSR_tagged ..) ?_
  rw [decode32, (encSR_tagged ..).2]
  change decViVI _ = _
  rw [decViVI, (encSR_fields ..).2.2.2.2.1]
  change Except.ok _ = _
  simp only [encSR_fields, encSR_masked]

theorem RoundTrip.vmaxVI (d a : Reg) (i : BitVec 5) (k : BitVec 3) (e : BitVec 1) : RoundTrip.Statement (.vmaxVI d a i k e) := by
  refine roundTrip32 rfl rfl (encSR_tagged ..) ?_
  rw [decode32, (encSR_tagged ..).2]
  change decViVI _ = _
  rw [decViVI, (encSR_fields ..).2.2.2.2.1]
  change Except.ok _ = _
  simp only [encSR_fields, encSR_masked]

theorem RoundTrip.vminuVI (d a : Reg) (i : BitVec 5) (k : BitVec 3) (e : BitVec 1) : RoundTrip.Statement (.vminuVI d a i k e) := by
  refine roundTrip32 rfl rfl (encSR_tagged ..) ?_
  rw [decode32, (encSR_tagged ..).2]
  change decViVI _ = _
  rw [decViVI, (encSR_fields ..).2.2.2.2.1]
  change Except.ok _ = _
  simp only [encSR_fields, encSR_masked]

theorem RoundTrip.vmaxuVI (d a : Reg) (i : BitVec 5) (k : BitVec 3) (e : BitVec 1) : RoundTrip.Statement (.vmaxuVI d a i k e) := by
  refine roundTrip32 rfl rfl (encSR_tagged ..) ?_
  rw [decode32, (encSR_tagged ..).2]
  change decViVI _ = _
  rw [decViVI, (encSR_fields ..).2.2.2.2.1]
  change Except.ok _ = _
  simp only [encSR_fields, encSR_masked]

theorem RoundTrip.vandVI (d a : Reg) (i : BitVec 5) (k : BitVec 3) (e : BitVec 1) : RoundTrip.Statement (.vandVI d a i k e) := by
  refine roundTrip32 rfl rfl (encSR_tagged ..) ?_
  rw [decode32, (encSR_tagged ..).2]
  change decViVI _ = _
  rw [decViVI, (encSR_fields ..).2.2.2.2.1]
  change Except.ok _ = _
  simp only [encSR_fields, encSR_masked]

theorem RoundTrip.vorVI (d a : Reg) (i : BitVec 5) (k : BitVec 3) (e : BitVec 1) : RoundTrip.Statement (.vorVI d a i k e) := by
  refine roundTrip32 rfl rfl (encSR_tagged ..) ?_
  rw [decode32, (encSR_tagged ..).2]
  change decViVI _ = _
  rw [decViVI, (encSR_fields ..).2.2.2.2.1]
  change Except.ok _ = _
  simp only [encSR_fields, encSR_masked]

theorem RoundTrip.vxorVI (d a : Reg) (i : BitVec 5) (k : BitVec 3) (e : BitVec 1) : RoundTrip.Statement (.vxorVI d a i k e) := by
  refine roundTrip32 rfl rfl (encSR_tagged ..) ?_
  rw [decode32, (encSR_tagged ..).2]
  change decViVI _ = _
  rw [decViVI, (encSR_fields ..).2.2.2.2.1]
  change Except.ok _ = _
  simp only [encSR_fields, encSR_masked]

theorem RoundTrip.vsllVI (d a : Reg) (i : BitVec 5) (k : BitVec 3) (e : BitVec 1) : RoundTrip.Statement (.vsllVI d a i k e) := by
  refine roundTrip32 rfl rfl (encSR_tagged ..) ?_
  rw [decode32, (encSR_tagged ..).2]
  change decViVI _ = _
  rw [decViVI, (encSR_fields ..).2.2.2.2.1]
  change Except.ok _ = _
  simp only [encSR_fields, encSR_masked]

theorem RoundTrip.vsrlVI (d a : Reg) (i : BitVec 5) (k : BitVec 3) (e : BitVec 1) : RoundTrip.Statement (.vsrlVI d a i k e) := by
  refine roundTrip32 rfl rfl (encSR_tagged ..) ?_
  rw [decode32, (encSR_tagged ..).2]
  change decViVI _ = _
  rw [decViVI, (encSR_fields ..).2.2.2.2.1]
  change Except.ok _ = _
  simp only [encSR_fields, encSR_masked]

theorem RoundTrip.vsraVI (d a : Reg) (i : BitVec 5) (k : BitVec 3) (e : BitVec 1) : RoundTrip.Statement (.vsraVI d a i k e) := by
  refine roundTrip32 rfl rfl (encSR_tagged ..) ?_
  rw [decode32, (encSR_tagged ..).2]
  change decViVI _ = _
  rw [decViVI, (encSR_fields ..).2.2.2.2.1]
  change Except.ok _ = _
  simp only [encSR_fields, encSR_masked]

theorem RoundTrip.vsaddVI (d a : Reg) (i : BitVec 5) (k : BitVec 3) (e : BitVec 1) : RoundTrip.Statement (.vsaddVI d a i k e) := by
  refine roundTrip32 rfl rfl (encSR_tagged ..) ?_
  rw [decode32, (encSR_tagged ..).2]
  change decViVI _ = _
  rw [decViVI, (encSR_fields ..).2.2.2.2.1]
  change Except.ok _ = _
  simp only [encSR_fields, encSR_masked]

theorem RoundTrip.vssubVI (d a : Reg) (i : BitVec 5) (k : BitVec 3) (e : BitVec 1) : RoundTrip.Statement (.vssubVI d a i k e) := by
  refine roundTrip32 rfl rfl (encSR_tagged ..) ?_
  rw [decode32, (encSR_tagged ..).2]
  change decViVI _ = _
  rw [decViVI, (encSR_fields ..).2.2.2.2.1]
  change Except.ok _ = _
  simp only [encSR_fields, encSR_masked]

theorem RoundTrip.vsadduVI (d a : Reg) (i : BitVec 5) (k : BitVec 3) (e : BitVec 1) : RoundTrip.Statement (.vsadduVI d a i k e) := by
  refine roundTrip32 rfl rfl (encSR_tagged ..) ?_
  rw [decode32, (encSR_tagged ..).2]
  change decViVI _ = _
  rw [decViVI, (encSR_fields ..).2.2.2.2.1]
  change Except.ok _ = _
  simp only [encSR_fields, encSR_masked]

theorem RoundTrip.vssubuVI (d a : Reg) (i : BitVec 5) (k : BitVec 3) (e : BitVec 1) : RoundTrip.Statement (.vssubuVI d a i k e) := by
  refine roundTrip32 rfl rfl (encSR_tagged ..) ?_
  rw [decode32, (encSR_tagged ..).2]
  change decViVI _ = _
  rw [decViVI, (encSR_fields ..).2.2.2.2.1]
  change Except.ok _ = _
  simp only [encSR_fields, encSR_masked]

theorem RoundTrip.vmaccVI (d a : Reg) (i : BitVec 5) (k : BitVec 3) (e : BitVec 1) : RoundTrip.Statement (.vmaccVI d a i k e) := by
  refine roundTrip32 rfl rfl (encSR_tagged ..) ?_
  rw [decode32, (encSR_tagged ..).2]
  change decViVI _ = _
  rw [decViVI, (encSR_fields ..).2.2.2.2.1]
  change Except.ok _ = _
  simp only [encSR_fields, encSR_masked]

theorem RoundTrip.vfaddVV (d a b : Reg) (k : BitVec 3) (e : BitVec 1) : RoundTrip.Statement (.vfaddVV d a b k e) := by
  refine roundTrip32 rfl rfl (encSR_tagged ..) ?_
  rw [decode32, (encSR_tagged ..).2]
  change decVfVV _ = _
  rw [decVfVV, (encSR_fields ..).2.2.2.2.1]
  change Except.ok _ = _
  simp only [encSR_fields, encSR_masked]

theorem RoundTrip.vfsubVV (d a b : Reg) (k : BitVec 3) (e : BitVec 1) : RoundTrip.Statement (.vfsubVV d a b k e) := by
  refine roundTrip32 rfl rfl (encSR_tagged ..) ?_
  rw [decode32, (encSR_tagged ..).2]
  change decVfVV _ = _
  rw [decVfVV, (encSR_fields ..).2.2.2.2.1]
  change Except.ok _ = _
  simp only [encSR_fields, encSR_masked]

theorem RoundTrip.vfmulVV (d a b : Reg) (k : BitVec 3) (e : BitVec 1) : RoundTrip.Statement (.vfmulVV d a b k e) := by
  refine roundTrip32 rfl rfl (encSR_tagged ..) ?_
  rw [decode32, (encSR_tagged ..).2]
  change decVfVV _ = _
  rw [decVfVV, (encSR_fields ..).2.2.2.2.1]
  change Except.ok _ = _
  simp only [encSR_fields, encSR_masked]

theorem RoundTrip.vfdivVV (d a b : Reg) (k : BitVec 3) (e : BitVec 1) : RoundTrip.Statement (.vfdivVV d a b k e) := by
  refine roundTrip32 rfl rfl (encSR_tagged ..) ?_
  rw [decode32, (encSR_tagged ..).2]
  change decVfVV _ = _
  rw [decVfVV, (encSR_fields ..).2.2.2.2.1]
  change Except.ok _ = _
  simp only [encSR_fields, encSR_masked]

theorem RoundTrip.vfminVV (d a b : Reg) (k : BitVec 3) (e : BitVec 1) : RoundTrip.Statement (.vfminVV d a b k e) := by
  refine roundTrip32 rfl rfl (encSR_tagged ..) ?_
  rw [decode32, (encSR_tagged ..).2]
  change decVfVV _ = _
  rw [decVfVV, (encSR_fields ..).2.2.2.2.1]
  change Except.ok _ = _
  simp only [encSR_fields, encSR_masked]

theorem RoundTrip.vfmaxVV (d a b : Reg) (k : BitVec 3) (e : BitVec 1) : RoundTrip.Statement (.vfmaxVV d a b k e) := by
  refine roundTrip32 rfl rfl (encSR_tagged ..) ?_
  rw [decode32, (encSR_tagged ..).2]
  change decVfVV _ = _
  rw [decVfVV, (encSR_fields ..).2.2.2.2.1]
  change Except.ok _ = _
  simp only [encSR_fields, encSR_masked]

theorem RoundTrip.vfmaVV (d a b : Reg) (k : BitVec 3) (e : BitVec 1) : RoundTrip.Statement (.vfmaVV d a b k e) := by
  refine roundTrip32 rfl rfl (encSR_tagged ..) ?_
  rw [decode32, (encSR_tagged ..).2]
  change decVfVV _ = _
  rw [decVfVV, (encSR_fields ..).2.2.2.2.1]
  change Except.ok _ = _
  simp only [encSR_fields, encSR_masked]

theorem RoundTrip.vfnmsVV (d a b : Reg) (k : BitVec 3) (e : BitVec 1) : RoundTrip.Statement (.vfnmsVV d a b k e) := by
  refine roundTrip32 rfl rfl (encSR_tagged ..) ?_
  rw [decode32, (encSR_tagged ..).2]
  change decVfVV _ = _
  rw [decVfVV, (encSR_fields ..).2.2.2.2.1]
  change Except.ok _ = _
  simp only [encSR_fields, encSR_masked]

theorem RoundTrip.vfsqrt (d a : Reg) (k : BitVec 3) (e : BitVec 1) : RoundTrip.Statement (.vfsqrt d a k e) := by
  refine roundTrip32 rfl rfl (encSR_tagged ..) ?_
  rw [decode32, (encSR_tagged ..).2]
  change decVfVV _ = _
  rw [decVfVV, (encSR_fields ..).2.2.2.2.1]
  change mbz _ _ = _
  simp only [encSR_fields, encSR_masked]
  rfl

theorem RoundTrip.vfabs (d a : Reg) (k : BitVec 3) (e : BitVec 1) : RoundTrip.Statement (.vfabs d a k e) := by
  refine roundTrip32 rfl rfl (encSR_tagged ..) ?_
  rw [decode32, (encSR_tagged ..).2]
  change decVfVV _ = _
  rw [decVfVV, (encSR_fields ..).2.2.2.2.1]
  change mbz _ _ = _
  simp only [encSR_fields, encSR_masked]
  rfl

theorem RoundTrip.vfneg (d a : Reg) (k : BitVec 3) (e : BitVec 1) : RoundTrip.Statement (.vfneg d a k e) := by
  refine roundTrip32 rfl rfl (encSR_tagged ..) ?_
  rw [decode32, (encSR_tagged ..).2]
  change decVfVV _ = _
  rw [decVfVV, (encSR_fields ..).2.2.2.2.1]
  change mbz _ _ = _
  simp only [encSR_fields, encSR_masked]
  rfl

theorem RoundTrip.vfrnd (d a : Reg) (k : BitVec 3) (e : BitVec 1) : RoundTrip.Statement (.vfrnd d a k e) := by
  refine roundTrip32 rfl rfl (encSR_tagged ..) ?_
  rw [decode32, (encSR_tagged ..).2]
  change decVfVV _ = _
  rw [decVfVV, (encSR_fields ..).2.2.2.2.1]
  change mbz _ _ = _
  simp only [encSR_fields, encSR_masked]
  rfl

theorem RoundTrip.vfscaleVV (d a b : Reg) (k : BitVec 3) (e : BitVec 1) : RoundTrip.Statement (.vfscaleVV d a b k e) := by
  refine roundTrip32 rfl rfl (encSR_tagged ..) ?_
  rw [decode32, (encSR_tagged ..).2]
  change decVfVV _ = _
  rw [decVfVV, (encSR_fields ..).2.2.2.2.1]
  change Except.ok _ = _
  simp only [encSR_fields, encSR_masked]

theorem RoundTrip.vfclass (d a : Reg) (k : BitVec 3) (e : BitVec 1) : RoundTrip.Statement (.vfclass d a k e) := by
  refine roundTrip32 rfl rfl (encSR_tagged ..) ?_
  rw [decode32, (encSR_tagged ..).2]
  change decVfVV _ = _
  rw [decVfVV, (encSR_fields ..).2.2.2.2.1]
  change mbz _ _ = _
  simp only [encSR_fields, encSR_masked]
  rfl

theorem RoundTrip.vfaddVS (d a b : Reg) (k : BitVec 3) (e : BitVec 1) : RoundTrip.Statement (.vfaddVS d a b k e) := by
  refine roundTrip32 rfl rfl (encSR_tagged ..) ?_
  rw [decode32, (encSR_tagged ..).2]
  change decVfVS _ = _
  rw [decVfVS, (encSR_fields ..).2.2.2.2.1]
  change Except.ok _ = _
  simp only [encSR_fields, encSR_masked]

theorem RoundTrip.vfsubVS (d a b : Reg) (k : BitVec 3) (e : BitVec 1) : RoundTrip.Statement (.vfsubVS d a b k e) := by
  refine roundTrip32 rfl rfl (encSR_tagged ..) ?_
  rw [decode32, (encSR_tagged ..).2]
  change decVfVS _ = _
  rw [decVfVS, (encSR_fields ..).2.2.2.2.1]
  change Except.ok _ = _
  simp only [encSR_fields, encSR_masked]

theorem RoundTrip.vfmulVS (d a b : Reg) (k : BitVec 3) (e : BitVec 1) : RoundTrip.Statement (.vfmulVS d a b k e) := by
  refine roundTrip32 rfl rfl (encSR_tagged ..) ?_
  rw [decode32, (encSR_tagged ..).2]
  change decVfVS _ = _
  rw [decVfVS, (encSR_fields ..).2.2.2.2.1]
  change Except.ok _ = _
  simp only [encSR_fields, encSR_masked]

theorem RoundTrip.vfdivVS (d a b : Reg) (k : BitVec 3) (e : BitVec 1) : RoundTrip.Statement (.vfdivVS d a b k e) := by
  refine roundTrip32 rfl rfl (encSR_tagged ..) ?_
  rw [decode32, (encSR_tagged ..).2]
  change decVfVS _ = _
  rw [decVfVS, (encSR_fields ..).2.2.2.2.1]
  change Except.ok _ = _
  simp only [encSR_fields, encSR_masked]

theorem RoundTrip.vfminVS (d a b : Reg) (k : BitVec 3) (e : BitVec 1) : RoundTrip.Statement (.vfminVS d a b k e) := by
  refine roundTrip32 rfl rfl (encSR_tagged ..) ?_
  rw [decode32, (encSR_tagged ..).2]
  change decVfVS _ = _
  rw [decVfVS, (encSR_fields ..).2.2.2.2.1]
  change Except.ok _ = _
  simp only [encSR_fields, encSR_masked]

theorem RoundTrip.vfmaxVS (d a b : Reg) (k : BitVec 3) (e : BitVec 1) : RoundTrip.Statement (.vfmaxVS d a b k e) := by
  refine roundTrip32 rfl rfl (encSR_tagged ..) ?_
  rw [decode32, (encSR_tagged ..).2]
  change decVfVS _ = _
  rw [decVfVS, (encSR_fields ..).2.2.2.2.1]
  change Except.ok _ = _
  simp only [encSR_fields, encSR_masked]

theorem RoundTrip.vfmaVS (d a b : Reg) (k : BitVec 3) (e : BitVec 1) : RoundTrip.Statement (.vfmaVS d a b k e) := by
  refine roundTrip32 rfl rfl (encSR_tagged ..) ?_
  rw [decode32, (encSR_tagged ..).2]
  change decVfVS _ = _
  rw [decVfVS, (encSR_fields ..).2.2.2.2.1]
  change Except.ok _ = _
  simp only [encSR_fields, encSR_masked]

theorem RoundTrip.vfnmsVS (d a b : Reg) (k : BitVec 3) (e : BitVec 1) : RoundTrip.Statement (.vfnmsVS d a b k e) := by
  refine roundTrip32 rfl rfl (encSR_tagged ..) ?_
  rw [decode32, (encSR_tagged ..).2]
  change decVfVS _ = _
  rw [decVfVS, (encSR_fields ..).2.2.2.2.1]
  change Except.ok _ = _
  simp only [encSR_fields, encSR_masked]

theorem RoundTrip.vfscaleVS (d a b : Reg) (k : BitVec 3) (e : BitVec 1) : RoundTrip.Statement (.vfscaleVS d a b k e) := by
  refine roundTrip32 rfl rfl (encSR_tagged ..) ?_
  rw [decode32, (encSR_tagged ..).2]
  change decVfVS _ = _
  rw [decVfVS, (encSR_fields ..).2.2.2.2.1]
  change Except.ok _ = _
  simp only [encSR_fields, encSR_masked]

theorem RoundTrip.vceqVV (d a b : Reg) (k : BitVec 3) : RoundTrip.Statement (.vceqVV d a b k) := by
  refine roundTrip32 rfl rfl (encSR_tagged ..) ?_
  rw [decode32, (encSR_tagged ..).2]
  change decVcmp _ = _
  rw [decVcmp, (encSR_fields ..).2.2.2.2.1]
  change Except.ok _ = _
  simp only [encSR_fields, encSR_masked]
  rfl

theorem RoundTrip.vcneVV (d a b : Reg) (k : BitVec 3) : RoundTrip.Statement (.vcneVV d a b k) := by
  refine roundTrip32 rfl rfl (encSR_tagged ..) ?_
  rw [decode32, (encSR_tagged ..).2]
  change decVcmp _ = _
  rw [decVcmp, (encSR_fields ..).2.2.2.2.1]
  change Except.ok _ = _
  simp only [encSR_fields, encSR_masked]
  rfl

theorem RoundTrip.vcltVV (d a b : Reg) (k : BitVec 3) : RoundTrip.Statement (.vcltVV d a b k) := by
  refine roundTrip32 rfl rfl (encSR_tagged ..) ?_
  rw [decode32, (encSR_tagged ..).2]
  change decVcmp _ = _
  rw [decVcmp, (encSR_fields ..).2.2.2.2.1]
  change Except.ok _ = _
  simp only [encSR_fields, encSR_masked]
  rfl

theorem RoundTrip.vcleVV (d a b : Reg) (k : BitVec 3) : RoundTrip.Statement (.vcleVV d a b k) := by
  refine roundTrip32 rfl rfl (encSR_tagged ..) ?_
  rw [decode32, (encSR_tagged ..).2]
  change decVcmp _ = _
  rw [decVcmp, (encSR_fields ..).2.2.2.2.1]
  change Except.ok _ = _
  simp only [encSR_fields, encSR_masked]
  rfl

theorem RoundTrip.vcltuVV (d a b : Reg) (k : BitVec 3) : RoundTrip.Statement (.vcltuVV d a b k) := by
  refine roundTrip32 rfl rfl (encSR_tagged ..) ?_
  rw [decode32, (encSR_tagged ..).2]
  change decVcmp _ = _
  rw [decVcmp, (encSR_fields ..).2.2.2.2.1]
  change Except.ok _ = _
  simp only [encSR_fields, encSR_masked]
  rfl

theorem RoundTrip.vcleuVV (d a b : Reg) (k : BitVec 3) : RoundTrip.Statement (.vcleuVV d a b k) := by
  refine roundTrip32 rfl rfl (encSR_tagged ..) ?_
  rw [decode32, (encSR_tagged ..).2]
  change decVcmp _ = _
  rw [decVcmp, (encSR_fields ..).2.2.2.2.1]
  change Except.ok _ = _
  simp only [encSR_fields, encSR_masked]
  rfl

theorem RoundTrip.vfceqVV (d a b : Reg) (k : BitVec 3) : RoundTrip.Statement (.vfceqVV d a b k) := by
  refine roundTrip32 rfl rfl (encSR_tagged ..) ?_
  rw [decode32, (encSR_tagged ..).2]
  change decVcmp _ = _
  rw [decVcmp, (encSR_fields ..).2.2.2.2.1]
  change Except.ok _ = _
  simp only [encSR_fields, encSR_masked]
  rfl

theorem RoundTrip.vfcltVV (d a b : Reg) (k : BitVec 3) : RoundTrip.Statement (.vfcltVV d a b k) := by
  refine roundTrip32 rfl rfl (encSR_tagged ..) ?_
  rw [decode32, (encSR_tagged ..).2]
  change decVcmp _ = _
  rw [decVcmp, (encSR_fields ..).2.2.2.2.1]
  change Except.ok _ = _
  simp only [encSR_fields, encSR_masked]
  rfl

theorem RoundTrip.vfcleVV (d a b : Reg) (k : BitVec 3) : RoundTrip.Statement (.vfcleVV d a b k) := by
  refine roundTrip32 rfl rfl (encSR_tagged ..) ?_
  rw [decode32, (encSR_tagged ..).2]
  change decVcmp _ = _
  rw [decVcmp, (encSR_fields ..).2.2.2.2.1]
  change Except.ok _ = _
  simp only [encSR_fields, encSR_masked]
  rfl

theorem RoundTrip.vfcunVV (d a b : Reg) (k : BitVec 3) : RoundTrip.Statement (.vfcunVV d a b k) := by
  refine roundTrip32 rfl rfl (encSR_tagged ..) ?_
  rw [decode32, (encSR_tagged ..).2]
  change decVcmp _ = _
  rw [decVcmp, (encSR_fields ..).2.2.2.2.1]
  change Except.ok _ = _
  simp only [encSR_fields, encSR_masked]
  rfl

theorem RoundTrip.vceqVS (d a b : Reg) (k : BitVec 3) : RoundTrip.Statement (.vceqVS d a b k) := by
  refine roundTrip32 rfl rfl (encSR_tagged ..) ?_
  rw [decode32, (encSR_tagged ..).2]
  change decVcmp _ = _
  rw [decVcmp, (encSR_fields ..).2.2.2.2.1]
  change Except.ok _ = _
  simp only [encSR_fields, encSR_masked]
  rfl

theorem RoundTrip.vcneVS (d a b : Reg) (k : BitVec 3) : RoundTrip.Statement (.vcneVS d a b k) := by
  refine roundTrip32 rfl rfl (encSR_tagged ..) ?_
  rw [decode32, (encSR_tagged ..).2]
  change decVcmp _ = _
  rw [decVcmp, (encSR_fields ..).2.2.2.2.1]
  change Except.ok _ = _
  simp only [encSR_fields, encSR_masked]
  rfl

theorem RoundTrip.vcltVS (d a b : Reg) (k : BitVec 3) : RoundTrip.Statement (.vcltVS d a b k) := by
  refine roundTrip32 rfl rfl (encSR_tagged ..) ?_
  rw [decode32, (encSR_tagged ..).2]
  change decVcmp _ = _
  rw [decVcmp, (encSR_fields ..).2.2.2.2.1]
  change Except.ok _ = _
  simp only [encSR_fields, encSR_masked]
  rfl

theorem RoundTrip.vcleVS (d a b : Reg) (k : BitVec 3) : RoundTrip.Statement (.vcleVS d a b k) := by
  refine roundTrip32 rfl rfl (encSR_tagged ..) ?_
  rw [decode32, (encSR_tagged ..).2]
  change decVcmp _ = _
  rw [decVcmp, (encSR_fields ..).2.2.2.2.1]
  change Except.ok _ = _
  simp only [encSR_fields, encSR_masked]
  rfl

theorem RoundTrip.vcltuVS (d a b : Reg) (k : BitVec 3) : RoundTrip.Statement (.vcltuVS d a b k) := by
  refine roundTrip32 rfl rfl (encSR_tagged ..) ?_
  rw [decode32, (encSR_tagged ..).2]
  change decVcmp _ = _
  rw [decVcmp, (encSR_fields ..).2.2.2.2.1]
  change Except.ok _ = _
  simp only [encSR_fields, encSR_masked]
  rfl

theorem RoundTrip.vcleuVS (d a b : Reg) (k : BitVec 3) : RoundTrip.Statement (.vcleuVS d a b k) := by
  refine roundTrip32 rfl rfl (encSR_tagged ..) ?_
  rw [decode32, (encSR_tagged ..).2]
  change decVcmp _ = _
  rw [decVcmp, (encSR_fields ..).2.2.2.2.1]
  change Except.ok _ = _
  simp only [encSR_fields, encSR_masked]
  rfl

theorem RoundTrip.vfceqVS (d a b : Reg) (k : BitVec 3) : RoundTrip.Statement (.vfceqVS d a b k) := by
  refine roundTrip32 rfl rfl (encSR_tagged ..) ?_
  rw [decode32, (encSR_tagged ..).2]
  change decVcmp _ = _
  rw [decVcmp, (encSR_fields ..).2.2.2.2.1]
  change Except.ok _ = _
  simp only [encSR_fields, encSR_masked]
  rfl

theorem RoundTrip.vfcltVS (d a b : Reg) (k : BitVec 3) : RoundTrip.Statement (.vfcltVS d a b k) := by
  refine roundTrip32 rfl rfl (encSR_tagged ..) ?_
  rw [decode32, (encSR_tagged ..).2]
  change decVcmp _ = _
  rw [decVcmp, (encSR_fields ..).2.2.2.2.1]
  change Except.ok _ = _
  simp only [encSR_fields, encSR_masked]
  rfl

theorem RoundTrip.vfcleVS (d a b : Reg) (k : BitVec 3) : RoundTrip.Statement (.vfcleVS d a b k) := by
  refine roundTrip32 rfl rfl (encSR_tagged ..) ?_
  rw [decode32, (encSR_tagged ..).2]
  change decVcmp _ = _
  rw [decVcmp, (encSR_fields ..).2.2.2.2.1]
  change Except.ok _ = _
  simp only [encSR_fields, encSR_masked]
  rfl

theorem RoundTrip.vfcunVS (d a b : Reg) (k : BitVec 3) : RoundTrip.Statement (.vfcunVS d a b k) := by
  refine roundTrip32 rfl rfl (encSR_tagged ..) ?_
  rw [decode32, (encSR_tagged ..).2]
  change decVcmp _ = _
  rw [decVcmp, (encSR_fields ..).2.2.2.2.1]
  change Except.ok _ = _
  simp only [encSR_fields, encSR_masked]
  rfl

theorem RoundTrip.kand (d a b : Reg) : RoundTrip.Statement (.kand d a b) := by
  refine roundTrip32 rfl rfl (encSR_tagged ..) ?_
  rw [decode32, (encSR_tagged ..).2]
  change decKop _ = _
  rw [decKop, (encSR_fields ..).2.2.2.2.1]
  change mbz _ _ = _
  simp only [encSR_fields]
  rfl

theorem RoundTrip.kor (d a b : Reg) : RoundTrip.Statement (.kor d a b) := by
  refine roundTrip32 rfl rfl (encSR_tagged ..) ?_
  rw [decode32, (encSR_tagged ..).2]
  change decKop _ = _
  rw [decKop, (encSR_fields ..).2.2.2.2.1]
  change mbz _ _ = _
  simp only [encSR_fields]
  rfl

theorem RoundTrip.kxor (d a b : Reg) : RoundTrip.Statement (.kxor d a b) := by
  refine roundTrip32 rfl rfl (encSR_tagged ..) ?_
  rw [decode32, (encSR_tagged ..).2]
  change decKop _ = _
  rw [decKop, (encSR_fields ..).2.2.2.2.1]
  change mbz _ _ = _
  simp only [encSR_fields]
  rfl

theorem RoundTrip.kandn (d a b : Reg) : RoundTrip.Statement (.kandn d a b) := by
  refine roundTrip32 rfl rfl (encSR_tagged ..) ?_
  rw [decode32, (encSR_tagged ..).2]
  change decKop _ = _
  rw [decKop, (encSR_fields ..).2.2.2.2.1]
  change mbz _ _ = _
  simp only [encSR_fields]
  rfl

theorem RoundTrip.knot (d a : Reg) : RoundTrip.Statement (.knot d a) := by
  refine roundTrip32 rfl rfl (encSR_tagged ..) ?_
  rw [decode32, (encSR_tagged ..).2]
  change decKop _ = _
  rw [decKop, (encSR_fields ..).2.2.2.2.1]
  change mbz _ _ = _
  simp only [encSR_fields]
  rfl

theorem RoundTrip.kset (d : Reg) : RoundTrip.Statement (.kset d) := by
  refine roundTrip32 rfl rfl (encSR_tagged ..) ?_
  rw [decode32, (encSR_tagged ..).2]
  change decKop _ = _
  rw [decKop, (encSR_fields ..).2.2.2.2.1]
  change mbz _ _ = _
  simp only [encSR_fields]
  rfl

theorem RoundTrip.kclr (d : Reg) : RoundTrip.Statement (.kclr d) := by
  refine roundTrip32 rfl rfl (encSR_tagged ..) ?_
  rw [decode32, (encSR_tagged ..).2]
  change decKop _ = _
  rw [decKop, (encSR_fields ..).2.2.2.2.1]
  change mbz _ _ = _
  simp only [encSR_fields]
  rfl

theorem RoundTrip.kmov (d a : Reg) : RoundTrip.Statement (.kmov d a) := by
  refine roundTrip32 rfl rfl (encSR_tagged ..) ?_
  rw [decode32, (encSR_tagged ..).2]
  change decKop _ = _
  rw [decKop, (encSR_fields ..).2.2.2.2.1]
  change mbz _ _ = _
  simp only [encSR_fields]
  rfl

theorem RoundTrip.kpop (d a : Reg) : RoundTrip.Statement (.kpop d a) := by
  refine roundTrip32 rfl rfl (encSR_tagged ..) ?_
  rw [decode32, (encSR_tagged ..).2]
  change decKop _ = _
  rw [decKop, (encSR_fields ..).2.2.2.2.1]
  change mbz _ _ = _
  simp only [encSR_fields]
  rfl

theorem RoundTrip.kfirst (d a : Reg) : RoundTrip.Statement (.kfirst d a) := by
  refine roundTrip32 rfl rfl (encSR_tagged ..) ?_
  rw [decode32, (encSR_tagged ..).2]
  change decKop _ = _
  rw [decKop, (encSR_fields ..).2.2.2.2.1]
  change mbz _ _ = _
  simp only [encSR_fields]
  rfl

theorem RoundTrip.kfromv (d a : Reg) : RoundTrip.Statement (.kfromv d a) := by
  refine roundTrip32 rfl rfl (encSR_tagged ..) ?_
  rw [decode32, (encSR_tagged ..).2]
  change decKop _ = _
  rw [decKop, (encSR_fields ..).2.2.2.2.1]
  change mbz _ _ = _
  simp only [encSR_fields]
  rfl

theorem RoundTrip.ktov (d a : Reg) : RoundTrip.Statement (.ktov d a) := by
  refine roundTrip32 rfl rfl (encSR_tagged ..) ?_
  rw [decode32, (encSR_tagged ..).2]
  change decKop _ = _
  rw [decKop, (encSR_fields ..).2.2.2.2.1]
  change mbz _ _ = _
  simp only [encSR_fields]
  rfl

theorem RoundTrip.klt (d a b : Reg) : RoundTrip.Statement (.klt d a b) := by
  refine roundTrip32 rfl rfl (encSR_tagged ..) ?_
  rw [decode32, (encSR_tagged ..).2]
  change decKop _ = _
  rw [decKop, (encSR_fields ..).2.2.2.2.1]
  change mbz _ _ = _
  simp only [encSR_fields]
  rfl

theorem RoundTrip.kblk (d a b : Reg) : RoundTrip.Statement (.kblk d a b) := by
  refine roundTrip32 rfl rfl (encSR_tagged ..) ?_
  rw [decode32, (encSR_tagged ..).2]
  change decKop _ = _
  rw [decKop, (encSR_fields ..).2.2.2.2.1]
  change mbz _ _ = _
  simp only [encSR_fields]
  rfl

theorem RoundTrip.kenc (d a : Reg) (c : BitVec 5) : RoundTrip.Statement (.kenc d a c) := by
  refine roundTrip32 rfl rfl (encSR_tagged ..) ?_
  rw [decode32, (encSR_tagged ..).2]
  change decKop _ = _
  rw [decKop, (encSR_fields ..).2.2.2.2.1]
  change mbz _ _ = _
  simp only [encSR_fields]
  rfl

theorem RoundTrip.vredsum (d a : Reg) (k : BitVec 3) (e : BitVec 1) : RoundTrip.Statement (.vredsum d a k e) := by
  refine roundTrip32 rfl rfl (encSR_tagged ..) ?_
  rw [decode32, (encSR_tagged ..).2]
  change decVred _ = _
  rw [decVred, (encSR_fields ..).2.2.2.2.1]
  change mbz _ _ = _
  simp only [encSR_fields, encSR_masked]
  rfl

theorem RoundTrip.vredmin (d a : Reg) (k : BitVec 3) (e : BitVec 1) : RoundTrip.Statement (.vredmin d a k e) := by
  refine roundTrip32 rfl rfl (encSR_tagged ..) ?_
  rw [decode32, (encSR_tagged ..).2]
  change decVred _ = _
  rw [decVred, (encSR_fields ..).2.2.2.2.1]
  change mbz _ _ = _
  simp only [encSR_fields, encSR_masked]
  rfl

theorem RoundTrip.vredmax (d a : Reg) (k : BitVec 3) (e : BitVec 1) : RoundTrip.Statement (.vredmax d a k e) := by
  refine roundTrip32 rfl rfl (encSR_tagged ..) ?_
  rw [decode32, (encSR_tagged ..).2]
  change decVred _ = _
  rw [decVred, (encSR_fields ..).2.2.2.2.1]
  change mbz _ _ = _
  simp only [encSR_fields, encSR_masked]
  rfl

theorem RoundTrip.vredminu (d a : Reg) (k : BitVec 3) (e : BitVec 1) : RoundTrip.Statement (.vredminu d a k e) := by
  refine roundTrip32 rfl rfl (encSR_tagged ..) ?_
  rw [decode32, (encSR_tagged ..).2]
  change decVred _ = _
  rw [decVred, (encSR_fields ..).2.2.2.2.1]
  change mbz _ _ = _
  simp only [encSR_fields, encSR_masked]
  rfl

theorem RoundTrip.vredmaxu (d a : Reg) (k : BitVec 3) (e : BitVec 1) : RoundTrip.Statement (.vredmaxu d a k e) := by
  refine roundTrip32 rfl rfl (encSR_tagged ..) ?_
  rw [decode32, (encSR_tagged ..).2]
  change decVred _ = _
  rw [decVred, (encSR_fields ..).2.2.2.2.1]
  change mbz _ _ = _
  simp only [encSR_fields, encSR_masked]
  rfl

theorem RoundTrip.vredand (d a : Reg) (k : BitVec 3) (e : BitVec 1) : RoundTrip.Statement (.vredand d a k e) := by
  refine roundTrip32 rfl rfl (encSR_tagged ..) ?_
  rw [decode32, (encSR_tagged ..).2]
  change decVred _ = _
  rw [decVred, (encSR_fields ..).2.2.2.2.1]
  change mbz _ _ = _
  simp only [encSR_fields, encSR_masked]
  rfl

theorem RoundTrip.vredor (d a : Reg) (k : BitVec 3) (e : BitVec 1) : RoundTrip.Statement (.vredor d a k e) := by
  refine roundTrip32 rfl rfl (encSR_tagged ..) ?_
  rw [decode32, (encSR_tagged ..).2]
  change decVred _ = _
  rw [decVred, (encSR_fields ..).2.2.2.2.1]
  change mbz _ _ = _
  simp only [encSR_fields, encSR_masked]
  rfl

theorem RoundTrip.vfredsum (d a : Reg) (k : BitVec 3) (e : BitVec 1) : RoundTrip.Statement (.vfredsum d a k e) := by
  refine roundTrip32 rfl rfl (encSR_tagged ..) ?_
  rw [decode32, (encSR_tagged ..).2]
  change decVred _ = _
  rw [decVred, (encSR_fields ..).2.2.2.2.1]
  change mbz _ _ = _
  simp only [encSR_fields, encSR_masked]
  rfl

theorem RoundTrip.vfredmin (d a : Reg) (k : BitVec 3) (e : BitVec 1) : RoundTrip.Statement (.vfredmin d a k e) := by
  refine roundTrip32 rfl rfl (encSR_tagged ..) ?_
  rw [decode32, (encSR_tagged ..).2]
  change decVred _ = _
  rw [decVred, (encSR_fields ..).2.2.2.2.1]
  change mbz _ _ = _
  simp only [encSR_fields, encSR_masked]
  rfl

theorem RoundTrip.vfredmax (d a : Reg) (k : BitVec 3) (e : BitVec 1) : RoundTrip.Statement (.vfredmax d a k e) := by
  refine roundTrip32 rfl rfl (encSR_tagged ..) ?_
  rw [decode32, (encSR_tagged ..).2]
  change decVred _ = _
  rw [decVred, (encSR_fields ..).2.2.2.2.1]
  change mbz _ _ = _
  simp only [encSR_fields, encSR_masked]
  rfl

theorem RoundTrip.vscan (d a : Reg) (k : BitVec 3) (e : BitVec 1) : RoundTrip.Statement (.vscan d a k e) := by
  refine roundTrip32 rfl rfl (encSR_tagged ..) ?_
  rw [decode32, (encSR_tagged ..).2]
  change decVred _ = _
  rw [decVred, (encSR_fields ..).2.2.2.2.1]
  change mbz _ _ = _
  simp only [encSR_fields, encSR_masked]
  rfl

theorem RoundTrip.vfscan (d a : Reg) (k : BitVec 3) (e : BitVec 1) : RoundTrip.Statement (.vfscan d a k e) := by
  refine roundTrip32 rfl rfl (encSR_tagged ..) ?_
  rw [decode32, (encSR_tagged ..).2]
  change decVred _ = _
  rw [decVred, (encSR_fields ..).2.2.2.2.1]
  change mbz _ _ = _
  simp only [encSR_fields, encSR_masked]
  rfl

theorem RoundTrip.vfredsumo (d a : Reg) (k : BitVec 3) (e : BitVec 1) : RoundTrip.Statement (.vfredsumo d a k e) := by
  refine roundTrip32 rfl rfl (encSR_tagged ..) ?_
  rw [decode32, (encSR_tagged ..).2]
  change decVred _ = _
  rw [decVred, (encSR_fields ..).2.2.2.2.1]
  change mbz _ _ = _
  simp only [encSR_fields, encSR_masked]
  rfl

theorem RoundTrip.vmov (d a : Reg) (k : BitVec 3) (e : BitVec 1) : RoundTrip.Statement (.vmov d a k e) := by
  refine roundTrip32 rfl rfl (encSR_tagged ..) ?_
  rw [decode32, (encSR_tagged ..).2]
  change decVperm _ = _
  rw [decVperm, (encSR_fields ..).2.2.2.2.1]
  change mbz _ _ = _
  simp only [encSR_fields, encSR_masked]
  rfl

theorem RoundTrip.vsplat (d a : Reg) (k : BitVec 3) (e : BitVec 1) : RoundTrip.Statement (.vsplat d a k e) := by
  refine roundTrip32 rfl rfl (encSR_tagged ..) ?_
  rw [decode32, (encSR_tagged ..).2]
  change decVperm _ = _
  rw [decVperm, (encSR_fields ..).2.2.2.2.1]
  change mbz _ _ = _
  simp only [encSR_fields, encSR_masked]
  rfl

theorem RoundTrip.viota (d a : Reg) (k : BitVec 3) (e : BitVec 1) : RoundTrip.Statement (.viota d a k e) := by
  refine roundTrip32 rfl rfl (encSR_tagged ..) ?_
  rw [decode32, (encSR_tagged ..).2]
  change decVperm _ = _
  rw [decVperm, (encSR_fields ..).2.2.2.2.1]
  change mbz _ _ = _
  simp only [encSR_fields, encSR_masked]
  rfl

theorem RoundTrip.vslup (d a b : Reg) (k : BitVec 3) (e : BitVec 1) : RoundTrip.Statement (.vslup d a b k e) := by
  refine roundTrip32 rfl rfl (encSR_tagged ..) ?_
  rw [decode32, (encSR_tagged ..).2]
  change decVperm _ = _
  rw [decVperm, (encSR_fields ..).2.2.2.2.1]
  change Except.ok _ = _
  simp only [encSR_fields, encSR_masked]

theorem RoundTrip.vsldn (d a b : Reg) (k : BitVec 3) (e : BitVec 1) : RoundTrip.Statement (.vsldn d a b k e) := by
  refine roundTrip32 rfl rfl (encSR_tagged ..) ?_
  rw [decode32, (encSR_tagged ..).2]
  change decVperm _ = _
  rw [decVperm, (encSR_fields ..).2.2.2.2.1]
  change Except.ok _ = _
  simp only [encSR_fields, encSR_masked]

theorem RoundTrip.vrgath (d a b : Reg) (k : BitVec 3) (e : BitVec 1) : RoundTrip.Statement (.vrgath d a b k e) := by
  refine roundTrip32 rfl rfl (encSR_tagged ..) ?_
  rw [decode32, (encSR_tagged ..).2]
  change decVperm _ = _
  rw [decVperm, (encSR_fields ..).2.2.2.2.1]
  change Except.ok _ = _
  simp only [encSR_fields, encSR_masked]

theorem RoundTrip.vcmprs (d a : Reg) (k : BitVec 3) (e : BitVec 1) : RoundTrip.Statement (.vcmprs d a k e) := by
  refine roundTrip32 rfl rfl (encSR_tagged ..) ?_
  rw [decode32, (encSR_tagged ..).2]
  change decVperm _ = _
  rw [decVperm, (encSR_fields ..).2.2.2.2.1]
  change mbz _ _ = _
  simp only [encSR_fields, encSR_masked]
  rfl

theorem RoundTrip.venc (d a b : Reg) : RoundTrip.Statement (.venc d a b) := by
  refine roundTrip32 rfl rfl (encSR_tagged ..) ?_
  rw [decode32, (encSR_tagged ..).2]
  change decVperm _ = _
  rw [decVperm, (encSR_fields ..).2.2.2.2.1]
  change mbz _ _ = _
  simp only [encSR_fields]
  rfl

theorem RoundTrip.veinfo (d a : Reg) (e : BitVec 1) : RoundTrip.Statement (.veinfo d a e) := by
  refine roundTrip32 rfl rfl (encSR_tagged ..) ?_
  rw [decode32, (encSR_tagged ..).2]
  change decVperm _ = _
  rw [decVperm, (encSR_fields ..).2.2.2.2.1]
  change mbz _ _ = _
  simp only [encSR_fields, encSR_masked]
  rfl

theorem RoundTrip.vextr (d a b : Reg) (e : BitVec 1) : RoundTrip.Statement (.vextr d a b e) := by
  refine roundTrip32 rfl rfl (encSR_tagged ..) ?_
  rw [decode32, (encSR_tagged ..).2]
  change decVperm _ = _
  rw [decVperm, (encSR_fields ..).2.2.2.2.1]
  change mbz _ _ = _
  simp only [encSR_fields, encSR_masked]
  rfl

theorem RoundTrip.vins (d a b : Reg) (e : BitVec 1) : RoundTrip.Statement (.vins d a b e) := by
  refine roundTrip32 rfl rfl (encSR_tagged ..) ?_
  rw [decode32, (encSR_tagged ..).2]
  change decVperm _ = _
  rw [decVperm, (encSR_fields ..).2.2.2.2.1]
  change mbz _ _ = _
  simp only [encSR_fields, encSR_masked]
  rfl

theorem RoundTrip.vcvt (d a : Reg) (s t : BitVec 5) (k : BitVec 3) (e : BitVec 1) : RoundTrip.Statement (.vcvt d a s t k e) := by
  refine roundTrip32 rfl rfl (encSR_tagged ..) ?_
  rw [decode32, (encSR_tagged ..).2]
  change Except.ok _ = _
  simp only [encSR_fields, encSR_masked]

theorem RoundTrip.vtabld (a : Reg) : RoundTrip.Statement (.vtabld a) := by
  refine roundTrip32 rfl rfl (encSR_tagged ..) ?_
  rw [decode32, (encSR_tagged ..).2]
  change decVtab _ = _
  rw [decVtab, (encSR_fields ..).2.2.2.2.1]
  change mbz _ _ = _
  simp only [encSR_fields]
  rfl

theorem RoundTrip.vlatd (d a b : Reg) (k : BitVec 3) (e : BitVec 1) : RoundTrip.Statement (.vlatd d a b k e) := by
  refine roundTrip32 rfl rfl (encSR_tagged ..) ?_
  rw [decode32, (encSR_tagged ..).2]
  change decVtab _ = _
  rw [decVtab, (encSR_fields ..).2.2.2.2.1]
  change Except.ok _ = _
  simp only [encSR_fields, encSR_masked]

theorem RoundTrip.vdictg (d a : Reg) (k : BitVec 3) (e : BitVec 1) : RoundTrip.Statement (.vdictg d a k e) := by
  refine roundTrip32 rfl rfl (encSR_tagged ..) ?_
  rw [decode32, (encSR_tagged ..).2]
  change decVtab _ = _
  rw [decVtab, (encSR_fields ..).2.2.2.2.1]
  change mbz _ _ = _
  simp only [encSR_fields, encSR_masked]
  rfl

theorem RoundTrip.vtabst (d : Reg) : RoundTrip.Statement (.vtabst d) := by
  refine roundTrip32 rfl rfl (encSR_tagged ..) ?_
  rw [decode32, (encSR_tagged ..).2]
  change decVtab _ = _
  rw [decVtab, (encSR_fields ..).2.2.2.2.1]
  change mbz _ _ = _
  simp only [encSR_fields]
  rfl

theorem RoundTrip.vld (d a : Reg) (t : BitVec 2) (k : BitVec 3) (o : BitVec 1) : RoundTrip.Statement (.vld d a t k o) := by
  refine roundTrip32 rfl rfl (encVM_tagged ..) ?_
  rw [decode32, (encVM_tagged ..).2]
  change decVld _ = _
  rw [decVld, (encVM_fields ..).2.2.2.2.2.2.1]
  change mbz _ _ = _
  simp only [encVM_fields]
  rfl

theorem RoundTrip.vlds (d a b : Reg) (t : BitVec 2) (k : BitVec 3) (o : BitVec 1) : RoundTrip.Statement (.vlds d a b t k o) := by
  refine roundTrip32 rfl rfl (encVM_tagged ..) ?_
  rw [decode32, (encVM_tagged ..).2]
  change decVld _ = _
  rw [decVld, (encVM_fields ..).2.2.2.2.2.2.1]
  change Except.ok _ = _
  simp only [encVM_fields]

theorem RoundTrip.vldx (d a b : Reg) (t : BitVec 2) (k : BitVec 3) (o : BitVec 1) : RoundTrip.Statement (.vldx d a b t k o) := by
  refine roundTrip32 rfl rfl (encVM_tagged ..) ?_
  rw [decode32, (encVM_tagged ..).2]
  change decVld _ = _
  rw [decVld, (encVM_fields ..).2.2.2.2.2.2.1]
  change Except.ok _ = _
  simp only [encVM_fields]

theorem RoundTrip.vldff (d a : Reg) (t : BitVec 2) (k : BitVec 3) (o : BitVec 1) : RoundTrip.Statement (.vldff d a t k o) := by
  refine roundTrip32 rfl rfl (encVM_tagged ..) ?_
  rw [decode32, (encVM_tagged ..).2]
  change decVld _ = _
  rw [decVld, (encVM_fields ..).2.2.2.2.2.2.1]
  change mbz _ _ = _
  simp only [encVM_fields]
  rfl

theorem RoundTrip.vld3 (d a : Reg) (t : BitVec 2) (k : BitVec 3) (o : BitVec 1) : RoundTrip.Statement (.vld3 d a t k o) := by
  refine roundTrip32 rfl rfl (encVM_tagged ..) ?_
  rw [decode32, (encVM_tagged ..).2]
  change decVld _ = _
  rw [decVld, (encVM_fields ..).2.2.2.2.2.2.1]
  change mbz _ _ = _
  simp only [encVM_fields]
  rfl

theorem RoundTrip.vldc (d a b : Reg) (t : BitVec 2) : RoundTrip.Statement (.vldc d a b t) := by
  refine roundTrip32 rfl rfl (encVM_tagged ..) ?_
  rw [decode32, (encVM_tagged ..).2]
  change decVld _ = _
  rw [decVld, (encVM_fields ..).2.2.2.2.2.2.1]
  change mbz _ _ = _
  simp only [encVM_fields]
  rfl

theorem RoundTrip.vst (d a : Reg) (t : BitVec 2) (k : BitVec 3) (o : BitVec 1) : RoundTrip.Statement (.vst d a t k o) := by
  refine roundTrip32 rfl rfl (encVM_tagged ..) ?_
  rw [decode32, (encVM_tagged ..).2]
  change decVst _ = _
  rw [decVst, (encVM_fields ..).2.2.2.2.2.2.1]
  change mbz _ _ = _
  simp only [encVM_fields]
  rfl

theorem RoundTrip.vsts (d a b : Reg) (t : BitVec 2) (k : BitVec 3) (o : BitVec 1) : RoundTrip.Statement (.vsts d a b t k o) := by
  refine roundTrip32 rfl rfl (encVM_tagged ..) ?_
  rw [decode32, (encVM_tagged ..).2]
  change decVst _ = _
  rw [decVst, (encVM_fields ..).2.2.2.2.2.2.1]
  change Except.ok _ = _
  simp only [encVM_fields]

theorem RoundTrip.vstx (d a b : Reg) (t : BitVec 2) (k : BitVec 3) (o : BitVec 1) : RoundTrip.Statement (.vstx d a b t k o) := by
  refine roundTrip32 rfl rfl (encVM_tagged ..) ?_
  rw [decode32, (encVM_tagged ..).2]
  change decVst _ = _
  rw [decVst, (encVM_fields ..).2.2.2.2.2.2.1]
  change Except.ok _ = _
  simp only [encVM_fields]

theorem RoundTrip.vst3 (d a : Reg) (t : BitVec 2) (k : BitVec 3) (o : BitVec 1) : RoundTrip.Statement (.vst3 d a t k o) := by
  refine roundTrip32 rfl rfl (encVM_tagged ..) ?_
  rw [decode32, (encVM_tagged ..).2]
  change decVst _ = _
  rw [decVst, (encVM_fields ..).2.2.2.2.2.2.1]
  change mbz _ _ = _
  simp only [encVM_fields]
  rfl

theorem RoundTrip.vstc (d a b : Reg) (t : BitVec 2) : RoundTrip.Statement (.vstc d a b t) := by
  refine roundTrip32 rfl rfl (encVM_tagged ..) ?_
  rw [decode32, (encVM_tagged ..).2]
  change decVst _ = _
  rw [decVst, (encVM_fields ..).2.2.2.2.2.2.1]
  change mbz _ _ = _
  simp only [encVM_fields]
  rfl

theorem RoundTrip.vscadd (d a b : Reg) (t : BitVec 2) (k : BitVec 3) : RoundTrip.Statement (.vscadd d a b t k) := by
  refine roundTrip32 rfl rfl (encVM_tagged ..) ?_
  rw [decode32, (encVM_tagged ..).2]
  change decVst _ = _
  rw [decVst, (encVM_fields ..).2.2.2.2.2.2.1]
  change mbz _ _ = _
  simp only [encVM_fields]
  rfl

theorem RoundTrip.vscfadd (d a b : Reg) (t : BitVec 2) (k : BitVec 3) : RoundTrip.Statement (.vscfadd d a b t k) := by
  refine roundTrip32 rfl rfl (encVM_tagged ..) ?_
  rw [decode32, (encVM_tagged ..).2]
  change decVst _ = _
  rw [decVst, (encVM_fields ..).2.2.2.2.2.2.1]
  change mbz _ _ = _
  simp only [encVM_fields]
  rfl

theorem RoundTrip.vgacq (d a b : Reg) (x : BitVec 4) : RoundTrip.Statement (.vgacq d a b x) := by
  refine roundTrip32 rfl rfl (encSR_tagged ..) ?_
  rw [decode32, (encSR_tagged ..).2]
  change decVsync _ = _
  rw [decVsync, (encSR_fields ..).2.2.2.2.1]
  change Except.ok _ = _
  simp only [encSR_fields]

theorem RoundTrip.vsrel (d a b : Reg) (x : BitVec 4) : RoundTrip.Statement (.vsrel d a b x) := by
  refine roundTrip32 rfl rfl (encSR_tagged ..) ?_
  rw [decode32, (encSR_tagged ..).2]
  change decVsync _ = _
  rw [decVsync, (encSR_fields ..).2.2.2.2.1]
  change Except.ok _ = _
  simp only [encSR_fields]

theorem RoundTrip.tkpost (a : Reg) : RoundTrip.Statement (.tkpost a) := by
  refine roundTrip32 rfl rfl (encSR_tagged ..) ?_
  rw [decode32, (encSR_tagged ..).2]
  change decCore _ = _
  rw [decCore, (encSR_fields ..).2.2.2.2.1]
  change mbz _ _ = _
  simp only [encSR_fields]
  rfl

theorem RoundTrip.tkwait (a : Reg) : RoundTrip.Statement (.tkwait a) := by
  refine roundTrip32 rfl rfl (encSR_tagged ..) ?_
  rw [decode32, (encSR_tagged ..).2]
  change decCore _ = _
  rw [decCore, (encSR_fields ..).2.2.2.2.1]
  change mbz _ _ = _
  simp only [encSR_fields]
  rfl

theorem RoundTrip.lpinfo (d : Reg) : RoundTrip.Statement (.lpinfo d) := by
  refine roundTrip32 rfl rfl (encSR_tagged ..) ?_
  rw [decode32, (encSR_tagged ..).2]
  change decCore _ = _
  rw [decCore, (encSR_fields ..).2.2.2.2.1]
  change mbz _ _ = _
  simp only [encSR_fields]
  rfl

theorem RoundTrip.gangid (d a : Reg) : RoundTrip.Statement (.gangid d a) := by
  refine roundTrip32 rfl rfl (encSR_tagged ..) ?_
  rw [decode32, (encSR_tagged ..).2]
  change decCore _ = _
  rw [decCore, (encSR_fields ..).2.2.2.2.1]
  change mbz _ _ = _
  simp only [encSR_fields]
  rfl

theorem RoundTrip.fluest (d : Reg) : RoundTrip.Statement (.fluest d) := by
  refine roundTrip32 rfl rfl (encSR_tagged ..) ?_
  rw [decode32, (encSR_tagged ..).2]
  change decCore _ = _
  rw [decCore, (encSR_fields ..).2.2.2.2.1]
  change mbz _ _ = _
  simp only [encSR_fields]
  rfl

theorem RoundTrip.curcls (d a : Reg) : RoundTrip.Statement (.curcls d a) := by
  refine roundTrip32 rfl rfl (encSR_tagged ..) ?_
  rw [decode32, (encSR_tagged ..).2]
  change decCore _ = _
  rw [decCore, (encSR_fields ..).2.2.2.2.1]
  change mbz _ _ = _
  simp only [encSR_fields]
  rfl

theorem RoundTrip.epush (d a : Reg) (x : BitVec 4) : RoundTrip.Statement (.epush d a x) := by
  refine roundTrip32 rfl rfl (encSR_tagged ..) ?_
  rw [decode32, (encSR_tagged ..).2]
  change decEng _ = _
  rw [decEng, (encSR_fields ..).2.2.2.2.1]
  change mbz _ _ = _
  simp only [encSR_fields]
  rfl

theorem RoundTrip.epop (d : Reg) (x : BitVec 4) : RoundTrip.Statement (.epop d x) := by
  refine roundTrip32 rfl rfl (encSR_tagged ..) ?_
  rw [decode32, (encSR_tagged ..).2]
  change decEng _ = _
  rw [decEng, (encSR_fields ..).2.2.2.2.1]
  change mbz _ _ = _
  simp only [encSR_fields]
  rfl

theorem RoundTrip.estat (d : Reg) (x : BitVec 4) : RoundTrip.Statement (.estat d x) := by
  refine roundTrip32 rfl rfl (encSR_tagged ..) ?_
  rw [decode32, (encSR_tagged ..).2]
  change decEng _ = _
  rw [decEng, (encSR_fields ..).2.2.2.2.1]
  change mbz _ _ = _
  simp only [encSR_fields]
  rfl

theorem RoundTrip.epush2 (d a b : Reg) (x : BitVec 4) : RoundTrip.Statement (.epush2 d a b x) := by
  refine roundTrip32 rfl rfl (encSR_tagged ..) ?_
  rw [decode32, (encSR_tagged ..).2]
  change decEng _ = _
  rw [decEng, (encSR_fields ..).2.2.2.2.1]
  change Except.ok _ = _
  simp only [encSR_fields]

theorem RoundTrip.menter : RoundTrip.Statement (.menter) := by
  refine roundTrip32 rfl rfl (encSR_tagged ..) ?_
  rw [decode32, (encSR_tagged ..).2]
  change decMmode _ = _
  rw [decMmode, (encSR_fields ..).2.2.2.2.1]
  change mbz _ _ = _
  simp only [encSR_fields]
  rfl

theorem RoundTrip.mexit : RoundTrip.Statement (.mexit) := by
  refine roundTrip32 rfl rfl (encSR_tagged ..) ?_
  rw [decode32, (encSR_tagged ..).2]
  change decMmode _ = _
  rw [decMmode, (encSR_fields ..).2.2.2.2.1]
  change mbz _ _ = _
  simp only [encSR_fields]
  rfl

theorem RoundTrip.settile (d a b : Reg) : RoundTrip.Statement (.settile d a b) := by
  refine roundTrip32 rfl rfl (encSR_tagged ..) ?_
  rw [decode32, (encSR_tagged ..).2]
  change decMmode _ = _
  rw [decMmode, (encSR_fields ..).2.2.2.2.1]
  change mbz _ _ = _
  simp only [encSR_fields]
  rfl

theorem RoundTrip.mzero (d : Reg) : RoundTrip.Statement (.mzero d) := by
  refine roundTrip32 rfl rfl (encSR_tagged ..) ?_
  rw [decode32, (encSR_tagged ..).2]
  change decMmode _ = _
  rw [decMmode, (encSR_fields ..).2.2.2.2.1]
  change mbz _ _ = _
  simp only [encSR_fields]
  rfl

theorem RoundTrip.mrdf (d a b : Reg) : RoundTrip.Statement (.mrdf d a b) := by
  refine roundTrip32 rfl rfl (encSR_tagged ..) ?_
  rw [decode32, (encSR_tagged ..).2]
  change decMmode _ = _
  rw [decMmode, (encSR_fields ..).2.2.2.2.1]
  change mbz _ _ = _
  simp only [encSR_fields]
  rfl

theorem RoundTrip.mcmprs (d a b : Reg) : RoundTrip.Statement (.mcmprs d a b) := by
  refine roundTrip32 rfl rfl (encSR_tagged ..) ?_
  rw [decode32, (encSR_tagged ..).2]
  change decMmode _ = _
  rw [decMmode, (encSR_fields ..).2.2.2.2.1]
  change mbz _ _ = _
  simp only [encSR_fields]
  rfl

theorem RoundTrip.maccadd (d a : Reg) : RoundTrip.Statement (.maccadd d a) := by
  refine roundTrip32 rfl rfl (encSR_tagged ..) ?_
  rw [decode32, (encSR_tagged ..).2]
  change decMmode _ = _
  rw [decMmode, (encSR_fields ..).2.2.2.2.1]
  change mbz _ _ = _
  simp only [encSR_fields]
  rfl

theorem RoundTrip.vbind (d a : Reg) : RoundTrip.Statement (.vbind d a) := by
  refine roundTrip32 rfl rfl (encSR_tagged ..) ?_
  rw [decode32, (encSR_tagged ..).2]
  change decStrm _ = _
  rw [decStrm, (encSR_fields ..).2.2.2.2.1]
  change mbz _ _ = _
  simp only [encSR_fields]
  rfl

theorem RoundTrip.vunbind (d : Reg) : RoundTrip.Statement (.vunbind d) := by
  refine roundTrip32 rfl rfl (encSR_tagged ..) ?_
  rw [decode32, (encSR_tagged ..).2]
  change decStrm _ = _
  rw [decStrm, (encSR_fields ..).2.2.2.2.1]
  change mbz _ _ = _
  simp only [encSR_fields]
  rfl

theorem RoundTrip.splook (d a : Reg) : RoundTrip.Statement (.splook d a) := by
  refine roundTrip32 rfl rfl (encSR_tagged ..) ?_
  rw [decode32, (encSR_tagged ..).2]
  change decSpad _ = _
  rw [decSpad, (encSR_fields ..).2.2.2.2.1]
  change mbz _ _ = _
  simp only [encSR_fields]
  rfl

theorem RoundTrip.spinst (d a b : Reg) : RoundTrip.Statement (.spinst d a b) := by
  refine roundTrip32 rfl rfl (encSR_tagged ..) ?_
  rw [decode32, (encSR_tagged ..).2]
  change decSpad _ = _
  rw [decSpad, (encSR_fields ..).2.2.2.2.1]
  change mbz _ _ = _
  simp only [encSR_fields]
  rfl

theorem RoundTrip.spdrop (d a : Reg) : RoundTrip.Statement (.spdrop d a) := by
  refine roundTrip32 rfl rfl (encSR_tagged ..) ?_
  rw [decode32, (encSR_tagged ..).2]
  change decSpad _ = _
  rw [decSpad, (encSR_fields ..).2.2.2.2.1]
  change mbz _ _ = _
  simp only [encSR_fields]
  rfl

theorem RoundTrip.spzero (a b : Reg) : RoundTrip.Statement (.spzero a b) := by
  refine roundTrip32 rfl rfl (encSR_tagged ..) ?_
  rw [decode32, (encSR_tagged ..).2]
  change decSpad _ = _
  rw [decSpad, (encSR_fields ..).2.2.2.2.1]
  change mbz _ _ = _
  simp only [encSR_fields]
  rfl

theorem RoundTrip.gbar : RoundTrip.Statement (.gbar) := by
  refine roundTrip32 rfl rfl (encSR_tagged ..) ?_
  rw [decode32, (encSR_tagged ..).2]
  change decBar _ = _
  rw [decBar, (encSR_fields ..).2.2.2.2.1]
  change mbz _ _ = _
  simp only [encSR_fields]
  rfl

theorem RoundTrip.gbarv (d a : Reg) : RoundTrip.Statement (.gbarv d a) := by
  refine roundTrip32 rfl rfl (encSR_tagged ..) ?_
  rw [decode32, (encSR_tagged ..).2]
  change decBar _ = _
  rw [decBar, (encSR_fields ..).2.2.2.2.1]
  change mbz _ _ = _
  simp only [encSR_fields]
  rfl

theorem RoundTrip.gbarw (d : Reg) : RoundTrip.Statement (.gbarw d) := by
  refine roundTrip32 rfl rfl (encSR_tagged ..) ?_
  rw [decode32, (encSR_tagged ..).2]
  change decBar _ = _
  rw [decBar, (encSR_fields ..).2.2.2.2.1]
  change mbz _ _ = _
  simp only [encSR_fields]
  rfl

theorem RoundTrip.barrive (d a : Reg) : RoundTrip.Statement (.barrive d a) := by
  refine roundTrip32 rfl rfl (encSR_tagged ..) ?_
  rw [decode32, (encSR_tagged ..).2]
  change decBar _ = _
  rw [decBar, (encSR_fields ..).2.2.2.2.1]
  change mbz _ _ = _
  simp only [encSR_fields]
  rfl

theorem RoundTrip.bwait (d a b : Reg) : RoundTrip.Statement (.bwait d a b) := by
  refine roundTrip32 rfl rfl (encSR_tagged ..) ?_
  rw [decode32, (encSR_tagged ..).2]
  change decBar _ = _
  rw [decBar, (encSR_fields ..).2.2.2.2.1]
  change mbz _ _ = _
  simp only [encSR_fields]
  rfl

theorem RoundTrip.launch (d a b : Reg) : RoundTrip.Statement (.launch d a b) := by
  refine roundTrip32 rfl rfl (encSR_tagged ..) ?_
  rw [decode32, (encSR_tagged ..).2]
  change decSched _ = _
  rw [decSched, (encSR_fields ..).2.2.2.2.1]
  change mbz _ _ = _
  simp only [encSR_fields]
  rfl

theorem RoundTrip.evsig (d a : Reg) : RoundTrip.Statement (.evsig d a) := by
  refine roundTrip32 rfl rfl (encSR_tagged ..) ?_
  rw [decode32, (encSR_tagged ..).2]
  change decSched _ = _
  rw [decSched, (encSR_fields ..).2.2.2.2.1]
  change mbz _ _ = _
  simp only [encSR_fields]
  rfl

theorem RoundTrip.evwait (d a : Reg) : RoundTrip.Statement (.evwait d a) := by
  refine roundTrip32 rfl rfl (encSR_tagged ..) ?_
  rw [decode32, (encSR_tagged ..).2]
  change decSched _ = _
  rw [decSched, (encSR_fields ..).2.2.2.2.1]
  change mbz _ _ = _
  simp only [encSR_fields]
  rfl

theorem RoundTrip.qinfo (d a : Reg) : RoundTrip.Statement (.qinfo d a) := by
  refine roundTrip32 rfl rfl (encSR_tagged ..) ?_
  rw [decode32, (encSR_tagged ..).2]
  change decSched _ = _
  rw [decSched, (encSR_fields ..).2.2.2.2.1]
  change mbz _ _ = _
  simp only [encSR_fields]
  rfl

theorem RoundTrip.bjoin (d a b : Reg) : RoundTrip.Statement (.bjoin d a b) := by
  refine roundTrip32 rfl rfl (encSR_tagged ..) ?_
  rw [decode32, (encSR_tagged ..).2]
  change decBallot _ = _
  rw [decBallot, (encSR_fields ..).2.2.2.2.1]
  change mbz _ _ = _
  simp only [encSR_fields]
  rfl

theorem RoundTrip.bpost (d a : Reg) : RoundTrip.Statement (.bpost d a) := by
  refine roundTrip32 rfl rfl (encSR_tagged ..) ?_
  rw [decode32, (encSR_tagged ..).2]
  change decBallot _ = _
  rw [decBallot, (encSR_fields ..).2.2.2.2.1]
  change mbz _ _ = _
  simp only [encSR_fields]
  rfl

theorem RoundTrip.bpoll (d : Reg) : RoundTrip.Statement (.bpoll d) := by
  refine roundTrip32 rfl rfl (encSR_tagged ..) ?_
  rw [decode32, (encSR_tagged ..).2]
  change decBallot _ = _
  rw [decBallot, (encSR_fields ..).2.2.2.2.1]
  change mbz _ _ = _
  simp only [encSR_fields]
  rfl

theorem RoundTrip.bchk (d : Reg) : RoundTrip.Statement (.bchk d) := by
  refine roundTrip32 rfl rfl (encSR_tagged ..) ?_
  rw [decode32, (encSR_tagged ..).2]
  change decBallot _ = _
  rw [decBallot, (encSR_fields ..).2.2.2.2.1]
  change mbz _ _ = _
  simp only [encSR_fields]
  rfl

theorem RoundTrip.bleave (d : Reg) : RoundTrip.Statement (.bleave d) := by
  refine roundTrip32 rfl rfl (encSR_tagged ..) ?_
  rw [decode32, (encSR_tagged ..).2]
  change decBallot _ = _
  rw [decBallot, (encSR_fields ..).2.2.2.2.1]
  change mbz _ _ = _
  simp only [encSR_fields]
  rfl

theorem RoundTrip.probe (d a b : Reg) : RoundTrip.Statement (.probe d a b) := by
  refine roundTrip32 rfl rfl (encSR_tagged ..) ?_
  rw [decode32, (encSR_tagged ..).2]
  change decMemx _ = _
  rw [decMemx, (encSR_fields ..).2.2.2.2.1]
  change mbz _ _ = _
  simp only [encSR_fields]
  rfl

theorem RoundTrip.tlbinv (a b : Reg) : RoundTrip.Statement (.tlbinv a b) := by
  refine roundTrip32 rfl rfl (encSR_tagged ..) ?_
  rw [decode32, (encSR_tagged ..).2]
  change decMemx _ = _
  rw [decMemx, (encSR_fields ..).2.2.2.2.1]
  change mbz _ _ = _
  simp only [encSR_fields]
  rfl

theorem RoundTrip.tlbinva (a : Reg) : RoundTrip.Statement (.tlbinva a) := by
  refine roundTrip32 rfl rfl (encSR_tagged ..) ?_
  rw [decode32, (encSR_tagged ..).2]
  change decMemx _ = _
  rw [decMemx, (encSR_fields ..).2.2.2.2.1]
  change mbz _ _ = _
  simp only [encSR_fields]
  rfl

theorem RoundTrip.nInc (d : Reg) (p : BitVec 7) : RoundTrip.Statement (.nInc d p) := by
  refine roundTrip16 rfl rfl (encN_even ..) fun hw => decode16_encN ?_ rfl
  simp only [Instr.wf, Bool.not_eq_true', Bool.and_eq_false_iff, decide_eq_false_iff_not, ← BitVec.toNat_inj] at hw
  exact .inr hw

theorem RoundTrip.nCopy (d : Reg) (s : BitVec 5) : RoundTrip.Statement (.nCopy d s) := by
  refine roundTrip16 rfl rfl (encN_even ..) fun _ => decode16_encN (.inl (by decide)) ?_
  change mbz _ _ = _
  simp only [encN_copy]
  rfl

theorem RoundTrip.nLdf (d : Reg) (p : BitVec 7) : RoundTrip.Statement (.nLdf d p) := roundTrip16 rfl rfl (encN_even ..) fun _ => decode16_encN (.inl (by decide)) rfl

theorem RoundTrip.nStf (d : Reg) (p : BitVec 7) : RoundTrip.Statement (.nStf d p) := roundTrip16 rfl rfl (encN_even ..) fun _ => decode16_encN (.inl (by decide)) rfl

theorem RoundTrip.nBrz (a : Reg) (p : BitVec 7) : RoundTrip.Statement (.nBrz a p) := roundTrip16 rfl rfl (encN_even ..) fun _ => decode16_encN (.inl (by decide)) rfl

theorem RoundTrip.nBrnz (a : Reg) (p : BitVec 7) : RoundTrip.Statement (.nBrnz a p) := roundTrip16 rfl rfl (encN_even ..) fun _ => decode16_encN (.inl (by decide)) rfl

theorem RoundTrip.nGo (p : BitVec 12) : RoundTrip.Statement (.nGo p) := by
  have n := nGo_toNat p
  have := p.isLt
  have z : (0#1).toNat = 0 := rfl
  have m : (6#3).toNat = 6 := rfl
  refine roundTrip16 rfl rfl (bf_eq (by rw [n, z]; omega)) fun _ => ?_
  rw [decode16, if_neg fun e => by
    have h2 := congrArg BitVec.toNat e
    have z : (0#16).toNat = 0 := rfl
    rw [n, z] at h2
    omega, show bf 1 3 _ = 6#3 from bf_eq (by rw [n, m]; omega)]
  change Except.ok (Instr.nGo _) = _
  rw [show bf 4 12 _ = p from bf_eq (by rw [n]; omega)]

theorem RoundTrip.nAcc (d : Reg) (s : BitVec 5) : RoundTrip.Statement (.nAcc d s) := by
  refine roundTrip16 rfl rfl (encN_even ..) fun _ => decode16_encN (.inl (by decide)) ?_
  change mbz _ _ = _
  simp only [encN_copy]
  rfl

theorem RoundTrip.mop (t : Tile) : RoundTrip.Statement (.mop t) := roundTrip64 rfl rfl (decode64_tile 0#6 t _ rfl)

theorem RoundTrip.mops (t : Tile) : RoundTrip.Statement (.mops t) := roundTrip64 rfl rfl (decode64_tile 1#6 t _ rfl)

theorem RoundTrip.mopl (t : Tile) : RoundTrip.Statement (.mopl t) := roundTrip64 rfl rfl (decode64_tile 2#6 t _ rfl)

theorem RoundTrip.mopd (t : Tile) : RoundTrip.Statement (.mopd t) := roundTrip64 rfl rfl (decode64_tile 3#6 t _ rfl)

theorem RoundTrip.eventTrap : RoundTrip.Statement (.eventTrap) := fun _ h => nomatch h
theorem RoundTrip.timerCompare : RoundTrip.Statement (.timerCompare) := fun _ h => nomatch h
theorem RoundTrip.wfeWake (h : HartKey) : RoundTrip.Statement (.wfeWake h) := fun _ h => nomatch h
theorem RoundTrip.gangBarrierRelease (h : HartKey) : RoundTrip.Statement (.gangBarrierRelease h) := fun _ h => nomatch h
theorem RoundTrip.viqDispatch (h : HartKey) : RoundTrip.Statement (.viqDispatch h) := fun _ h => nomatch h
theorem RoundTrip.vectorRetire (h : HartKey) (mismatch : Option (BitVec 6)) : RoundTrip.Statement (.vectorRetire h mismatch) := fun _ h => nomatch h
theorem RoundTrip.dispatchGateCycle (c : CoreKey) : RoundTrip.Statement (.dispatchGateCycle c) := fun _ h => nomatch h
theorem RoundTrip.flueWindowEnd (f : FlueKey) : RoundTrip.Statement (.flueWindowEnd f) := fun _ h => nomatch h
theorem RoundTrip.flrailStepDone (f : FlueKey) : RoundTrip.Statement (.flrailStepDone f) := fun _ h => nomatch h
theorem RoundTrip.clusterClockStopDone (die clu : Nat) : RoundTrip.Statement (.clusterClockStopDone die clu) := fun _ h => nomatch h
theorem RoundTrip.clusterClockRestartDone (die clu : Nat) : RoundTrip.Statement (.clusterClockRestartDone die clu) := fun _ h => nomatch h
theorem RoundTrip.schedulerStep (die : Nat) : RoundTrip.Statement (.schedulerStep die) := fun _ h => nomatch h
theorem RoundTrip.hartStop (h : HartKey) : RoundTrip.Statement (.hartStop h) := fun _ h => nomatch h
theorem RoundTrip.launchCompletion (launch : Nat) : RoundTrip.Statement (.launchCompletion launch) := fun _ h => nomatch h
theorem RoundTrip.hartFelled (h : HartKey) : RoundTrip.Statement (.hartFelled h) := fun _ h => nomatch h
theorem RoundTrip.pageListReturn (slot member : Nat) : RoundTrip.Statement (.pageListReturn slot member) := fun _ h => nomatch h
theorem RoundTrip.groveClose (slot : Nat) : RoundTrip.Statement (.groveClose slot) := fun _ h => nomatch h
theorem RoundTrip.hostQueueTailWrite (die q : Nat) (tail : Word) : RoundTrip.Statement (.hostQueueTailWrite die q tail) := fun _ h => nomatch h
theorem RoundTrip.hostCancelRequest (die q : Nat) (seq : Word) : RoundTrip.Statement (.hostCancelRequest die q seq) := fun _ h => nomatch h
theorem RoundTrip.hostMailboxWrite (die : Nat) (tail : Word) : RoundTrip.Statement (.hostMailboxWrite die tail) := fun _ h => nomatch h
theorem RoundTrip.hostMemWrite (pa : Nat) (bytes : List Byte) : RoundTrip.Statement (.hostMemWrite pa bytes) := fun _ h => nomatch h
theorem RoundTrip.moduleReset : RoundTrip.Statement (.moduleReset) := fun _ h => nomatch h
theorem RoundTrip.scrub (line : Nat) : RoundTrip.Statement (.scrub line) := fun _ h => nomatch h
theorem RoundTrip.thermalSample (stack layer temp : Nat) : RoundTrip.Statement (.thermalSample stack layer temp) := fun _ h => nomatch h
theorem RoundTrip.sramMonitorCrossing (die dom : Nat) : RoundTrip.Statement (.sramMonitorCrossing die dom) := fun _ h => nomatch h
theorem RoundTrip.engineRecordArrival (h : HartKey) (eng : Nat) : RoundTrip.Statement (.engineRecordArrival h eng) := fun _ h => nomatch h
theorem RoundTrip.copy (h : HartKey) : RoundTrip.Statement (.copy h) := fun _ h => nomatch h
theorem RoundTrip.conv (h : HartKey) : RoundTrip.Statement (.conv h) := fun _ h => nomatch h
theorem RoundTrip.convef (h : HartKey) : RoundTrip.Statement (.convef h) := fun _ h => nomatch h
theorem RoundTrip.comp (h : HartKey) : RoundTrip.Statement (.comp h) := fun _ h => nomatch h
theorem RoundTrip.decomp (h : HartKey) : RoundTrip.Statement (.decomp h) := fun _ h => nomatch h
theorem RoundTrip.fill (h : HartKey) : RoundTrip.Statement (.fill h) := fun _ h => nomatch h
theorem RoundTrip.spfill (h : HartKey) : RoundTrip.Statement (.spfill h) := fun _ h => nomatch h
theorem RoundTrip.pgather (h : HartKey) : RoundTrip.Statement (.pgather h) := fun _ h => nomatch h
theorem RoundTrip.igather (h : HartKey) : RoundTrip.Statement (.igather h) := fun _ h => nomatch h
theorem RoundTrip.allred (h : HartKey) : RoundTrip.Statement (.allred h) := fun _ h => nomatch h
theorem RoundTrip.bcast (h : HartKey) : RoundTrip.Statement (.bcast h) := fun _ h => nomatch h
theorem RoundTrip.allgath (h : HartKey) : RoundTrip.Statement (.allgath h) := fun _ h => nomatch h
theorem RoundTrip.dbar (h : HartKey) : RoundTrip.Statement (.dbar h) := fun _ h => nomatch h
theorem RoundTrip.send (h : HartKey) : RoundTrip.Statement (.send h) := fun _ h => nomatch h
theorem RoundTrip.markcfg (h : HartKey) : RoundTrip.Statement (.markcfg h) := fun _ h => nomatch h
theorem RoundTrip.ping (die : Nat) : RoundTrip.Statement (.ping die) := fun _ h => nomatch h
theorem RoundTrip.retire (die : Nat) : RoundTrip.Statement (.retire die) := fun _ h => nomatch h
theorem RoundTrip.keyload (die : Nat) : RoundTrip.Statement (.keyload die) := fun _ h => nomatch h
theorem RoundTrip.firmwareMessage (die : Nat) (status : BitVec 8) (detail : BitVec 32) : RoundTrip.Statement (.firmwareMessage die status detail) := fun _ h => nomatch h
theorem RoundTrip.doubleTrapReport (die : Nat) : RoundTrip.Statement (.doubleTrapReport die) := fun _ h => nomatch h
theorem RoundTrip.linkKillReport (die : Nat) : RoundTrip.Statement (.linkKillReport die) := fun _ h => nomatch h
theorem RoundTrip.portLinkFail (port : Nat) : RoundTrip.Statement (.portLinkFail port) := fun _ h => nomatch h
theorem RoundTrip.packageUnreachable (pkg : Nat) : RoundTrip.Statement (.packageUnreachable pkg) := fun _ h => nomatch h
theorem RoundTrip.dieLinkFail (d e : Nat) : RoundTrip.Statement (.dieLinkFail d e) := fun _ h => nomatch h
theorem RoundTrip.vlWrite (v : Word) : RoundTrip.Statement (.vlWrite v) := fun _ h => nomatch h
theorem RoundTrip.vcfgWrite (v : Word) : RoundTrip.Statement (.vcfgWrite v) := fun _ h => nomatch h
theorem RoundTrip.rcWrite (v : Word) : RoundTrip.Statement (.rcWrite v) := fun _ h => nomatch h
theorem RoundTrip.tbnWrite (v : Word) : RoundTrip.Statement (.tbnWrite v) := fun _ h => nomatch h
theorem RoundTrip.eventClear (v : Word) : RoundTrip.Statement (.eventClear v) := fun _ h => nomatch h
theorem RoundTrip.tsaveWrite (v : Word) : RoundTrip.Statement (.tsaveWrite v) := fun _ h => nomatch h
theorem RoundTrip.lprWrite (v : Word) : RoundTrip.Statement (.lprWrite v) := fun _ h => nomatch h
theorem RoundTrip.lgoffWrite (v : Word) : RoundTrip.Statement (.lgoffWrite v) := fun _ h => nomatch h
theorem RoundTrip.gatecfgWrite (v : Word) : RoundTrip.Statement (.gatecfgWrite v) := fun _ h => nomatch h
theorem RoundTrip.seedchkWrite (v : Word) : RoundTrip.Statement (.seedchkWrite v) := fun _ h => nomatch h
theorem RoundTrip.flcfgWrite (v : Word) : RoundTrip.Statement (.flcfgWrite v) := fun _ h => nomatch h
theorem RoundTrip.flselWrite (v : Word) : RoundTrip.Statement (.flselWrite v) := fun _ h => nomatch h
theorem RoundTrip.flrailWrite (v : Word) : RoundTrip.Statement (.flrailWrite v) := fun _ h => nomatch h
theorem RoundTrip.cqctlClose (on : Bool) : RoundTrip.Statement (.cqctlClose on) := fun _ h => nomatch h
theorem RoundTrip.cqctlPre (on : Bool) : RoundTrip.Statement (.cqctlPre on) := fun _ h => nomatch h
theorem RoundTrip.cqctlSleep (on : Bool) : RoundTrip.Statement (.cqctlSleep on) := fun _ h => nomatch h
theorem RoundTrip.cwakeWrite (v : Word) : RoundTrip.Statement (.cwakeWrite v) := fun _ h => nomatch h
theorem RoundTrip.mfaqPop (d : Reg) : RoundTrip.Statement (.mfaqPop d) := fun _ h => nomatch h
theorem RoundTrip.energyloRead (d : Reg) : RoundTrip.Statement (.energyloRead d) := fun _ h => nomatch h
theorem RoundTrip.uvpinClear (v : Word) : RoundTrip.Statement (.uvpinClear v) := fun _ h => nomatch h
theorem RoundTrip.jbaseWrite (v : Word) : RoundTrip.Statement (.jbaseWrite v) := fun _ h => nomatch h
theorem RoundTrip.mbxbaseWrite (v : Word) : RoundTrip.Statement (.mbxbaseWrite v) := fun _ h => nomatch h
theorem RoundTrip.mbxreplyWrite (v : Word) : RoundTrip.Statement (.mbxreplyWrite v) := fun _ h => nomatch h
theorem RoundTrip.ptrootWrite (v : Word) : RoundTrip.Statement (.ptrootWrite v) := fun _ h => nomatch h
theorem RoundTrip.asidWrite (v : Word) : RoundTrip.Statement (.asidWrite v) := fun _ h => nomatch h
theorem RoundTrip.sysregWrite (n : BitVec 9) (v : Word) : RoundTrip.Statement (.sysregWrite n v) := fun _ h => nomatch h
theorem RoundTrip.encodingNotInstruction (w : Word) : RoundTrip.Statement (.encodingNotInstruction w) := fun _ h => nomatch h
theorem RoundTrip.instructionFetchFault (addr tinfo : Word) : RoundTrip.Statement (.instructionFetchFault addr tinfo) := fun _ h => nomatch h
theorem RoundTrip.storageBitError (line : Nat) (bits : List Nat) : RoundTrip.Statement (.storageBitError line bits) := fun _ h => nomatch h
theorem RoundTrip.fabricRequestArrival (r : FabricRequest) : RoundTrip.Statement (.fabricRequestArrival r) := fun _ h => nomatch h
theorem RoundTrip.pathAnswersAgain (pkg : Nat) : RoundTrip.Statement (.pathAnswersAgain pkg) := fun _ h => nomatch h
theorem RoundTrip.fabricPortTrained (port : Nat) : RoundTrip.Statement (.fabricPortTrained port) := fun _ h => nomatch h
theorem RoundTrip.cxlLinkTrained (flits256 : Bool) : RoundTrip.Statement (.cxlLinkTrained flits256) := fun _ h => nomatch h


end Sys2Proof.Laws
end

