-- ==== Sys2Proof/Tests/Slice0.lean ====
section
/-! SUPPORT. Tests: ill-formed terms that well-formedness refuses, words that the spec prints beside their instructions,
steps whose results the spec gives, and, for each statement with hypotheses, states and operands that meet them. -/

namespace Sys2Proof.Tests

open Sys2Proof Sys2Proof.Machine

-- One theorem after another: each waits for the kernel, and theorems that wait side by side take a thread each.
set_option Elab.async false

/-! ### Well-formedness (R63, R64, R68, R69, R2) -/

theorem test_wf_refuses_scopes : ([.amoswap 5 6 7 11 0, .amoadd 5 6 7 15 0, .amoand 5 6 7 11 0, .amoor 5 6 7 11 0, .amoxor 5 6 7 11 0,
    .amomin 5 6 7 11 0, .amomax 5 6 7 11 0, .amocas 5 6 7 11 0, .amowswap 5 6 7 11 0, .amowadd 5 6 7 11 0, .amowand 5 6 7 11 0,
    .amowor 5 6 7 11 0, .amowxor 5 6 7 11 0, .amowmin 5 6 7 11 0, .amowmax 5 6 7 11 0, .amowcas 5 6 7 11 0, .lda 5 6 11,
    .lwa 5 6 11, .stl 5 6 11, .swl 5 6 11, .fence 11, .fenceSV 11, .fenceVS 11, .fenceVV 11, .fenceSS 11, .vgacq 4 6 5 11,
    .vsrel 4 6 5 11] : List Instr).all (fun i => !i.wf) = true := by decide +kernel

theorem test_wf_refuses_engines : ([.epush 5 6 0, .epush 5 6 6, .epop 5 0, .estat 5 6, .epush2 5 6 7 6] : List Instr).all
    (fun i => !i.wf) = true := by decide +kernel

/-- SEW codes 4 to 7 and FZ 3, dimension 3, a compressed increment that is the zero parcel, format codes from 17 on, tile forms with
an unused MA or SB (R66) and with pairs from 0 and 31. -/
theorem test_wf_refuses_fields : ([.setvl 5 4 4, .setvl 5 4 7, .setvl 5 4 0x60, .setdim 6 7 3, .nInc 0 0, .vcvt 6 2 17 8 1 0,
    .vcvt 6 2 11 31 1 0, .mop ⟨8, 0, 4, 0, 0, 0, 11, 11, 20, 21, 0, 0, 0, 1⟩, .mopl ⟨8, 0, 4, 0, 0, 0, 11, 11, 20, 21, 0, 0, 1, 0⟩,
    .mopd ⟨8, 0, 4, 0, 1, 0, 11, 11, 0, 0, 0, 0, 0, 0⟩, .mops ⟨8, 0, 31, 0, 0, 1, 11, 11, 0, 0, 0, 0, 0, 0⟩] : List Instr).all (fun i => !i.wf) = true := by decide +kernel

theorem test_wf_refuses_masks : ([.vceqVV 8 2 3 0, .vcneVV 8 2 3 0, .vcltVV 8 2 3 0, .vcleVV 8 2 3 0, .vcltuVV 8 2 3 0,
    .vcleuVV 8 2 3 0, .vceqVS 8 2 3 0, .vcneVS 8 2 3 0, .vcltVS 8 2 3 0, .vcleVS 8 2 3 0, .vcltuVS 8 2 3 0, .vcleuVS 8 2 3 0,
    .vfceqVV 8 2 3 0, .vfcltVV 8 2 3 0, .vfcleVV 8 2 3 0, .vfcunVV 8 2 3 0, .vfceqVS 8 2 3 0, .vfcltVS 8 2 3 0, .vfcleVS 8 2 3 0,
    .vfcunVS 8 2 3 0, .kand 8 1 2, .kor 1 8 2, .kxor 1 2 8, .kandn 31 1 2, .knot 1 8, .kset 8, .kclr 8, .kmov 8 1, .kmov 1 10, .kpop 5 8,
    .kfirst 5 8, .kfromv 8 4, .ktov 4 8, .klt 8 6 7, .kblk 8 4 6, .kenc 8 1 6, .kenc 1 8 6] : List Instr).all
    (fun i => !i.wf) = true := by decide +kernel

/-- Places, packages, queues, slots, stacks, domains and links that the module does not have. -/
theorem test_wf_refuses_places :
    let h : HartKey := ⟨false, 4, 0, 0, 0⟩
    ([.wfeWake h, .gangBarrierRelease ⟨false, 0, 16, 0, 0⟩, .viqDispatch ⟨false, 0, 0, 48, 0⟩, .vectorRetire ⟨false, 0, 0, 0, 4⟩ none,
      .dispatchGateCycle ⟨false, 0, 0, 48⟩, .flueWindowEnd ⟨0, 0, 12⟩, .flrailStepDone ⟨0, 16, 0⟩, .clusterClockStopDone 4 0,
      .clusterClockRestartDone 0 16, .schedulerStep 4, .hartStop h, .hartFelled h, .pageListReturn 256 0, .groveClose 256,
      .hostQueueTailWrite 0 64 0, .hostCancelRequest 4 0 0, .hostMailboxWrite 4 0, .thermalSample 12 0 0, .thermalSample 0 21 0,
      .thermalSample 0 0 256, .sramMonitorCrossing 0 17, .engineRecordArrival h 1, .copy h, .conv h, .convef h, .comp h, .decomp h,
      .fill h, .spfill h, .pgather h, .igather h, .allred h, .bcast h, .allgath h, .dbar h, .send h, .markcfg h, .ping 4, .retire 4,
      .keyload 4, .firmwareMessage 4 0 0, .doubleTrapReport 4, .linkKillReport 4, .portLinkFail 18, .packageUnreachable 1152,
      .dieLinkFail 0 4, .dieLinkFail 4 0, .storageBitError 0 [568], .pathAnswersAgain 1152, .fabricPortTrained 18] : List Instr).all
    (fun i => !i.wf) = true := by decide +kernel

/-! ### Decoding -/

/-- Whether bytes decode to an instruction of `n` bytes. -/
noncomputable def reads (bytes : List Byte) (i : Instr) (n : Nat) : Bool :=
  match decode bytes with
  | .ok (j, m) => decide (j = i) && m == n
  | .error _ => false

theorem decode_of_reads {bytes : List Byte} {i : Instr} {n : Nat} (h : reads bytes i n = true) : decode bytes = .ok (i, n) := by
  unfold reads at h
  split at h
  · rename_i e
    simp only [Bool.and_eq_true, decide_eq_true_eq, beq_iff_eq] at h
    rw [e, h.1, h.2]
  · cases h

/-- Words printed beside R82 to R84. -/
theorem test_decode_scalar_arithmetic :
    ([(0x001CC505, .add 5 6 7), (0xB000C505, .clz 5 6), (0xFFF4C509, .addi 5 6 (-3)), (0x3FFF180D, .andi 24 24 0xFFF),
      (0x801CC519, .srai 5 6 7), (0x00024721, .lui 7 0x12), (0x00000325, .addpc 3 0)] : List (Nat × Instr)).all
    (fun p => reads (leBytes 4 p.1) p.2 4) = true := by decide +kernel

/-- Words printed beside R85, R86. -/
theorem test_decode_branches_and_jumps :
    ([(0xFFE8052D, .bne 5 0 (-6)), (0x00028141, .jal 1 20), (0x00002045, .jalr 0 1 0)] : List (Nat × Instr)).all
    (fun p => reads (leBytes 4 p.1) p.2 4) = true := by decide +kernel

/-- Words printed beside R87, R90, R92, R93. -/
theorem test_decode_scalar_memory :
    ([(0x020CA849, .ld 8 5 16), (0xFF0C494D, .sd 9 2 (-8)), (0x499CC551, .amoadd 5 6 7 3 1),
      (0xB21CC555, .amowmax 5 6 7 4 2), (0x0180C559, .lda 5 6 3), (0x129CC059, .stl 6 7 5), (0x0900005D, .fenceSV 2),
      (0x2800005D, .fenceI)] : List (Nat × Instr)).all
    (fun p => reads (leBytes 4 p.1) p.2 4) = true := by decide +kernel

/-- Words printed beside R94, R95. -/
theorem test_decode_scalar_float :
    ([(0x101CC565, .fmul 5 6 7), (0x28735A65, .fmax 26 26 28), (0x3800C565, .fcvtFI 5 6)] : List (Nat × Instr)).all
    (fun p => reads (leBytes 4 p.1) p.2 4) = true := by decide +kernel

/-- Words printed beside R97 to R103, R109. -/
theorem test_decode_system :
    ([(0x08000561, .getsr 5 0x010), (0x0804C061, .putsr 6 0x010), (0x2010C061, .clrsrb 0 6 0x040),
      (0x0F94A061, .trap 5 31), (0x00180061, .tret), (0x001C0561, .wfe 5), (0x00200061, .endHart),
      (0x00A4A061, .yieldpt 5 1), (0x00280061, .halt), (0x03AC0061, .brkpt 7)] : List (Nat × Instr)).all
    (fun p => reads (leBytes 4 p.1) p.2 4) = true := by decide +kernel

/-- Words printed beside R110, R111. -/
theorem test_decode_vector_configuration :
    ([(0x00088569, .setvl 5 4 2), (0x22A48569, .setvl 5 4 0x8A9), (0x001CC56D, .setvlr 5 6 7),
      (0x0800C56D, .setrc 5 6), (0x111CC06D, .setdim 6 7 2)] : List (Nat × Instr)).all
    (fun p => reads (leBytes 4 p.1) p.2 4) = true := by decide +kernel

/-- Words printed beside R124. -/
theorem test_decode_vector_integers :
    ([(0x30088671, .vdivVV 6 4 2 0 0), (0x0418A475, .vaddVS 4 5 6 0 1), (0xC0184875, .vmaccVS 8 2 6 0 0),
      (0x00F8A479, .vaddVI 4 5 (-2) 1 0), (0x880CA479, .vsllVI 4 5 3 0 0)] : List (Nat × Instr)).all
    (fun p => reads (leBytes 4 p.1) p.2 4) = true := by decide +kernel

/-- Words printed beside R125. -/
theorem test_decode_vector_floats :
    ([(0x0198A47D, .vfaddVV 4 5 6 3 0), (0x308C487D, .vfmaVV 8 2 3 1 0), (0x0968C881, .vfsubVS 8 6 26 2 0),
      (0x59012A7D, .vfrnd 10 9 2 0), (0x6135D07D, .vfscaleVV 16 14 13 2 0)] : List (Nat × Instr)).all
    (fun p => reads (leBytes 4 p.1) p.2 4) = true := by decide +kernel

/-- Words printed beside R126, R127. -/
theorem test_decode_vector_compares_and_masks :
    ([(0x380C4185, .vfcltVV 1 2 3 0), (0x04188285, .vceqVS 2 4 6 0), (0x38010189, .kmov 1 8), (0x601CC289, .klt 2 6 7),
      (0x68250389, .kblk 3 8 9), (0x40004589, .kpop 5 2), (0x180C4289, .kandn 2 2 3)] : List (Nat × Instr)).all
    (fun p => reads (leBytes 4 p.1) p.2 4) = true := by decide +kernel

/-- Words printed beside R128 to R132. -/
theorem test_decode_vector_reductions_and_rows :
    ([(0x3900888D, .vfredsum 8 4 2 0), (0x0000458D, .vredsum 5 2 0 0), (0x0800C491, .vsplat 4 6 0 0),
      (0x381C4691, .venc 6 2 7), (0x50214491, .vins 4 10 8 0), (0x58A04695, .vcvt 6 2 11 8 1 0),
      (0x00004099, .vtabld 2)] : List (Nat × Instr)).all
    (fun p => reads (leBytes 4 p.1) p.2 4) = true := by decide +kernel

/-- Words printed beside R136 to R153. -/
theorem test_decode_vector_memory :
    ([(0x2D1CC29D, .vlds 2 6 7 1 2 1), (0x400CC29D, .vldx 2 6 3 0 0 0), (0x1000C2A1, .vst 2 6 2 0 0),
      (0x0194C4A5, .vgacq 4 6 5 3), (0x0A94C4A5, .vsrel 4 6 5 5)] : List (Nat × Instr)).all
    (fun p => reads (leBytes 4 p.1) p.2 4) = true := by decide +kernel

/-- Words printed beside R181, R187, R188, R191. -/
theorem test_decode_queues_engines_and_bindings :
    ([(0x100005A9, .lpinfo 5), (0x000020A9, .tkpost 1), (0x080020A9, .tkwait 1), (0x200005A9, .fluest 5),
      (0x0080C5AD, .epush 5 6 1), (0x191CC5AD, .epush2 5 6 7 2), (0x088008AD, .epop 8 1), (0x128009AD, .estat 9 5),
      (0x0001F2B5, .vbind 18 15), (0x080012B5, .vunbind 18)] : List (Nat × Instr)).all
    (fun p => reads (leBytes 4 p.1) p.2 4) = true := by decide +kernel

/-- Words printed beside R193 to R212. -/
theorem test_decode_matrix_mode :
    ([(0x000000B1, .menter), (0x080000B1, .mexit), (0x101CC8B1, .settile 8 6 7), (0x202110B1, .mrdf 16 8 8),
      (0x300288B1, .maccadd 8 20), (0x28248CB1, .mcmprs 12 4 9)] : List (Nat × Instr)).all
    (fun p => reads (leBytes 4 p.1) p.2 4) = true := by decide +kernel

/-- Words printed beside R222 to R228, R261, R286, R287, R316. -/
theorem test_decode_cluster_die_and_ballot :
    ([(0x0000C5B9, .splook 5 6), (0x181CC0B9, .spzero 6 7), (0x000000BD, .gbar), (0x201CC5BD, .bwait 5 6 7),
      (0x001CC5C1, .launch 5 6 7), (0x1800C5C1, .qinfo 5 6), (0x001CC5C5, .bjoin 5 6 7), (0x200005C5, .bleave 5),
      (0x001CC5C9, .probe 5 6 7), (0x081CC0C9, .tlbinv 6 7)] : List (Nat × Instr)).all
    (fun p => reads (leBytes 4 p.1) p.2 4) = true := by decide +kernel

/-- The parcels of R65 and the tile forms of R66 and R206. -/
theorem test_decode_compressed_and_tile_forms :
    (reads (leBytes 2 0xFA50) (.nInc 5 (-3)) 2 && reads (leBytes 2 0x0684) (.nLdf 8 3) 2 && reads (leBytes 2 0x1058) (.nBrz 5 8) 2 &&
    reads (leBytes 2 0x006C) (.nGo 6) 2 &&
    reads (leBytes 4 0xB0100803 ++ leBytes 4 0x00032B4B) (.mop ⟨8, 0, 4, 0, 0, 0, 11, 11, 20, 21, 0, 0, 1, 1⟩) 8 &&
    reads (leBytes 4 0xF510C80B ++ leBytes 4 0x00032B4B) (.mopl ⟨8, 6, 4, 2, 1, 0, 15, 11, 20, 21, 0, 0, 1, 1⟩) 8 &&
    reads (leBytes 4 0xB0118807 ++ leBytes 4 0x00022ADB) (.mops ⟨8, 12, 4, 0, 0, 0, 11, 11, 13, 21, 0, 0, 0, 1⟩) 8 &&
    reads (leBytes 4 0xB011880F ++ leBytes 4 0x0000000B) (.mopd ⟨8, 12, 4, 0, 0, 0, 11, 11, 0, 0, 0, 0, 0, 0⟩) 8 &&
    reads (leBytes 4 0xB0100803 ++ leBytes 4 0x0000800B) (.mop ⟨8, 0, 4, 0, 0, 0, 11, 11, 0, 0, 0, 1, 0, 0⟩) 8) = true := by
  decide +kernel

/-- Why bytes are refused. -/
noncomputable def refusedAs (bytes : List Byte) (e : DecodeError) : Bool :=
  match decode bytes with
  | .ok _ => false
  | .error x => decide (x = e)

/-- R59, R69: the zero parcel, too few bytes, a reserved major, a reserved function, a must-be-zero bit, a reserved field. -/
theorem test_decode_refuses : (refusedAs [0, 0] .zeroParcel && refusedAs [0x05, 0xC5, 0x1C] .short &&
    refusedAs (leBytes 4 0x001CC501) .reservedMajor && refusedAs (leBytes 4 0xF81CC505) .reservedFunction &&
    refusedAs (leBytes 4 0x009CC505) .mustBeZero && refusedAs (leBytes 4 0x0580C559) .reservedField) = true := by decide +kernel

/-- The same words read as the table numbers their bits. -/
theorem test_decode_table_words : decodeTableWord 32 0x001CC505 = some (.add 5 6 7) ∧ decodeTableWord 16 0xFA50 = some (.nInc 5 (-3)) ∧
    decodeTableWord 16 0 = none := by decide +kernel
/-! ### Small states -/

/-- A state made from reset: register values, then changes of the current hart. -/
def made (rs : List (Reg × Word)) (f : Hart → Hart := id) : State :=
  let s := rs.foldl (fun s p => s.wr p.1 p.2) State.reset
  { s with h := f s.h }

/-- The place of a launched hart. -/
def place : HartKey := ⟨false, 0, 0, 0, 0⟩

/-- An unprivileged launched hart there. -/
def launched (h : Hart) : Hart := { h with key := place, uid := 9, gang := some 1, priv := false }

/-- Its gang, alone in its launch. -/
def oneGang : Gang :=
  ⟨1, 1, 0, 0, 0, 0, true, 0, 0, 0, 0, 0, false, none, false, false, false, none, none, false, false⟩

/-- Its launch. -/
def oneLaunch : Launch :=
  ⟨1, 0, 0, ⟨0, 1, 0, 0, 0x2000, 0, 0, 0, 0⟩, 0, 0, 0, 0, 1, true, [], 0, 0, false, none, 0, false⟩

/-- A launched hart with registers, its gang and its launch. -/
def user (rs : List (Reg × Word)) (f : Hart → Hart := id) : State :=
  { made rs (fun h => f (launched h)) with gangs := [oneGang], launches := [oneLaunch] }

/-- Whether a computation gives a value. -/
def gives {α : Type} [DecidableEq α] (r : Except Stop α × State) (x : α) : Bool :=
  match r.1 with
  | .ok y => decide (y = x)
  | .error _ => false

theorem ok_of_gives {α : Type} [DecidableEq α] {r : Except Stop α × State} {x : α} (h : gives r x = true) : r = (.ok x, r.2) := by
  obtain ⟨a, t⟩ := r
  cases a with
  | ok y => simp only [gives, decide_eq_true_eq] at h; rw [h]
  | error e => cases h

/-- Whether a step ends in a next state. -/
def goesOn (o : Host.Outcome State Fault Refusal) : Bool :=
  match o with
  | .next _ => true
  | _ => false

theorem next_of_goesOn {o : Host.Outcome State Fault Refusal} (h : goesOn o = true) : ∃ t, o = .next t := by
  cases o with
  | next t => exact ⟨t, rfl⟩
  | fault f => cases h
  | refused r => cases h

/-- The state after a translation. -/
def after (s : State) (va : Word) (kind : Kind) (lg : Nat) : State := ((translate s.h.ctx va kind lg).on s).2

/-- The checks of `State.Lands`. -/
def landsAt (s : State) (va : Word) (kind : Kind) (lg : Nat) (x : Xlat) : Bool :=
  let t := after s va kind lg
  decide (va.toNat % 2 ^ lg = 0) && gives ((translate s.h.ctx va kind lg).on s) x && t.reachable s.h.key.die x.key && !x.mir

theorem lands_of {s : State} {va : Word} {kind : Kind} {lg : Nat} {x : Xlat} (h : landsAt s va kind lg x = true) :
    s.Lands va kind lg x (after s va kind lg) := by
  simp only [landsAt, Bool.and_eq_true, decide_eq_true_eq, Bool.not_eq_true'] at h
  obtain ⟨⟨⟨ha, hg⟩, hr⟩, hm⟩ := h
  exact ⟨ha, ok_of_gives hg, hr, fun hx => absurd hx (by rw [hm]; decide)⟩

/-! ### Witnesses: encoding and the machine -/

theorem witness_EncodedInstructionsDecodeBack :
    ([.add 31 31 31, .addi 0 0 0x3FFF, .nInc 0 1, .nGo 0xFFF, .mop ⟨31, 30, 30, 7, 1, 1, 15, 15, 31, 31, 1, 1, 1, 1⟩] : List Instr).all
      (fun i => i.wf && i.encoded) = true := by decide +kernel

theorem witness_DecodedBytesAreTheEncoding : decode (leBytes 4 0x001CC505 ++ [0xFF]) = .ok (.add 5 6 7, 4) ∧
    decode (leBytes 2 0xFA50) = .ok (.nInc 5 (-3), 2) :=
  ⟨decode_of_reads (by decide +kernel), decode_of_reads (by decide +kernel)⟩

/-- The module after reset with one instruction at the program counter. -/
def fetching : State := State.reset.withFetchWord 32 0x001CC505

/-- The same with a commit window in front of it. -/
def runAhead (w : List Ahead) : State := { fetching with h := { fetching.h with front := some ⟨fetching.h.resolved, w, false⟩ } }

/-- An `add` in the window, foreseen to leave the program counter `n` bytes on. -/
def foreseen (n : Word) (held : Bool) : Ahead := ⟨fetching.h.pc, { fetching.h.resolved with pc := fetching.h.pc + n }, 0, held⟩

/-- Whether a state is at an `add` that is to run, and what the hart has resolved after it. -/
noncomputable def addsNext (s : State) : Option Resolved :=
  if s.shut || !s.agenda.isEmpty || !s.h.late.isEmpty || s.boundary.isSome || !gives (fetchBytes.on s) (leBytes 4 0x001CC505) then none
  else match exec (.add 5 6 7) (fetchBytes.on s).2 with
    | .next u => if u.h.front = s.h.front then some u.h.resolved else none
    | _ => none

theorem adds_of {s : State} {r : Resolved} (h : addsNext s = some r) :
    s.shut = false ∧ s.agenda = [] ∧ s.h.late = [] ∧ s.boundary = none ∧ fetchBytes.on s = (.ok (leBytes 4 0x001CC505), (fetchBytes.on s).2) ∧
    ∃ u, exec (.add 5 6 7) (fetchBytes.on s).2 = .next u ∧ u.h.front = s.h.front ∧ u.h.resolved = r := by
  unfold addsNext at h
  split at h
  · cases h
  · rename_i hc
    simp only [Bool.or_eq_true, Bool.not_eq_true', not_or, Bool.not_eq_true, Bool.not_eq_false, List.isEmpty_iff,
      Option.isSome_eq_false_iff, Option.isNone_iff_eq_none] at hc
    obtain ⟨⟨⟨⟨h1, h2⟩, h3⟩, h4⟩, h5⟩ := hc
    refine ⟨h1, h2, h3, h4, ok_of_gives h5, ?_⟩
    split at h
    · rename_i u e
      split at h
      · rename_i f; exact ⟨u, e, f, Option.some.inj h⟩
      · cases h
    · cases h

/-- With nothing run ahead, with a window that foresaw the `add`, with one that foresaw another end, and with none; and, for the clause
on an instruction carried out ahead, a window that holds it so. -/
theorem witness_StepRunsTheDecodedInstruction :
    (∀ s ∈ [fetching, runAhead [foreseen 4 true], runAhead [foreseen 8 true], runAhead []],
      addsNext s = some (foreseen 4 true).after) ∧
    decode (leBytes 4 0x001CC505) = .ok (.add 5 6 7, 4) ∧
    (let s := runAhead [foreseen 4 false]
     s.shut = false ∧ s.agenda = [] ∧ s.h.late = [] ∧ s.boundary = none ∧ (foreseen 4 false).pc = s.h.pc ∧ (foreseen 4 false).held = false) :=
  ⟨by decide +kernel, decode_of_reads (by decide +kernel), ⟨rfl, rfl, rfl, Option.isNone_iff_eq_none.mp (by decide +kernel), rfl, rfl⟩⟩

theorem witness_StepsKeepMemoryCanonical : fetching.WellKept ∧ ∃ t, step fetching = .next t :=
  ⟨by unfold State.WellKept; decide +kernel, next_of_goesOn (by decide +kernel)⟩

/-! ### Witnesses: scalar instructions -/

theorem witness_RegisterZero : (1 : Reg) ≠ 0 ∧ (0 : Reg) ≠ 1 := by decide +kernel

theorem witness_RegisterOperations : (made [(6, -1), (7, 1)]).rd 7 ≠ 0 := by decide +kernel

theorem witness_DivisionByZero :
    (let s := made [(6, -1)]; s.rd 7 = 0 ∧ field s.h.vcfg 9 1 = 0) ∧
    (let s := made [(6, -1)] fun h => { h with vcfg := 0x202 }; s.rd 7 = 0 ∧ field s.h.vcfg 9 1 = 1) ∧
    (let s := made [(6, BitVec.intMin 64), (7, -1)]; s.rd 6 = BitVec.intMin 64 ∧ s.rd 7 = -1) := by decide +kernel

theorem witness_BranchesAndJumps :
    let s := made [(5, -1), (6, 1), (7, 1)]
    s.rd 6 = s.rd 7 ∧ s.rd 5 ≠ s.rd 6 ∧ (s.rd 5).toInt < (s.rd 6).toInt ∧ ¬ (s.rd 6).toInt < (s.rd 7).toInt ∧
    (s.rd 6).toInt ≥ (s.rd 7).toInt ∧ ¬ (s.rd 5).toInt ≥ (s.rd 6).toInt ∧ (s.rd 6).toNat < (s.rd 5).toNat ∧
    ¬ (s.rd 5).toNat < (s.rd 6).toNat ∧ (s.rd 6).toNat ≥ (s.rd 7).toNat ∧ ¬ (s.rd 6).toNat ≥ (s.rd 5).toNat := by decide +kernel

/-- A die manager core that holds addresses in its registers. -/
def addressing : State := made [(2, 0x1000), (5, 0x1040), (6, -1)]

/-- One whose line at 0x1000 was poisoned by an uncorrectable store. -/
def poisoned : State := { addressing with mem := ⟨[], [(0x40, ⟨0, [], true, 0⟩)]⟩ }

theorem witness_ScalarLoads :
    (addressing.Lands (addressing.ea 5 (-1)) .load 0 ⟨0x103F, 0, false, false, false⟩ (after addressing (addressing.ea 5 (-1)) .load 0) ∧
      ((after addressing (addressing.ea 5 (-1)) .load 0).readAt 0x103F 1).2.1 < 2) ∧
    (addressing.Lands (addressing.rd 5) .load 3 ⟨0x1040, 0, false, false, false⟩ (after addressing (addressing.rd 5) .load 3) ∧
      ((after addressing (addressing.rd 5) .load 3).readAt 0x1040 8).2.1 < 2) ∧
    (let t := after poisoned 0x1000 .load 3
     let u := (t.readAt 0x1000 8).2.2
     scalarAccess (.nLdf 8 0) poisoned = some (0x1000, .load, 3) ∧ poisoned.Lands 0x1000 .load 3 ⟨0x1000, 0, false, false, false⟩ t ∧
      u.reachable poisoned.h.key.die 0x1000 = true ∧ (t.readAt 0x1000 8).2.1 = 2 ∧ (u.readAt 0x1000 8).2.1 = 2) := by
  refine ⟨⟨lands_of (by decide +kernel), ?_⟩, ⟨lands_of (by decide +kernel), ?_⟩, ⟨?_, lands_of (by decide +kernel), ?_, ?_,
    ?_⟩⟩ <;> decide +kernel

theorem witness_Stores : addressing.h.lost = [] ∧
    addressing.Lands (addressing.ea 5 (-1)) .store 0 ⟨0x103F, 0, false, false, false⟩ (after addressing (addressing.ea 5 (-1)) .store 0) ∧
    addressing.Lands (addressing.rd 2 + BitVec.ofNat 64 (8 * 127)) .store 3 ⟨0x13F8, 0, false, false, false⟩
      (after addressing (addressing.rd 2 + BitVec.ofNat 64 (8 * 127)) .store 3) :=
  ⟨by decide +kernel, lands_of (by decide +kernel), lands_of (by decide +kernel)⟩

theorem witness_Atomics :
    let t := after addressing 0x1040 .atomic 3
    (addressing.h.lost = [] ∨ (2 : BitVec 2).getLsbD 1 = false) ∧
    addressing.Lands (addressing.rd 5) .atomic 3 ⟨0x1040, 0, false, false, false⟩ t ∧ (t.readAt 0x1040 8).2.1 < 2 ∧
    (t.readAt 0x1040 8).2.2.reachable addressing.h.key.die 0x1040 = true := by
  refine ⟨?_, lands_of (by decide +kernel), ?_, ?_⟩ <;> decide +kernel

theorem witness_AccessChecks :
    (addressing.h.lost = [] ∧ releases (.stl 5 6 9) = true ∧ releases (.amowcas 5 6 7 10 1) = false) ∧
    (scalarAccess (.ld 8 5 1) addressing = some (0x1041, .load, 3) ∧ (0x1041 : Word).toNat % 2 ^ 3 ≠ 0) ∧
    (let s := made [(5, 0x0100000000000000)]
     scalarAccess (.sd 8 5 0) s = some (0x0100000000000000, .store, 3) ∧ (0x0100000000000000 : Word).toNat % 2 ^ 3 = 0 ∧
      (0x0100000000000000 : Word).toNat / 2 ^ 24 ≠ 0xFE00000000 ∧ (0x0100000000000000 : Word).toNat / 2 ^ 56 ≠ 0 ∧
      (0x0100000000000000 : Word).toNat / 2 ^ 56 ≠ 0xFF) ∧
    (let s := made [(5, 0xFE00000000C00000)]
     scalarAccess (.lda 8 5 3) s = some (0xFE00000000C00000, .load, 3) ∧ (0xFE00000000C00000 : Word).toNat / 2 ^ 24 = 0xFE00000000 ∧
      48 ≤ (0xFE00000000C00000 : Word).toNat / 2 ^ 18 % 2 ^ 6) := by decide +kernel

/-- A launched hart whose partition is the first 512 bytes of core 0's scratchpad. -/
def partitioned : State := user [] fun h => { h with sppart := 0x0001000000000001 }

theorem witness_UntranslatedAddresses :
    (partitioned.h.key.dm = false ∧ (0xFE000000000000FF : Word).toNat / 2 ^ 24 = 0xFE00000000 ∧
      (0xFE000000000000FF : Word).toNat / 2 ^ 18 % 2 ^ 6 < 48 ∧
      (partitioned.h.priv || inPartition partitioned.h.sppart 0 0xFF) = true ∧
      (partitioned.h.priv || inPartition partitioned.h.sppart 47 0) = false) ∧
    (State.reset.h.key.dm = true ∧ field State.reset.h.ptroot 12 30 = 0 ∧ (0x3FFFFFFFFFF : Nat) < 2 ^ 42 ∧ inNone 0x1000 = false ∧
      (∃ a < 2 ^ 42, inNone a = true) ∧ 2 ^ 42 ≤ (0x40000000000 : Word).toNat ∧ (0x40000000000 : Word).toNat < 2 ^ 56) := by
  refine ⟨?_, ?_, ?_, ?_, ?_, ⟨0x0F000000000, ?_⟩, ?_⟩ <;> decide +kernel

/-- A translation held, with attributes as bits. -/
def entry (attrs : Nat) : TlbEntry := ⟨0, 0x1000, 12, 5, attrs, 0, none, 0x3000, 1⟩

/-- A launched hart whose page table's root stands at 0x10000; its entries for address 0x3000, level 4 first, stand at 0x10000 to
0x13000, and the leaf entry in the line at 0x14000. -/
def walkTables (es : List Nat) (leaf : Nat) : State :=
  let m := ((List.range 4).zip es).foldl (fun m p => m.store (0x10000 + 0x1000 * p.1) (toBytes 8 p.2)) State.reset.mem
  { user [] (fun h => { h with ptroot := 0x10000 }) with mem := m.store 0x14015 (toBytes 7 leaf) }

/-- The entry that level `n` gives for address 0x3000, and the table below the top by `n` levels. -/
def entryAt (s : State) (t : Nat) : Nat := ofBytes (s.mem.bytes (s.pkg * 2 ^ 42 + t) 8)
def tableAt (s : State) : Nat → Nat
  | 0 => field s.h.ptroot 12 30 * 4096
  | n + 1 => entryAt s (tableAt s n) / 2 ^ 16 % 2 ^ 30 * 4096

/-- What a walk of 0x3000 asks of a state, of a line of a table, and of the pointer in a table. -/
def walkable (s : State) : Bool := s.mem.wf && decide (s.pkg < 1152) && canonical 0x3000 && (!s.h.ctx.dm || field s.h.ctx.ptroot 12 30 != 0) &&
  (s.held s.h.ctx 0x3000).isNone
def tableLine (s : State) (l : Nat) : Bool :=
  let k := s.pkg * 2 ^ 42 + l
  inMemory l && (s.mem.line (k / 64)).flips.isEmpty && !(s.mem.line (k / 64)).marked && s.reachable s.h.ctx.die k
def pointerAt (s : State) (t : Nat) : Bool :=
  let e := entryAt s t
  tableLine s t && e % 2 == 1 && e / 2 ^ 46 % 2 ^ 6 == 0 && e / 2 ^ 14 % 4 == 0 && e / 2 ^ 52 == 0xFFF && e / 2 % 2 ^ 13 == 0 &&
    inMemory (e / 2 ^ 16 % 2 ^ 30 * 4096)

/-- A pointer to the table at a frame of this package. -/
def pointsTo (frame : Nat) : Nat := 1 + frame * 2 ^ 16 + 0xFFF * 2 ^ 52

/-- Tables whose pointers are all well-formed, with a leaf entry of its low bits and frame. -/
def leafed (bits frame : Nat) : State := walkTables [pointsTo 0x11, pointsTo 0x12, pointsTo 0x13, pointsTo 0x14] (bits + frame * 2 ^ 16)

/-- Leaf entries: absent, malformed, a page with every right, one of 64 KiB, a reserved layout, no right. -/
theorem witness_PageWalk_leaf :
    ([(0, 0), (0x401F, 5), (0x1F, 5), (0x9F, 0x20), (0xC1F, 5), (0x21, 5)].all fun p =>
      let s := leafed p.1 p.2
      walkable s && (List.range 4).all (fun n => pointerAt s (tableAt s n)) && tableLine s (tableAt s 4)) = true ∧
    (let f (bits frame : Nat) : Nat := ofBytes ((leafed bits frame).mem.bytes 0x14015 7)
     f 0 0 % 2 = 0 ∧ f 0x401F 5 / 2 ^ 14 % 4 ≠ 0 ∧ (f 0x1F 5 % 2 = 1 ∧ f 0x1F 5 / 2 ^ 14 % 4 = 0 ∧ f 0x1F 5 / 2 ^ 46 = 0 ∧
      f 0x1F 5 / 2 ^ 8 % 16 < 12 ∧ inNone (f 0x1F 5 / 2 ^ 16 * 4096) = false) ∧
     (f 0x9F 0x20 / 2 ^ 7 % 2 = 1 ∧ f 0x9F 0x20 / 2 ^ 16 % 16 = 0) ∧ 12 ≤ f 0xC1F 5 / 2 ^ 8 % 16 ∧ f 0x21 5 / 2 % 2 = 0) := by decide +kernel

/-- Upper entries: absent at level 3, malformed at level 4, a block at level 2. -/
theorem witness_PageWalk_upper :
    (let s := walkTables [pointsTo 0x11, 0] 0
     (walkable s && pointerAt s (tableAt s 0) && tableLine s (tableAt s 1)) = true ∧ entryAt s (tableAt s 1) % 2 = 0) ∧
    (let s := walkTables [pointsTo 0x11 + 2] 0
     (walkable s && tableLine s (tableAt s 0)) = true ∧ entryAt s (tableAt s 0) % 2 = 1 ∧ entryAt s (tableAt s 0) / 2 % 2 ^ 13 ≠ 0) ∧
    (let s := walkTables [pointsTo 0x11, pointsTo 0x12, pointsTo 0x40000 + 0x9E] 0
     let e := entryAt s (tableAt s 2)
     (walkable s && (List.range 2).all (fun n => pointerAt s (tableAt s n)) && tableLine s (tableAt s 2)) = true ∧
      e % 2 = 1 ∧ e / 2 ^ 7 % 2 = 1 ∧ e / 2 ^ 16 % 2 ^ 30 % 2 ^ 18 = 0 ∧ e / 2 ^ 46 % 2 ^ 6 = 0 ∧ e / 2 ^ 14 % 4 = 0 ∧
        inNone (e / 2 ^ 16 % 2 ^ 30 * 4096) = false) := by decide +kernel

theorem witness_PagePermissions :
    let bit (a i : Nat) : Prop := (entry a).attrs / 2 ^ i % 2 = 1
    (bit 0x03 1 ∧ (entry 0x03).attrs / 2 ^ 8 % 16 < 12 ∧ State.reset.h.ctx.priv = true) ∧
    (¬ bit 0x03 2 ∧ ¬ bit 0x03 4) ∧ (bit 0xC1E 1 ∧ bit 0xC1E 2 ∧ bit 0xC1E 3 ∧ bit 0xC1E 4 ∧ 12 ≤ (entry 0xC1E).attrs / 2 ^ 8 % 16) := by
  decide +kernel

theorem witness_IntactLines : addressing.WellKept ∧ addressing.mem.intact (0x103F / 64) ∧ 0x103F % 64 + 1 ≤ 64 ∧
    0x1000 % 64 + (List.replicate 64 (7 : Byte)).length ≤ 64 := by
  unfold State.WellKept Mem.intact; decide +kernel

/-! ### Witnesses: fences, system registers, traps, harts -/

/-- A gang whose members are asked to stop. -/
def askedGang : Gang := { oneGang with preempt := true, felled := true }

/-- A store to a package, whose acknowledgement is lost. -/
def unacked (vector : Bool) (pkg : Nat) : Unacked := ⟨vector, 0x1000, pkg⟩

theorem witness_FencesAndPassedYields :
    (∀ l ∈ [[], [unacked true 64], [unacked false 1]], ∀ u ∈ l, u.vector = false ∨ u.pkg / 64 ≠ (user []).pkg / 64) ∧
    (let s := user [] fun h => { h with lost := [unacked false 64, unacked true 1, unacked false 1] }
     s.h.lost = [unacked false 64] ++ unacked true 1 :: [unacked false 1] ∧ 1 / 64 = s.pkg / 64 ∧ 64 / 64 ≠ s.pkg / 64) ∧
    (user []).h.yld = false ∧
    (let s : State := { user [] (fun h => { h with yld := true }) with gangs := [oneGang, { askedGang with id := 2 }] }
     s.h.yld = true ∧ ∀ g ∈ s.gangs, s.h.gang = some g.id → g.felled = false ∧ g.preempt = false) ∧
    (let s : State := { user [] with gangs := [askedGang] }
     s.h.yld = false) := by decide +kernel

theorem witness_SystemRegisterAccess :
    let u := user [(6, 0x1F)]
    let m := made [(6, -1)]
    ((0x041 : BitVec 9).toNat < 0x100 ∧ assigned u.h.key.dm 0x041 = true ∧ (u.srWrite 0x041 (u.rd 6)).isSome = true) ∧
    (m.h.priv = true ∧ assigned m.h.key.dm 0x138 = true ∧ m.srWrite 0x138 (m.rd 6) = none ∧
      m.srWrite 0x138 (m.srValue m.h 0x138 ||| m.rd 6) = none) ∧
    (u.h.priv = false ∧ 0x100 ≤ (0x100 : BitVec 9).toNat ∧ 0x100 ≤ (0x1FF : BitVec 9).toNat) ∧
    (assigned u.h.key.dm 0x0FF = false ∧ assigned m.h.key.dm 0x1FF = false) := by
  refine ⟨?_, ⟨?_, ?_, Option.isNone_iff_eq_none.mp (by decide +kernel), Option.isNone_iff_eq_none.mp (by decide +kernel)⟩, ?_,
    ?_⟩ <;> decide +kernel

theorem witness_SystemRegisterWrites : (user []).h.priv = false ∧ State.reset.h.priv = true := by decide +kernel

theorem witness_RequestedTraps : State.reset.h.ih = false := by decide +kernel

theorem witness_TrapEntry : State.reset.h.ih = false ∧
    (let s := user [] fun h => { h with ih := true }
     s.h.ih = true ∧ s.h.gang = some 1 ∧ s.h.run = .running ∧ (∃ x ∈ s.gangs, x.id = 1) ∧ s.h.key.die < 4 ∧
      (∀ y ∈ s.gangs, y.id = 1 → y = oneGang) ∧ oneGang.leave = none ∧ oneGang.anyFelled = false ∧ oneLaunch ∈ s.launches ∧
      oneLaunch.id = oneGang.launch) := by decide +kernel

theorem witness_TrapReturn : State.reset.h.priv = true ∧ (user []).h.priv = false := by decide +kernel

theorem witness_EventsAndWaiting :
    (let s : State := { user [] (fun h => { h with event := 0x10, evmask := 0x10, gang := none }) with gangs := [], launches := [] }
     s.shut = false ∧ s.agenda = [] ∧ s.h.run = .running ∧ s.h.viq = [] ∧ s.h.late = [] ∧ s.h.wait = .none ∧ s.gangs = [] ∧ s.h.priv = false ∧
      s.h.front = none ∧ s.h.event &&& s.h.evmask ≠ 0) ∧
    (let s := user [] fun h => { h with event := 0x10, evmask := 0x10 }
     s.shut = false ∧ s.agenda = [] ∧ s.h.run = .running ∧ s.h.viq = [] ∧ s.h.front = none ∧ s.h.late = [] ∧ s.h.wait = .none ∧ s.h.priv = false ∧
      (∃ g ∈ s.gangs, s.h.gang = some g.id) ∧ s.h.event &&& s.h.evmask ≠ 0 ∧
      ∀ g ∈ s.gangs, s.h.gang = some g.id → g.leave ≠ some .cancelled ∧ g.felled = false ∧ g.preempt = false) ∧
    (let s := made [] fun h => { h with event := 0x1F, evmask := 0x1F }
     s.shut = false ∧ s.agenda = [] ∧ s.h.run = .running ∧ s.h.viq = [] ∧ s.h.late = [] ∧ s.h.wait = .none ∧ s.gangs = [] ∧ s.h.priv = true ∧
      s.h.event ≠ 0) ∧
    State.reset.h.event = 0 ∧
    (let s := made [] fun h => { h with event := 1, wait := .wfe 5 }
     s.h.event ≠ 0 ∧ s.h.wait = .wfe 5 ∧ s.shut = false ∧ s.agenda = [] ∧ s.h.run = .running ∧ s.h.viq = [] ∧ s.h.late = [] ∧ s.gangs = []) := by
  decide +kernel

theorem witness_HartsEndAndHalt :
    (State.reset.h.priv = true ∧ State.reset.h.run = .running ∧ State.reset.h.gang = none) ∧
    (let s := user []
     s.h.priv = false ∧ s.h.run = .running ∧ s.h.lost = [] ∧ (oneGang ∈ s.gangs ∧ s.h.gang = some oneGang.id ∧
      (∀ y ∈ s.gangs, y.id = oneGang.id → y = oneGang) ∧ oneLaunch ∈ s.launches ∧ oneLaunch.id = oneGang.launch)) ∧
    (let s := user [] fun h => { h with lost := [unacked true 1, unacked false 1] }
     s.h.priv = false ∧ s.h.lost = unacked true 1 :: [unacked false 1]) ∧
    (let s := user [] fun h => { h with priv := true }
     s.h.priv = true ∧ s.h.run = .running ∧ oneGang ∈ s.gangs ∧ s.h.gang = some oneGang.id ∧ (∀ y ∈ s.gangs, y.id = oneGang.id → y = oneGang) ∧
      oneGang.leave = none ∧ oneGang.anyFelled = false ∧ oneLaunch ∈ s.launches ∧ oneLaunch.id = oneGang.launch) := by decide +kernel

/-! ### Witnesses: floating point and vector configuration -/

theorem witness_RoundingIsCorrect :
    (fmtF32.val 0 0x3F800000 = some 1 ∧ fmtF32.val 1 0x80000001 = some 0 ∧ fmtF16.val 2 0xBC00 = some (-1)) ∧
    (∀ p ∈ [fmtF32, fmtBF16, fmtF16, fmtE4M3, fmtE5M2, fmtE2M1], ((p.roundFin .rne 0 false 3 (-1)).2).getLsbD 2 = false) ∧
    ((fmtF16.roundFin .rup 0 true 1 (-30)).2).getLsbD 2 = false ∧
    -- a subnormal result that is exact, one that is not, and both flushed; an overflow
    ([(2, 0), (3, 0), (2, 1), (3, 2)].map fun p => fmtF16.roundFin .rne p.2 false p.1 (-25)) = [(1, 0), (2, 24), (0, 24), (0, 24)] ∧
    ((fmtF16.roundFin .rdn 0 false 1 16).2).getLsbD 2 = true := by decide +kernel

theorem witness_ScalarFloat :
    let s := made [(5, 0x7F800001), (6, 0x3F800000)] fun h => { h with xlist := 0x2000, xlimit := 1 }
    let full := made [(5, 0x7F800001)]
    ((fmtF32.readIn s.h.rctx.fz ((s.rd 6).toNat % 2 ^ 32)).isNan = false) ∧
    ((fmtF32.readIn full.h.rctx.fz ((full.rd 5).toNat % 2 ^ 32)).isNan = true ∧ full.h.xlimit.toNat ≤ full.h.xcount.toNat) ∧
    ((fmtF32.readIn s.h.rctx.fz ((s.rd 5).toNat % 2 ^ 32)).isNan = true ∧ s.h.xcount.toNat < s.h.xlimit.toNat ∧
      s.Lands s.h.xlAddr .store 4 ⟨0x2000, 0, false, false, false⟩ (after s s.h.xlAddr .store 4)) := by
  refine ⟨?_, ?_, ?_, ?_, lands_of (by decide +kernel)⟩ <;> decide +kernel

/-- One lane group, the hart's. -/
def oneGroup : List (CoreKey × CoreSt) := [(coreOf place, { CoreSt.reset with lprCur := 8, lprNext := 8 })]

theorem witness_VectorLength :
    let s : State := { user [(5, 64), (6, 65), (7, 192), (8, 1), (9, 32), (10, 33), (11, 0xFFFF), (12, 0x10000)] with cores := oneGroup }
    let vmax := 256 * (s.groups s.h.key).length * 2 ^ 0 / 2 ^ 2
    let good (w : Word) : Prop := w.toNat / 2 ^ 12 = 0 ∧ w.toNat % 8 < 4 ∧ w.toNat / 2 ^ 5 % 4 ≠ 3
    ((s.rd 5).toNat ≤ vmax ∧ (vmax < (s.rd 6).toNat ∧ (s.rd 6).toNat < 3 * vmax) ∧ 3 * vmax ≤ (s.rd 7).toNat) ∧
    (good 0xF9B ∧ good 0xF43 ∧ ¬ good 0x1000 ∧ ¬ good 4 ∧ ¬ good 0x60) ∧
    (1 ≤ (s.rd 8).toNat ∧ (s.rd 8).toNat ≤ 32 ∧ 1 ≤ (s.rd 9).toNat ∧ (s.rd 9).toNat ≤ 32 ∧ (s.rd 0).toNat = 0 ∧ 32 < (s.rd 10).toNat) ∧
    ((s.rd 11).toNat < 2 ^ 16 ∧ (2 : BitVec 2).toNat < 3 ∧ 2 ^ 16 ≤ (s.rd 12).toNat) := by decide +kernel

/-! ### Vector states -/

theorem vreg_beyond (h : Hart) (n : Nat) (hn : ¬ n < 32) : h.vreg n = VReg.reset := by
  simp only [Hart.vreg]
  rw [Vector.getElem?_eq_none (by omega)]
  rfl

/-- The checks of `State.Ready`. -/
def readyAt (s : State) : Bool :=
  s.h.viq.isEmpty && !s.h.ahead && s.h.pend.isEmpty && !(s.core (coreOf s.h.key)).shut && s.h.binds.isEmpty && s.h.upset.isEmpty && (s.h.vsi == 0 && s.h.vsr == 0 && s.h.vsp == 0) &&
    (List.range 32).all (fun n => (s.h.vreg n).poison.isEmpty) && (s.h.key.dm || (!(s.flue (flueOf (coreOf s.h.key))).damped && s.lanesClocked (coreOf s.h.key)))

theorem ready_of {s : State} (h : readyAt s = true) : s.Ready := by
  simp only [readyAt, Bool.and_eq_true, Bool.or_eq_true, Bool.not_eq_true', beq_iff_eq, List.isEmpty_iff, List.all_eq_true,
    List.mem_range] at h
  obtain ⟨⟨⟨⟨⟨⟨⟨⟨h0, ha⟩, hp⟩, hs⟩, h2⟩, h3⟩, ⟨h4, h5⟩, h6⟩, h7⟩, h8⟩ := h
  refine ⟨⟨⟨h0, ha, hp⟩, h2, h3, h4, h5, h6, fun n => ?_⟩, hs, h8⟩
  by_cases hn : n < 32
  · exact h7 n hn
  · rw [vreg_beyond _ _ hn]; rfl

/-- The checks of `Row.Sound`. -/
def soundRow (w : Nat) : Row → Bool
  | .plain els => els.all (· < 2 ^ w)
  | .run rs => rs.all fun p => p.1 < 2 ^ w
  | .dict es idx => es.all (· < 2 ^ w) && idx.all (· < es.length)
  | .delta _ base _ => base < 2 ^ w

theorem sound_of_row {w : Nat} {r : Row} (h : soundRow w r = true) : r.Sound w := by
  cases r <;> simpa [soundRow, Row.Sound] using h

theorem sound_of {s : State} (h : ∀ n < 32, soundRow (widthOf (s.h.vreg n).sewc) (s.h.vreg n).row = true) : s.RowsSound := by
  intro n
  by_cases hn : n < 32
  · exact sound_of_row (h n hn)
  · rw [vreg_beyond _ _ hn]; exact fun x hx => absurd hx List.not_mem_nil

/-- Rows written before, of a width code, ungrouped. -/
def withRows (sewc : Nat) (l : List (Nat × Row)) (h : Hart) : Hart :=
  { h with v := l.foldl (fun v p => v.setIfInBounds p.1 ⟨sewc, 0, 0, p.2, []⟩) h.v }

/-- A launched hart with one lane group, five elements of 32 bits and two rows: v4 and v6 in every stored encoding, v8 zeros at
elements 2, mask 1 with elements 0 and 4. -/
def vectors (rs : List (Reg × Word) := []) (f : Hart → Hart := id) : State :=
  { user rs (fun h => f (withRows 2 [(4, .plain [1, 2, 3, 4, 5]), (5, .run [(7, 3), (0xFFFFFFFF, 2)]), (6, .dict [9, 10] [0, 1, 1, 0, 0]),
      (7, .delta 4 100 [1, -1, 2, 3]), (8, .plain [1, 1, 0, 0, 1]), (9, .plain [1, 1, 1, 1, 1])]
      { h with vl := 5, rc := 2, k := h.k.set 1 (Vector.replicate 32 (.bits [true, false, false, false, true])) }))
    with cores := oneGroup }

theorem vectors_ready : (vectors).Ready ∧ (vectors).RowsSound := ⟨ready_of (by decide +kernel), sound_of (by decide +kernel)⟩

/-- The same at 16 bits. -/
def halves : State := vectors [] fun h => { withRows 1 [(4, .plain [0x3C00, 0xFFFF, 1, 0x7C00, 0]), (5, .plain [])] h with vcfg := 1 }

/-- The operand checks that most vector forms share: destination 10, sources 4 and 6. -/
theorem vectors_operands : (vectors).h.mm = false ∧ (vectors).h.vl ≠ 0 ∧ (vectors).h.rc ≤ 32 ∧ (vectors).fits 10 ∧ (vectors).fits 30 ∧ (vectors).fits 4 ∧
    (vectors).fits 6 ∧ (vectors).apart 10 4 ∧ (vectors).apart 4 4 ∧ (vectors).apart 10 6 ∧ (vectors).disjoint 10 4 ∧
    (vectors).disjoint 10 6 := by
  delta State.fits State.apart State.disjoint; decide +kernel

theorem witness_VectorIntegers : ((vectors).Ready ∧ (vectors).RowsSound) ∧ ((vectors).h.mm = false ∧ (vectors).h.vl ≠ 0) ∧
    ((vectors).fits 10 ∧ (vectors).fits 4 ∧ (vectors).apart 10 4 ∧ (vectors).fits 6 ∧ (vectors).apart 10 6 ∧ (vectors).apart 4 4) ∧
    (let s := vectors [] fun h => { h with vcfg := 0x202 }
     field s.h.vcfg 9 1 = 1 ∧ ∀ q < s.h.rc, ∀ j < s.h.vl, s.active 1 q j = true → s.elem 8 32 q j ≠ 0) :=
  ⟨vectors_ready, by decide +kernel, by delta State.fits State.apart State.disjoint; decide +kernel, by decide +kernel⟩

/-- The same with `DZT` set, and with divisors whose second row is a run list that ends in zeros. -/
def dividing : State := vectors [] fun h => withRows 2 [(16, .plain [1, 1, 1, 1, 1]), (17, .run [(1, 3), (0, 2)])] { h with vcfg := 0x202 }

theorem witness_VectorDivisionTrap :
    (dividing.Ready ∧ dividing.RowsSound) ∧ (dividing.h.mm = false ∧ field dividing.h.vcfg 9 1 = 1 ∧ dividing.h.ih = false) ∧
    (dividing.fits 10 ∧ dividing.fits 4 ∧ dividing.fits 8 ∧ dividing.fits 16 ∧ dividing.apart 10 4 ∧ dividing.apart 10 8 ∧
      dividing.apart 10 16) ∧
    (let s := dividing
     let first (k : BitVec 3) (q j : Nat) (B : Nat → Nat → Nat) : Bool := decide (q < s.h.rc ∧ j < s.h.vl) && s.active k q j && B q j == 0 &&
       (List.range s.h.rc).all fun r => (List.range s.h.vl).all fun i => !(decide (r < q ∨ (r = q ∧ i < j)) && s.active k r i) || B r i != 0
     (first 0 0 2 (s.elem 8 32) && first 0 1 3 (s.elem 16 32) && first 1 1 4 (s.elem 16 32) && first 1 0 0 (fun _ _ => (s.rd 20).toNat % 2 ^ 32) &&
      first 0 0 0 (fun _ _ => wrap (0 : BitVec 5).toInt 32)) = true ∧ ((Src.vec 16 32).read s.vctx s.h 1 false).row.isRun = true ∧
      ((Src.vec 16 32).read s.vctx s.h 0 false).row.isRun = false) :=
  ⟨⟨ready_of (by decide +kernel), sound_of (by decide +kernel)⟩, by decide +kernel, by delta State.fits State.apart State.disjoint; decide +kernel,
    by decide +kernel⟩

/-- No element, at 32 bits and at 16. -/
def empty32 : State := vectors [(21, 0xFFFF), (22, 8), (23, 1)] fun h => { h with vl := 0 }
def empty16 : State := vectors [(22, 9), (23, 10)] fun h => { h with vl := 0, vcfg := 1 }

theorem witness_EmptyVectors :
    (empty32.Ready ∧ empty16.Ready) ∧
    (∀ s ∈ [empty32, empty16], (s.h.vl = 0 ∧ s.h.mm = false ∧ 1 ≤ s.h.rc ∧ s.rd 20 = 0) ∧ (s.fits 10 ∧ s.fits 4 ∧ s.fits 6 ∧ s.apart 10 4 ∧
      s.apart 10 6 ∧ s.disjoint 10 4 ∧ s.disjoint 10 6) ∧ ((31 : Reg).toNat % s.h.grp = 0 ∧ (31 : Reg).toNat + s.h.grp ≤ 32 ∧
        (4 : Reg).toNat + s.h.rc * s.h.grp ≤ (31 : Reg).toNat)) ∧
    ((1 : Reg) ≠ 0 ∧ (7 : Reg).toNat < 8 ∧ empty32.h.sew = 32 ∧ empty16.h.sew = 16 ∧ 1 ≤ (empty32.rd 23).toNat ∧
      (empty32.rd 21).toNat < 2 ^ 16 ∧ 1 ≤ (empty32.rd 21).toNat ∧ (empty32.rd 23).toNat ≤ 4 ∧ empty32.rd 22 = 8 ∧ empty16.rd 22 = 9 ∧
      empty16.rd 23 = 10) ∧
    (Fmt.ofCode (2 : BitVec 5).toNat = some (.int 32) ∧ Fmt.ofCode (8 : BitVec 5).toNat = some (.flt fmtF32) ∧
      (Fmt.int 32).width ≤ empty32.h.sew ∧ (Fmt.flt fmtF32).width ≤ empty32.h.sew) :=
  ⟨⟨ready_of (by decide +kernel), ready_of (by decide +kernel)⟩, by delta State.fits State.apart State.disjoint; decide +kernel,
    by decide +kernel, by decide +kernel⟩

theorem witness_VectorFloats : ((vectors).Ready ∧ (vectors).RowsSound ∧ (vectors).h.sew = 32) ∧
    (halves.Ready ∧ halves.RowsSound) ∧ (halves.h.sew = 16 ∧ halves.h.mm = false ∧ halves.h.vl ≠ 0) ∧
    (halves.fits 10 ∧ halves.fits 4 ∧ halves.apart 10 4 ∧ halves.fits 6 ∧ halves.apart 10 6) :=
  ⟨⟨vectors_ready.1, vectors_ready.2, by decide +kernel⟩, ⟨ready_of (by decide +kernel), sound_of (by decide +kernel)⟩,
    by decide +kernel, by delta State.fits State.apart State.disjoint; decide +kernel⟩

theorem witness_VectorCompares : ((vectors).Ready ∧ (vectors).RowsSound) ∧ ((vectors).h.mm = false ∧ (vectors).h.vl ≠ 0 ∧
    (1 : Reg) ≠ 0 ∧ (7 : Reg).toNat < 8 ∧ (vectors).h.sew = 32 ∧ halves.h.sew = 16) ∧ ((vectors).fits 4 ∧ (vectors).fits 6) :=
  ⟨vectors_ready, by decide +kernel, by delta State.fits; decide +kernel⟩

theorem witness_MaskFunctions :
    let s := vectors [(20, 1), (21, 0xFFFF)]
    (s.Ready ∧ s.RowsSound) ∧ (s.h.vl ≠ 0 ∧ s.h.rc ≤ 32 ∧ (1 : Reg) ≠ 0 ∧ (7 : Reg).toNat < 8 ∧ (1 : Reg).toNat ≤ 1 ∧ 1 ≤ (s.rd 20).toNat ∧
      1 ≤ (s.rd 21).toNat ∧ (s.rd 21).toNat < 2 ^ 16) ∧ (s.fits 4 ∧ s.fits 10) :=
  ⟨⟨ready_of (by decide +kernel), sound_of (by decide +kernel)⟩, by decide +kernel, by delta State.fits; decide +kernel⟩

theorem witness_Reductions : ((vectors).Ready ∧ (vectors).RowsSound) ∧ ((vectors).h.mm = false ∧ (vectors).h.vl ≠ 0) ∧
    ((vectors).fits 4 ∧ (vectors).fits 10) ∧ ((31 : Reg).toNat % (vectors).h.grp = 0 ∧ (31 : Reg).toNat + (vectors).h.grp ≤ 32 ∧
      ((31 : Reg).toNat + (vectors).h.grp ≤ (4 : Reg).toNat ∨ (4 : Reg).toNat + (vectors).h.rc * (vectors).h.grp ≤ (31 : Reg).toNat)) ∧
    ((vectors).h.sew = 32 ∧ halves.h.sew = 16) := by
  refine ⟨vectors_ready, ?_, by delta State.fits; decide +kernel, ?_, ?_⟩ <;> decide +kernel

theorem witness_RowFunctions :
    ((vectors).Ready ∧ (vectors).RowsSound) ∧ ((vectors).h.vl ≠ 0) ∧ ((vectors).fits 10 ∧ (vectors).fits 4 ∧ (vectors).fits 6 ∧
      (vectors).disjoint 10 4 ∧ (vectors).disjoint 10 6 ∧ (vectors).apart 10 4) ∧
    (let s := vectors [(20, 4), (21, 9)] fun h => { h with tbn := 256 }
     ((s.rd 20).toNat ≤ 4 ∧ s.h.sew = 32 ∧ ∀ q < s.h.rc, ∀ j < s.h.vl, s.active 1 q j = true → s.elem 8 32 q j < s.h.tbn)) ∧
    (let s := vectors [(20, 10), (21, 9)] fun h => { withRows 1 [(4, .plain [0xFFFF]), (5, .plain [3])] h with vcfg := 1, tbn := 256 }
     ((fmtF16, (s.rd 20).toNat, s.h.sew) ∈ [(fmtF32, 8, 32), (fmtBF16, 9, 16), (fmtF16, 10, 16)] ∧
      ∀ q < s.h.rc, ∀ j < s.h.vl, s.active 0 q j = true → s.elem 4 16 q (j / 8) / 256 < s.h.tbn)) ∧
    (Fmt.ofCode (2 : BitVec 5).toNat = some (.int 32) ∧ Fmt.ofCode (8 : BitVec 5).toNat = some (.flt fmtF32) ∧ (Fmt.int 32).width ≤ (vectors).h.sew ∧
      (Fmt.flt fmtF32).width ≤ (vectors).h.sew ∧ ∀ q < (vectors).h.rc, ∀ j < (vectors).h.vl, (vectors).active 1 q j = true →
        ((convertElem (.int 32) (.flt fmtF32) (vectors).h.rctx ((vectors).elem 4 32 q j)).map fun r => r.entry) = some false) := by
  refine ⟨vectors_ready, ?_, by delta State.fits State.disjoint State.apart State.disjoint; decide +kernel, ?_, ?_, ?_⟩ <;> decide +kernel

theorem witness_ElementsAndTables :
    let s := vectors [(20, 0x10004), (21, 0x1FFFF)]
    (s.Ready ∧ s.RowsSound) ∧ (s.h.vl ≠ 0 ∧ s.h.rc ≤ 32 ∧ (s.rd 20).toNat / 2 ^ 16 < s.h.rc ∧ (s.rd 20).toNat % 2 ^ 16 < s.h.vl ∧
      (s.rd 21).toNat / 2 ^ 16 < s.h.rc ∧ ¬ (s.rd 21).toNat % 2 ^ 16 < s.h.vl) ∧ (s.fits 4 ∧ s.fits 30) ∧
    (s.h.sew = 32 ∧ (31 : Reg).toNat % s.h.grp = 0 ∧ (31 : Reg).toNat + s.h.grp ≤ 32) :=
  ⟨⟨ready_of (by decide +kernel), sound_of (by decide +kernel)⟩, by decide +kernel, by delta State.fits; decide +kernel, by decide +kernel⟩

/-! ### Vector memory -/

/-- Where a bypassed address lands. -/
def bypass (s : State) (va : Word) : Xlat := ⟨s.pkg * 2 ^ 42 + va.toNat, 0, false, false, false⟩

/-- Whether an address bypasses translation in a context and lies in memory. -/
def bypasses (c : Ctx) (va : Word) : Bool :=
  !inWindow va && canonical va && (c.dm && field c.ptroot 12 30 == 0) && decide (va.toNat < 2 ^ 42) && !inNone va.toNat

theorem resolve_of_bypasses {c : Ctx} {va : Word} (h : bypasses c va = true) (kind : Kind) (lg : Nat) (s : State) :
    (resolve c va kind lg).on s = (.ok (bypass s va, none), s) := by
  simp only [bypasses, Bool.and_eq_true, Bool.not_eq_true', decide_eq_true_eq] at h
  obtain ⟨⟨⟨⟨h1, h2⟩, h3⟩, h4⟩, h5⟩ := h
  exact resolve_bypass c va kind lg h1 h2 (by rw [Bool.and_eq_true]; exact h3) h4 h5 s

/-- Whether a line is undisturbed. -/
def intactAt (s : State) (l : Nat) : Bool := (s.mem.line l).flips.isEmpty && !(s.mem.line l).marked

theorem intact_of {s : State} {l : Nat} (h : intactAt s l = true) : s.mem.intact l := by
  simp only [intactAt, Bool.and_eq_true, List.isEmpty_iff, Bool.not_eq_true'] at h
  exact h

/-- The checks of `State.Serves` for a bypassed address. -/
def servesAt (s : State) (va : Word) (lg : Nat) : Bool :=
  let k := (bypass s va).key
  decide (va.toNat % 2 ^ lg = 0 ∧ k % 2 ^ lg = 0) && bypasses s.h.ctx va && intactAt s (k / 64) &&
    (s.reachable s.h.key.die k && s.reachable s.h.key.die (k / 64 * 64))

theorem serves_of {s : State} {va : Word} {lg : Nat} (h : servesAt s va lg = true) (kind : Kind) :
    s.Serves va kind lg (bypass s va) := by
  simp only [servesAt, Bool.and_eq_true, decide_eq_true_eq] at h
  obtain ⟨⟨⟨⟨h1, h2⟩, h3⟩, h4⟩, h5, h6⟩ := h
  exact ⟨h1, h2, rfl, fun m n dirty => translate_of_resolve (resolve_of_bypasses h3 kind lg _) (dirtyM_none _ _ _) dirty,
    intact_of h4, h5, h6⟩

/-- A die manager core with an exception list and two rows of f32 that hold NaNs: one in v4, three in v5. -/
def listing (limit : Nat) : State :=
  { made [] (fun h => { withRows 2 [(4, .plain [0x3F800000, 0x7FC00000, 0x7F800000]), (5, .run [(0x7F800001, 3)])] h with
      vl := 3, rc := 2, xlist := 0x2000, xlimit := BitVec.ofNat 32 limit }) with
    cores := [(coreOf (dmKey 0), { CoreSt.reset with lprCur := 8, lprNext := 8 })] }

/-- Where a list takes entries that bypass translation. -/
def takesAt (s : State) (es : List (Nat × Nat)) : Bool :=
  let X (n : Nat) : Word := s.h.xlAddr + BitVec.ofNat 64 (16 * n)
  decide (s.h.xcount.toNat + es.length ≤ s.h.xlimit.toNat) && (List.range es.length).all (fun n => servesAt s (X n) 4) &&
    decide (∀ n < es.length, ∀ m < es.length, (bypass s (X n)).key = (bypass s (X m)).key → n = m)

theorem takes_of {s : State} {es : List (Nat × Nat)} (h : takesAt s es = true) :
    s.listTakes es fun n => bypass s (s.h.xlAddr + BitVec.ofNat 64 (16 * n)) := by
  simp only [takesAt, Bool.and_eq_true, decide_eq_true_eq, List.all_eq_true, List.mem_range] at h
  exact ⟨h.1.1, fun n hn => serves_of (h.1.2 n hn) _, h.2⟩

/-- A conversion to i32 of those rows, with room for its four entries and with none. -/
theorem witness_RowFunctions_lists :
    ((listing 4).Ready ∧ (listing 4).RowsSound ∧ (listing 4).listTakes [(0, 1), (1, 0), (1, 1), (1, 2)] fun n =>
      bypass (listing 4) ((listing 4).h.xlAddr + BitVec.ofNat 64 (16 * n))) ∧
    ((List.range 2).flatMap fun q => ((List.range 3).filter fun j => (listing 4).active 0 q j &&
      ((convertElem (.flt fmtF32) (.int 32) (listing 4).h.rctx ((listing 4).elem 4 32 q j)).map fun r => r.entry) == some true).map fun j => (q, j)) =
        [(0, 1), (1, 0), (1, 1), (1, 2)] ∧
    ((listing 0).h.ih = false ∧ (listing 0).h.xlimit.toNat ≤ (listing 0).h.xcount.toNat) :=
  ⟨⟨ready_of (by decide +kernel), sound_of (by decide +kernel), takes_of (by decide +kernel)⟩, by decide +kernel⟩

/-- A die manager core with two rows of five elements of 32 bits: data in v4 and v5, byte offsets in v12 and v13, a token in
`sm` and room for one in `mv`, a box of one row of five elements and two more rows. -/
def streaming : State := { made [(5, 0x1000), (6, 4)] (fun h =>
  { withRows 2 [(4, .plain [1, 2, 3, 4, 5]), (5, .run [(7, 5)]), (12, .plain [0, 4, 8, 12, 16]), (13, .plain [20, 24, 28, 32, 0x400])] h with
    vl := 5, rc := 2, tokens := #v[0, 1, 0, 0, 14, 0], dl := #v[5, 1, 2], dt := #v[4, 0, 20]
    k := h.k.set 1 (Vector.replicate 32 (.bits [true, false, false, false, true])) }) with
  cores := [(coreOf (dmKey 0), { CoreSt.reset with lprCur := 8, lprNext := 8 })] }

/-- The addresses that vector forms give their elements (R134, R146). -/
def flatAddr (q j : Nat) : Word := (0x1000 : Word) + BitVec.ofNat 64 (q * 5 + j) * 4
/-- Strided, by register 6. -/
def strideAddr (q j : Nat) : Word := streaming.rd 5 + BitVec.ofNat 64 (q * 5 + j) * streaming.rd 6
/-- Indexed, by v12. -/
def indexAddr (q j : Nat) : Word := streaming.rd 5 + BitVec.ofNat 64 (streaming.elem 12 (streaming.h.indexWidth 12) q j)

theorem streaming_ready : streaming.Ready ∧ streaming.WellKept ∧ (streaming.h.lost = [] ∧ streaming.h.vl ≠ 0 ∧ streaming.h.rc ≤ 32) ∧ streaming.fits 4 ∧
    streaming.fits 12 ∧ streaming.disjoint 4 12 ∧ streaming.h.TokensReady 3 ∧
    (streaming.h.vl * streaming.h.indexWidth 12 ≤ 8 * streaming.vctx.bytes) ∧
    (1 ≤ streaming.h.dlen 0 ∧ streaming.h.dlen 0 ≤ streaming.h.vl ∧ 1 ≤ streaming.h.dlen 1 * streaming.h.dlen 2 ∧
      streaming.h.dlen 1 * streaming.h.dlen 2 ≤ streaming.h.rc) := by
  refine ⟨ready_of (by decide +kernel), by delta State.WellKept; decide +kernel, ?_, by delta State.fits; decide +kernel,
    by delta State.fits; decide +kernel, by delta State.disjoint; decide +kernel, by delta Hart.TokensReady; decide +kernel, ?_,
    ?_⟩ <;> decide +kernel

theorem witness_VectorLoads (kind : Kind) :
    (∀ q < 2, ∀ j < 5, streaming.active 1 q j = true → streaming.Serves (flatAddr q j) kind 2 (bypass streaming (flatAddr q j))) ∧
    (∀ q < 2, ∀ j < 5, streaming.active 1 q j = true → streaming.Serves (strideAddr q j) kind 2 (bypass streaming (strideAddr q j))) ∧
    (∀ q < 2, ∀ j < 5, streaming.Serves (indexAddr q j) kind 2 (bypass streaming (indexAddr q j))) ∧
    (∀ q < 2, ∀ j < 5, streaming.Serves (streaming.boxAddr 0x1000 q j) kind 2 (bypass streaming (streaming.boxAddr 0x1000 q j))) :=
  ⟨fun q hq j hj _ => serves_of ((by decide +kernel : ∀ q < 2, ∀ j < 5, servesAt streaming (flatAddr q j) 2 = true) q hq j hj) kind,
    fun q hq j hj _ => serves_of ((by decide +kernel : ∀ q < 2, ∀ j < 5, servesAt streaming (strideAddr q j) 2 = true) q hq j hj) kind,
    fun q hq j hj => serves_of ((by decide +kernel : ∀ q < 2, ∀ j < 5, servesAt streaming (indexAddr q j) 2 = true) q hq j hj) kind,
    fun q hq j hj => serves_of ((by decide +kernel : ∀ q < 2, ∀ j < 5, servesAt streaming (streaming.boxAddr 0x1000 q j) 2 = true) q hq j hj)
      kind⟩

/-- No two elements share an address in any of the four ways. -/
theorem witness_VectorStores : ∀ f ∈ [flatAddr, strideAddr, indexAddr, streaming.boxAddr 0x1000],
    ((List.range 10).map fun n => (bypass streaming (f (n / 5) (n % 5))).key).Nodup := by decide +kernel

/-- A die manager core that holds a translation of a compressed page at 0x1000 with its D set. -/
def compressed (els : List (List Nat)) : State :=
  let bytes := els.flatMap fun r => (rowBlocks 2 r).flatten
  { made [(5, 0x1000)] (fun h => { withRows 2 [(4, .plain (els.getD 0 [])), (5, .plain (els.getD 1 []))] h with
      vl := 5, rc := 2, ptroot := 0x10000, tokens := #v[0, 1, 0, 0, 14, 0] }) with
    cores := [(coreOf (dmKey 0), { CoreSt.reset with tlb := [⟨0, 0x1000, 12, 1, 0xB7F, 0, none, 0x3000, 1⟩] })]
    mem := (⟨[], []⟩ : Mem).store 0x1000 bytes }

/-- Two rows of five elements, the second of one value. -/
def blocked : State := compressed [[1, 2, 0xFFFFFFFF, 4, 5], [7, 7, 7, 7, 7]]

/-- The blocks of its rows. -/
def blocksOf (q : Nat) : List (List Byte) := rowBlocks 2 (([[1, 2, 0xFFFFFFFF, 4, 5], [7, 7, 7, 7, 7]] : List (List Nat)).getD q [])

/-- The checks that an address of the page is served there. -/
def pagedAt (s : State) (va : Word) : Bool :=
  !inWindow va && canonical va && !(s.h.ctx.dm && field s.h.ctx.ptroot 12 30 == 0) &&
    decide (s.held s.h.ctx va = some ⟨0, 0x1000, 12, 1, 0xB7F, 0, none, 0x3000, 1⟩ ∧ va.toNat / 0x1000 = 1) &&
    intactAt s (va.toNat / 64) && s.reachable s.h.key.die va.toNat && s.reachable s.h.key.die (va.toNat / 64 * 64)

theorem paged_served {s : State} {va : Word} (h : pagedAt s va = true) (hc : s.h.ctx = blocked.h.ctx) {kind : Kind}
    (hk : kind = .load ∨ kind = .store) :
    s.MapsTo va kind 2 ⟨va.toNat, 11, false, false, false⟩ ∧ s.mem.intact (va.toNat / 64) ∧
      s.reachable s.h.key.die va.toNat = true ∧ s.reachable s.h.key.die (va.toNat / 64 * 64) = true := by
  simp only [pagedAt, Bool.and_eq_true, Bool.not_eq_true', decide_eq_true_eq] at h
  obtain ⟨⟨⟨⟨⟨⟨h1, h2⟩, h3⟩, h4, h5⟩, h6⟩, h7⟩, h8⟩ := h
  refine ⟨fun m n dirty => ?_, intact_of h6, h7, h8⟩
  have hp : (⟨0, 0x1000, 12, 1, 0xB7F, 0, none, 0x3000, 1⟩ : TlbEntry).phys va = va.toNat := by
    show 0 * 2 ^ 42 + 1 * 4096 + va.toNat % 2 ^ 12 = va.toNat
    omega
  have hr := resolve_held s.h.ctx va kind 2 _ { s with mem := m, freeCount := n } h1 h2 h3 h4
    (by rw [hc]; rcases hk with rfl | rfl <;> rfl)
  rw [hp] at hr
  exact translate_of_resolve hr (dirtyM_set rfl) dirty

/-- The bytes of the stream: two blocks, one for each row. -/
def streamBytes : List Byte := (List.range 2).flatMap fun q => (blocksOf q).flatten

theorem witness_BlockStreams :
    (blocked.Ready ∧ blocked.WellKept ∧ (blocked.h.vl ≠ 0 ∧ (blocked.rd 5).toNat % 16 = 0) ∧ blocked.fits 4 ∧ blocked.h.TokensReady 3) ∧
    (∀ i < streamBytes.length, ∀ kind, kind = .load ∨ kind = .store →
      blocked.MapsTo (blocked.rd 5 + BitVec.ofNat 64 i) kind 2 ⟨(blocked.rd 5 + BitVec.ofNat 64 i).toNat, 11, false, false, false⟩ ∧
      blocked.mem.intact ((blocked.rd 5 + BitVec.ofNat 64 i).toNat / 64)) ∧
    (∀ i < streamBytes.length, cellGet blocked.mem.cells (0x1000 + i) = nth streamBytes i 0) ∧
    ((List.range 2).flatMap (fun q => (rowBlocks 2 ((List.range 5).map (blocked.elem 4 32 q))).flatten) = streamBytes ∧
      streamBytes.length ≤ 2 ^ 64) ∧
    (∀ q < 2, (∀ bs ∈ blocksOf q, (BlockHead.ofWord (ofBytes (bs.take 8))).failure (some 2)
        ((bs.drop 8).take (BlockHead.ofWord (ofBytes (bs.take 8))).body) = none ∧
        bs.length = (BlockHead.ofWord (ofBytes (bs.take 8))).stride) ∧
      5 ≤ ((blocksOf q).map fun bs => (BlockHead.ofWord (ofBytes (bs.take 8))).count).sum ∧
      (((blocksOf q).dropLast).map fun bs => (BlockHead.ofWord (ofBytes (bs.take 8))).count).sum < 5) := by
  refine ⟨⟨ready_of (by decide +kernel), by delta State.WellKept; decide +kernel, ?_, by delta State.fits; decide +kernel,
      by delta Hart.TokensReady; decide +kernel⟩,
    fun i hi kind hk =>
      have h := paged_served ((by decide +kernel : ∀ i < streamBytes.length, pagedAt blocked (blocked.rd 5 + BitVec.ofNat 64 i) = true) i hi)
        rfl hk
      ⟨h.1, h.2.1⟩,
    ?_, ?_, ?_⟩ <;> decide +kernel

/-! ### Matrix mode -/

/-- A hart in matrix mode with an 8 by 8 grant of depth 8: accumulators of ones at v4 and v8, a tile of bytes at v1. -/
def tiles (rs : List (Reg × Word) := []) (f : Hart → Hart := id) : State :=
  let acc (i : Nat) : Row := .plain (List.replicate 64 (if i = 2 then 0 else 1))
  { made rs (fun h => f { withRows 0 [(1, .plain ((List.range 64).map (· * 5 % 128))), (0, .plain ((List.range 64).map (· * 3 % 128)))]
      (withRows 2 [(4, acc 0), (5, acc 1), (6, acc 2), (8, acc 0), (9, acc 1), (10, acc 2)] h) with
        mm := true, mt := 8, nt := 8, kt := 8 }) with
    cores := [(coreOf (dmKey 0), { CoreSt.reset with lprCur := 8, lprNext := 8 })] }

theorem witness_MatrixMode :
    (State.reset.h.mm = false) ∧ ((tiles).h.mm = true ∧ (tiles).Ready) ∧
    (let s := tiles [(6, 0), (7, 257), (8, 8), (9, 256)]
     (s.rd 6 = 0 ∧ 256 < (s.rd 7).toNat ∧ (s.rd 9).toNat ≤ 256) ∧ s.h.mt ≠ 0 ∧ s.h.kt % 8 = 0 ∧ s.holds 4 3 ∧ s.holds 29 3 ∧ s.holds 8 3 ∧
      (4 : Reg).toNat + 3 * s.h.grp ≤ (8 : Reg).toNat ∧ s.holds 12 1 ∧ s.holds 12 2 ∧ s.holds 1 1 ∧
      s.h.mt * s.h.kt * fmtWidth 11 ≤ 8 * s.vctx.bytes ∧ (1 : Reg).toNat + s.h.grp ≤ (12 : Reg).toNat ∧
      Fmt.ofCode (8 : Reg).toNat = some (.flt fmtF32) ∧
      (∀ x < 64, ((Fmt.flt fmtF32).convert s.h.rctx false (s.acc 8 x).value).entry = false)) ∧
    (tiles [(9, 11)]).rd 9 = 11 := by
  refine ⟨?_, ⟨?_, ready_of (by decide +kernel)⟩, by delta State.holds; decide +kernel, ?_⟩ <;> decide +kernel

/-- The same with a NaN as element 3 of the accumulators at v4, and a list of so many entries. -/
def nanTiles (limit : Nat) : State :=
  let acc (a b : Nat) : Row := .plain ((List.range 64).map fun i => if i = 3 then a else b)
  tiles [] fun h => withRows 2 [(4, acc 0 1), (5, acc 0 1), (6, acc 0xFF000000 0)] { h with xlist := 0x2000, xlimit := BitVec.ofNat 32 limit }

theorem witness_MatrixMode_lists :
    ((nanTiles 1).Ready ∧ (nanTiles 1).listTakes [(0, 3)] fun n => bypass (nanTiles 1) ((nanTiles 1).h.xlAddr + BitVec.ofNat 64 (16 * n))) ∧
    ((List.range 64).filter fun x => ((Fmt.int 32).convert (nanTiles 1).h.rctx false ((nanTiles 1).acc 4 x).value).entry) = [3] ∧
    ((nanTiles 0).h.ih = false ∧ (nanTiles 0).h.xlimit.toNat ≤ (nanTiles 0).h.xcount.toNat) :=
  ⟨⟨ready_of (by decide +kernel), takes_of (by decide +kernel)⟩, by decide +kernel⟩

/-- `mop.i8.i8 v4, v1, v0`. -/
def tile : Tile := ⟨4, 1, 0, 0, 0, 0, 0, 0, 0, 0, 0, 0, 0, 0⟩

/-- One with A in scratchpad, on a launched hart whose partition is all of core 0's scratchpad. -/
def padTile : Tile := { tile with a := 20, asp := 1 }

/-- Its state: base in register 20, pitches in register 21. -/
def padTiles : State :=
  { tiles [(20, 0xFE00000000000000), (21, 8 + 0x100 * 2 ^ 16)] (fun h => { launched h with sppart := 0x0040000000000001 }) with
    cores := oneGroup }

/-- The checks of `State.padOk` for one element. -/
def inPad (s : State) : Option (Word × Nat) → Bool
  | none => true
  | some (va, _) => inWindow va && decide (windowCore va < 48) &&
      (s.h.priv || inPartition s.h.sppart (windowCore va) (windowOff va)) && intactAt s (s.padKey va / 64)

theorem padOk_of {s : State} {r : Reg} {els : List (Option (Word × Nat))} (h : els.all (inPad s) = true)
    (hp : field (s.rd (r + 1)) 44 20 = 0 ∧ field (s.rd (r + 1)) 40 4 ≤ 4 ∧ (s.rd r).toNat % 4 = 0 ∧
      field (s.rd (r + 1)) 0 16 % 4 = 0 ∧ field (s.rd (r + 1)) 16 24 % 4 = 0) : s.padOk r els := by
  refine ⟨hp.1, hp.2.1, hp.2.2.1, hp.2.2.2.1, hp.2.2.2.2, fun va nib hm => ?_⟩
  have h := List.all_eq_true.mp h _ hm
  simp only [inPad, Bool.and_eq_true, decide_eq_true_eq, Bool.or_eq_true] at h
  exact ⟨h.1.1.1, h.1.1.2, h.1.2, intact_of h.2⟩

theorem witness_TileForms :
    ((tiles).Ready ∧ ((tiles).h.mm = true ∧ (tiles).h.mt ≠ 0 ∧ (tiles).h.kt ≠ 0) ∧ tileOk (tiles).h (tiles).vctx 0 tile = true ∧
      (tile.asp ≠ 1 ∧ tile.bsp ≠ 1) ∧ tileFault (tiles).h ((tiles).tileShape 0 tile) ((tiles).tileOperands 0 tile)
        ((List.range (tiles).h.mt).filter (tileLive (tiles).h tile)) = none) ∧
    (padTiles.Ready ∧ (padTiles.h.mm = true ∧ padTiles.h.mt ≠ 0 ∧ padTiles.h.kt ≠ 0 ∧ padTiles.h.key.dm = false) ∧
      tileOk padTiles.h padTiles.vctx 0 padTile = true ∧ (padTile.asp = 1 ∧ padTile.bsp ≠ 1) ∧ padTiles.padOk padTile.a (padTiles.padA 0 padTile) ∧
      tileFault padTiles.h (padTiles.tileShape 0 padTile) (padTiles.tileOperands 0 padTile)
        ((List.range padTiles.h.mt).filter (tileLive padTiles.h padTile)) = none) := by
  refine ⟨⟨ready_of (by decide +kernel), ?_, ?_, ?_, Option.isNone_iff_eq_none.mp (by decide +kernel)⟩,
    ⟨ready_of (by decide +kernel), ?_, ?_, ?_, padOk_of (by decide +kernel) (by decide +kernel),
    Option.isNone_iff_eq_none.mp (by decide +kernel)⟩⟩ <;> decide +kernel

/-! ### Queues, scratchpads, probes, barriers, ballots -/

/-- Memory that holds words at addresses. -/
def words (l : List (Nat × Nat)) : Mem := l.foldl (fun m p => m.store p.1 (toBytes 8 p.2)) ⟨[], []⟩

/-- A die with a queue area at 0x2000, whose device queue 0 has its ring at 0x6000, and a journal at 0x4000; `JHEAD` 0. -/
def scheduled (tail head : Nat) (s : State) : State :=
  { s.setDie 0 (fun d => { d with qcbase := 0x2000, jbase := 0x400A }) with
    mem := words [(0x2000, tail), (0x2008, head), (0x2010, 0x6000), (0x2018, 3 + 3 * 256)] }

/-- Whether a queue's line reads with nothing changed and holds. -/
def lineAt (s : State) (q : Nat) (p : QLine → Bool) : Bool :=
  match s.qline 0 q with
  | (some y, t) => decide (t = s) && p y
  | _ => false

/-- The next journal entry is not final yet. -/
def journalFull : State := let s := scheduled 0 0 State.reset; { s with mem := s.mem.store 0x4058 (toBytes 8 0x500) }

theorem witness_QueuesAndQueries :
    -- tokens and bindings
    ((2 : Reg) = 2 ∨ (2 : Reg) = 4) ∧
    (let s := made [] fun h => { h with tokens := #v[0, 0, 1, 15, 15, 0], pend := [2] }
     s.h.token 2 ≠ 0 ∧ 2 ∈ s.h.pend ∧ 4 ∉ s.h.pend) ∧ (made [] fun h => { h with tokens := #v[0, 0, 1, 15, 15, 0] }).Ready ∧
    ((made [] fun h => { h with tokens := #v[0, 0, 1, 15, 15, 0] }).h.token 3 = 15 ∧
      (made [] fun h => { h with tokens := #v[0, 0, 1, 15, 15, 0] }).h.lost = []) ∧
    ((made [] fun h => { h with tokens := #v[14, 15, 1, 0, 0, 14] }).h.token 0 < 15 ∧
      (made [] fun h => { h with tokens := #v[14, 15, 1, 0, 0, 14] }).h.token 1 = 15 ∧
      (made [] fun h => { h with tokens := #v[14, 15, 1, 0, 0, 14] }).h.token 2 ≠ 0 ∧
      (made [] fun h => { h with tokens := #v[14, 15, 1, 0, 0, 14] }).h.token 4 = 0 ∧
      (made [] fun h => { h with tokens := #v[14, 15, 1, 0, 0, 14] }).h.token 5 < 15) ∧
    (made [(5, 0x1000)]).Ready ∧ (∀ i < 4, (made [(5, 0x1000)]).Serves ((0x1000 : Word) + BitVec.ofNat 64 (8 * i)) .load 3
      (bypass (made [(5, 0x1000)]) ((0x1000 : Word) + BitVec.ofNat 64 (8 * i)))) ∧
    ((made [(5, 0x1000)]).h.binds.length < 4 ∧ ofBytes ((made [(5, 0x1000)]).mem.bytes 0x1018 8) < 16) ∧
    -- engines
    (let s := user [] fun h => { h with eng := #v[⟨0, 0, []⟩, ⟨8, 3, []⟩, ⟨7, 2, [5]⟩, ⟨0, 0, []⟩, ⟨1, 6, [5]⟩, ⟨0, 0, []⟩] }
     ¬ (s.h.key.dm = true ∧ (5 : BitVec 4) = 5) ∧ (s.h.fifo 1).out = 8 ∧ (s.h.fifo 1).head = none ∧ (s.h.fifo 2).out ≠ 8 ∧
      (s.h.fifo 3).out = 0 ∧ (s.h.fifo 4).out ≠ 0 ∧ (s.h.fifo 4).head = some 5 ∧
      ((s.setDie 0 fun d => { d with mbxbase := 0x5004 }).die 0).inbox.isSome = true) ∧
    -- event counters and launches
    (let s := made [(5, 255), (6, 256), (7, 0x8000)]
     (s.rd 5).toNat < 256 ∧ 256 ≤ (s.rd 6).toNat ∧ s.h.key.die < 4 ∧ (s.die 0).eventCount 255 = 0 ∧
      ((s.setDie 0 fun d => { d with events := d.events.set 255 (BitVec.allOnes 32) }).die 0).eventCount 255 ≠ 0 ∧
      (s.rd 7).toNat % 64 = 0 ∧ (s.rd 5).toNat / 64 = 3 ∧ (s.die 3).journal = none) ∧
    ((∃ v t, (scheduled 0 0 State.reset).appendLaunch 0 0 0x8000 = some (v, t)) ∧ journalFull.appendLaunch 0 0 0x8000 = none) ∧
    -- a device queue with room, a full one, a disabled one, and the four places that a launch writes
    (let s := scheduled 1 1 State.reset
     s.mem.wf = true ∧ (s.die 0).journal = some (0x4000, 10) ∧
     ((lineAt s 0 fun y => y.en && y.dev && !s.badQueue 0 0 y && decide (y.tail - y.head < 2 ^ y.log)) &&
      (lineAt (scheduled 9 1 State.reset) 0 fun y => y.en && y.dev && decide (y.tail - y.head = 2 ^ y.log)) &&
      (lineAt { s with mem := s.mem.store 0x2018 (toBytes 8 3) } 0 fun y => !y.en)) = true ∧
     (∀ k ∈ [0x4000, 0x4040, 0x2000, 0x6008], inMemory k = true ∧ s.reachable 0 k = true ∧ (s.mem.line (k / 64)).flips = [] ∧
      (s.mem.line (k / 64)).marked = false) ∧ ([0x4000, 0x4040, 0x2000, 0x6008].map (· / 64)).Nodup ∧
     ofBytes (s.mem.bytes 0x4058 8) / 2 ^ 8 % 8 ∉ [5, 6]) ∧
    -- queries
    (let s := user [(5, 15), (6, 16), (7, 1), (8, 8), (9, 7)] fun h => { h with gangSize := 16 }
     ((s.rd 5).toNat < 16 ∧ (s.rd 5).toNat ≤ s.h.gangSize - 1) ∧ 16 ≤ (s.rd 6).toNat ∧
      (user []).h.gangSize - 1 < (s.rd 7).toNat % 16 ∧ ((s.rd 9).toNat < 8 ∧ (s.rd 5).toNat = 15)) ∧
    (∃ l, ((scheduled 3 1 State.reset).qline 0 0).1 = some l ∧ ((scheduled 3 1 State.reset).qline 0 0).2.h.pc = 0) := by
  refine ⟨?_, ?_, ready_of (by decide +kernel), ?_, ?_, ready_of (by decide +kernel),
    fun i hi => serves_of ((by decide +kernel : ∀ i < 4, servesAt (made [(5, 0x1000)]) ((0x1000 : Word) + BitVec.ofNat 64 (8 * i)) 3 = true) i hi) _,
    ?_, ?_, ?_,
    ⟨by
      have h : ((scheduled 0 0 State.reset).appendLaunch 0 0 0x8000).isSome = true := by decide +kernel
      obtain ⟨⟨v, t⟩, e⟩ := Option.isSome_iff_exists.mp h
      exact ⟨v, t, e⟩, Option.isNone_iff_eq_none.mp (by decide +kernel)⟩, ?_, ?_,
    by
      have h : ((scheduled 3 1 State.reset).qline 0 0).1.isSome = true := by decide +kernel
      obtain ⟨l, e⟩ := Option.isSome_iff_exists.mp h
      exact ⟨l, e, by decide +kernel⟩⟩ <;> decide +kernel

/-- A gang member with tags in its core's table: its own block, and three ways of set 2 taken. -/
def tagged (rs : List (Reg × Word)) : State :=
  { user rs (fun h => { h with sppart := 0x0040000000000001 }) with
    cores := [(coreOf place, { CoreSt.reset with tags := [⟨1, 0, 1, 1, 0x300⟩, ⟨2, 0, 1, 0x102, 0⟩, ⟨2, 1, 1, 0x202, 0⟩, ⟨2, 3, 1, 0x302, 0⟩] })] }

theorem witness_Scratchpad :
    (let s := tagged [(5, 0x1FF), (6, 0xFE00000000000300), (7, 0x200), (8, 0x0100000000000000), (9, 0xFE00000000040000)]
     let tags := (s.core (coreOf s.h.key)).tags
     let names (A : Word) (t : TagEntry) : Prop := t.gang = 1 ∧ t.set = A.toNat / 2 ^ 8 % 2 ^ 8 ∧ t.key = A.toNat / 2 ^ 8 % 2 ^ 49
     let legal (B : Word) : Prop := B.toNat / 2 ^ 18 * 2 ^ 18 = 0xFE00000000000000 + s.h.key.core * 2 ^ 18 ∧ B.toNat % 2 ^ 8 = 0 ∧
       inPartition s.h.sppart s.h.key.core (B.toNat % 2 ^ 18) = true
     (s.h.key.dm = false ∧ s.h.gang = some 1 ∧ s.h.key.core < 48) ∧
      (canonical (s.rd 5) = true ∧ (⟨1, 0, 1, 1, 0x300⟩ : TagEntry) ∈ tags ∧ names (s.rd 5) ⟨1, 0, 1, 1, 0x300⟩ ∧
        ∀ t ∈ tags, names (s.rd 5) t → t = ⟨1, 0, 1, 1, 0x300⟩) ∧
      (canonical (s.rd 7) = true ∧ (∀ t ∈ tags, ¬ names (s.rd 7) t) ∧
        (¬ ∃ t ∈ tags, t.set = 2 ∧ t.way = 2) ∧ (∀ v < 2, ∃ t ∈ tags, t.set = 2 ∧ t.way = v)) ∧
      canonical (s.rd 8) = false ∧ legal (s.rd 6) ∧ ¬ legal (s.rd 9) ∧ ¬ legal (s.rd 5)) ∧
    (let s : State := { tagged [] with cores := [(coreOf place, { CoreSt.reset with tags := (List.range 4).map fun w => ⟨2, w, 7, w, 0⟩ })] }
     ∀ w < 4, ∃ t ∈ (s.core (coreOf s.h.key)).tags, t.set = 2 ∧ t.way = w) ∧ State.reset.h.key.dm = true ∧
    (let s := user [(5, 0xFE0000000003FFC0), (6, 64), (7, 128), (8, 0xFE00000000000020), (9, 0xFE00000000C00000), (10, 0xFE0000000000F000), (11, 0x2000), (12, 1)]
       fun h => { h with sppart := 0x0010000000000001 }
     let p : State := { s with h := { s.h with priv := true } }
     (p.WellKept ∧ inWindow (p.rd 5) = true ∧ windowCore (p.rd 5) < 48 ∧ (p.rd 5).toNat % 64 = 0 ∧ (p.rd 6).toNat % 64 = 0 ∧ 0 < (p.rd 6).toNat ∧
        windowOff (p.rd 5) + (p.rd 6).toNat ≤ 2 ^ 18 ∧ p.h.priv = true) ∧
      (s.rd 0).toNat = 0 ∧ (s.rd 8).toNat % 64 ≠ 0 ∧ 2 ^ 18 < windowOff (s.rd 5) + (s.rd 7).toNat ∧
      (¬ 2 ^ 18 < windowOff (s.rd 8) + (s.rd 6).toNat ∧ (s.rd 12).toNat % 64 ≠ 0 ∧ inWindow (s.rd 0) = false ∧ (s.rd 0).toNat % 64 = 0) ∧
      (inWindow (s.rd 9) = true ∧ 48 ≤ windowCore (s.rd 9) ∧ (s.rd 9).toNat % 64 = 0) ∧
      (inWindow (s.rd 10) = true ∧ windowCore (s.rd 10) < 48 ∧ windowOff (s.rd 10) + (s.rd 11).toNat ≤ 2 ^ 18 ∧ s.h.priv = false ∧
        inPartition s.h.sppart 0 (windowOff (s.rd 10) + 0x1000) = false ∧
        (List.range 0x1000).all (fun y => inPartition s.h.sppart 0 (windowOff (s.rd 10) + y)) = true)) := by
  refine ⟨⟨?_, ?_, ?_, ?_⟩, ?_, ?_, ⟨by delta State.WellKept; decide +kernel, ?_, ?_, ?_, ?_, ?_, ?_⟩⟩ <;> decide +kernel

/-- A launched hart whose core holds one translation. -/
def translating (attrs : Nat) (rs : List (Reg × Word)) : State :=
  { user rs with cores := [(coreOf place, { CoreSt.reset with tlb := [entry attrs] })] }

theorem witness_ProbesAndInvalidation :
    (let s := translating 0x13 [(5, 0x1FFF), (6, 3), (7, 4), (8, 0xFE00000000000000), (9, 0x0100000000000000)]
     4 ≤ (s.rd 7).toNat ∧ (s.rd 6).toNat < 4 ∧ inWindow (s.rd 8) = true ∧ inWindow (s.rd 9) = false ∧ canonical (s.rd 9) = false ∧
      (canonical (s.rd 5) = true ∧ s.h.key.dm = false ∧ (s.core (coreOf s.h.key)).tlb.find? (·.hits s.h.asid (s.rd 5)) = some (entry 0x13)) ∧
      -- a fetch is not allowed, a load is
      ((entry 0x13).attrs / 2 ^ 3 % 2 = 0 ∧ (entry 0x13).attrs / 2 ^ 4 % 2 = 1 ∧ (entry 0x13).attrs / 2 ^ 1 % 2 = 1 ∧
        (entry 0x13).attrs / 2 ^ 8 % 16 < 12 ∧ s.reachable s.h.key.die ((entry 0x13).phys (s.rd 5)) = true)) ∧
    (let s := made [(5, 0x1FFFF), (6, 0x20000), (7, 0x0100000000000000)]
     s.h.priv = true ∧ (∀ h ∈ s.harts, h.late = []) ∧ (s.rd 5).toNat < 2 ^ 17 ∧ canonical (s.rd 5) = true ∧ canonical (s.rd 7) = false ∧ 2 ^ 17 ≤ (s.rd 6).toNat) ∧
    (user []).h.priv = false := by decide +kernel

theorem witness_Barriers :
    (let s (n m : Nat) (pv : Bool) (pg : BitVec 32) := user [] fun h => { h with gangSize := n, member := m, pv := pv, pg := pg }
     let full (n : Nat) (g : Gang) (x : BitVec 16) : Prop := x ||| g.endedMap = BitVec.ofNat 16 (2 ^ n - 1)
     ((s 2 0 false 0).h.key.dm = false ∧ ((s 2 0 false 0).myGang.map fun g => g.id) = some 1 ∧ (s 2 0 false 0).h.priv = false) ∧
      ((s 2 0 true 7).h.pv = true ∧ (s 2 0 true 7).h.pg ≠ oneGang.gen) ∧
      ((s 2 0 true 0).h.pg = oneGang.gen ∧ ¬ full 2 oneGang oneGang.arr) ∧
      ((s 16 15 false 0).h.pv = false ∧ (s 16 15 false 0).h.member < 16 ∧ ¬ full 16 oneGang (oneGang.arr ||| BitVec.ofNat 16 (2 ^ 15))) ∧
      full 1 oneGang (oneGang.arr ||| BitVec.ofNat 16 (2 ^ 0))) ∧
    (State.reset.h.key.dm = true ∧ (user [] fun h => { h with priv := true }).h.priv = true) ∧
    (let s := user [(5, 0x13F), (6, 0x23F), (7, 0xFFFF3F), (8, 0x1000000), (9, 0x3F), (10, 0x40), (11, 0x00F), (12, 0x17F), (13, 1)]
       fun h => { h with nbar := 0x8000000000000000 }
     (s.h.key.dm = false ∧ ((s.cluster s.h.key.die s.h.key.clu).counters[63]?).isSome = true ∧ s.h.nbar.getLsbD 63 = true) ∧
      ((s.rd 5).toNat / 2 ^ 8 % 2 ^ 16 ≠ 0 ∧ (s.rd 5).toNat / 2 ^ 6 % 4 = 0 ∧ (s.rd 7).toNat < 2 ^ 24 ∧
        0 + 1 = (s.rd 5).toNat / 2 ^ 8 % 2 ^ 16 ∧ 0 + 1 ≠ (s.rd 6).toNat / 2 ^ 8 % 2 ^ 16) ∧
      ((s.rd 9).toNat < 2 ^ 6 ∧ (0 : BitVec 32) = (s.rd 0).setWidth 32 ∧ (0 : BitVec 32) ≠ (s.rd 13).setWidth 32) ∧
      (s.h.nbar.getLsbD ((s.rd 11).toNat % 2 ^ 6) = false ∧ (s.rd 9).toNat / 2 ^ 8 % 2 ^ 16 = 0 ∧ (s.rd 12).toNat / 2 ^ 6 % 4 ≠ 0 ∧
        2 ^ 24 ≤ (s.rd 8).toNat ∧ 2 ^ 6 ≤ (s.rd 10).toNat)) := by decide +kernel

/-- Members of a grove. -/
def memberOf (posted : Option Word) (left : Bool) : Member := ⟨posted, left, false, none, false, some 1, false, false⟩

/-- A grove of three in slot 5: member 0 has not posted. -/
def groveOf (first : Member) (quorum : Nat) (posts : List (Word × Nat × Nat)) (winner : Option (Word × Nat × Nat × Nat))
    (second third : Option Word) : Grove :=
  ⟨5, 1, 3, quorum, [first, memberOf second false, memberOf third false], posts, posts.length, winner, false, [], none, 0, 0, 0, 0, 0, 0⟩

/-- A hart of member 0 of such a grove. -/
def balloting (v : Grove) (rs : List (Reg × Word) := []) (felled : Bool := false) : State :=
  { user rs with gangs := [{ oneGang with grove := some (0, 5, 0), felled := felled }], groves := [v] }

/-- Nobody, one, and two members posted; decided; member 0 gone. -/
def fresh : Grove := groveOf (memberOf none false) 2 [] none none none
/-- One post of 9. -/
def once : Grove := groveOf (memberOf none false) 2 [(9, 1, 1)] none (some 9) none
/-- Two posts that differ. -/
def split : Grove := groveOf (memberOf none false) 3 [(8, 1, 2), (9, 1, 1)] none (some 9) (some 8)
/-- Decided for 9. -/
def decided : Grove := groveOf (memberOf (some 9) false) 2 [(9, 2, 0)] (some (9, 2, 0, 1)) (some 9) none
/-- Member 0 left. -/
def leaver : Grove := groveOf (memberOf none true) 2 [] none none none

/-- The conditions that the clauses for a member share. -/
def inGrove (v : Grove) : Bool :=
  let s := balloting v [(5, 9), (6, 0x40), (7, 1), (8, 2)]
  !s.h.key.dm && s.h.run == .running && (s.myGang.map fun y => (y.resident, y.grove)) == some (true, some (s.pkg, 5, 0)) &&
    s.groveAt 5 == some v && s.groves == [v] && (v.members[0]?).isSome && canonical (s.rd 6) && (s.rd 6).toNat % 64 == 0 &&
    decide ((s.rd 7).toNat < 2) && decide (2 ≤ (s.rd 8).toNat) && (s.rd 5).toNat % 64 != 0

/-- Undecided. -/
def undecided (v : Grove) : Bool :=
  v.winner.isNone && !v.noAnswer && v.posts.all (fun p => p.2.1 < v.quorum) &&
    decide ((v.members.filter fun x => x.posted.isSome || x.left).length < v.n)

theorem witness_Ballots :
    (∀ v ∈ [fresh, once, split, decided, leaver], inGrove v = true) ∧
    (undecided fresh && undecided once && undecided split && decided.winner.isSome && undecided leaver) = true ∧
    -- counted below the quorum, at the quorum, and last of all with a plurality
    ((fresh.posts.map fun p => p.1).Nodup ∧ (split.posts.map fun p => p.1).Nodup ∧ 0 + 1 < fresh.quorum ∧ 0 + 1 < fresh.n) ∧
    ((∀ x ∈ (balloting once).gangs, x.resident = true) ∧ (∀ l ∈ (balloting once).launches, l.next = l.record.ctl.toNat % 2 ^ 16) ∧
      once.quorum ≤ 1 + 1 ∧ 1 + 1 < split.quorum ∧ 2 + 1 = split.n) ∧
    (((balloting fresh [] true).myGang.map fun y => y.felled) = some true ∧ (balloting fresh [] true).h.viq = [] ∧ (balloting fresh [] true).h.late = [] ∧
      (balloting fresh).h.lost = []) ∧
    ((user []).myGang.map fun y => (y.grove, y.felled)) = some (none, false) ∧ (State.reset.h.key.dm = true ∧ State.reset.h.gang = none) := by
  refine ⟨?_, ?_, ?_, ?_, ?_, ?_, ?_, ?_⟩ <;> decide +kernel

/-! ### Steps of a hart and of registers -/

/-- A user hart with entries in its vector queue, placed with the state it has. -/
def queued (ops : List VOp) (dispatched replayed : Bool) : State :=
  vectors [] fun h => { h with viq := ops.map fun op => { VEntry.fresh 0 op h.resolved with dispatched := dispatched, replayed := replayed } }

/-- The head of that queue. -/
def headOf (op : VOp) (dispatched replayed : Bool) : VEntry :=
  { VEntry.fresh 0 op (vectors).h.resolved with dispatched := dispatched, replayed := replayed }

/-- Whether a vector operation is done and used lanes. -/
def laneWork (s : State) (op : VOp) : Bool :=
  match (s.runVector op).1 with
  | .done c => !c.units.isEmpty
  | _ => false

theorem done_of_laneWork {s : State} {op : VOp} (h : laneWork s op = true) : ∃ c u, s.runVector op = (.done c, u) ∧ c.units ≠ [] := by
  unfold laneWork at h
  split at h
  · rename_i c e
    exact ⟨c, (s.runVector op).2, by rw [← e], by simpa using h⟩
  · cases h

theorem witness_HartSteps :
    (let s := user [] fun h => { h with event := 0x10, evmask := 0x1F }
     s.h.run = .running ∧ s.h.event &&& s.h.evmask ≠ 0 ∧ s.h.priv = false ∧ s.h.viq = [] ∧ s.h.late = [] ∧ s.h.wait = .none ∧
      (s.myGang.map fun g => (g.leave, g.felled, g.preempt)) = some (none, false, false)) ∧
    State.reset.h.event &&& State.reset.h.evmask = 0 ∧
    ((user [] fun h => { h with timecmp := 0 }).h.timecmp.toNat ≤ (user []).time.toNat ∧ ¬ (user []).h.timecmp.toNat ≤ (user []).time.toNat) ∧
    (∀ e ∈ [(0 : BitVec 5), 1], let s := user [] fun h => { h with wait := .wfe 5, event := e }
      s.h.run = .running ∧ s.h.wait = .wfe 5 ∧ s.h.event = e) ∧
    (let s (p : BitVec 32) := user [] fun h => { h with wait := .gangBarrier 5, pv := true, pg := p }
     (s 0).h.run = .running ∧ (s 0).h.wait = .gangBarrier 5 ∧ (s 0).myGang.isSome = true ∧ (s 0).h.pv = true ∧ (s 0).h.pg = oneGang.gen ∧
      (s 7).h.pg ≠ oneGang.gen) ∧
    ((user []).h.viq = [] ∧ (user []).h.late = [] ∧ (0 : BitVec 6).toNat / 8 ∈ (vectors).groups place ∧ ¬ (63 : BitVec 6).toNat / 8 ∈ (vectors).groups place) ∧
    -- a post at the head, alone or before another, to be dispatched or retired
    (∀ d ∈ [false, true], ∀ rest ∈ [[], [VOp.tkpost 4]], let s := queued (.tkpost 5 :: rest) d false
      s.h.run = .running ∧ s.h.late = [] ∧ s.h.viq = headOf (.tkpost 5) d false :: rest.map (fun op => headOf op d false) ∧
      (headOf (.tkpost 5) d false).st.pc = s.h.pc ∧ (5 : Reg).toNat < 6 ∧ s.h.token 5 < 15 ∧ s.h.binds = [] ∧ s.h.pend = [] ∧
      (s.core (coreOf place)).shut = false ∧ (s.flue (flueOf (coreOf place))).damped = false) ∧
    ({ queued [.tkpost 5] true false with h := { (queued [.tkpost 5] true false).h with tokens := #v[0, 0, 0, 0, 0, 15] } } : State).h.token 5 = 15 ∧
    -- a wait without a token behind a dispatched entry
    (let s := vectors [] fun h => { h with viq := [headOf (.tkpost 4) true false, headOf (.tkwait 5) false false] }
     s.h.viq = [headOf (.tkpost 4) true false] ++ headOf (.tkwait 5) false false :: [] ∧ s.h.token 5 = 0 ∧ s.h.late = []) ∧
    -- lane work at the head
    (∀ r ∈ [false, true], let s := queued [.int .add 10 4 (.vec 6) 0 false] true r
      s.h.run = .running ∧ s.h.viq = [headOf (.int .add 10 4 (.vec 6) 0 false) true r] ∧ s.h.ih = false ∧ s.h.late = [] ∧
        ∀ x ∈ s.h.viq, x.took = false ∧ x.look = .first) ∧
    (∃ c u, (queued [.int .add 10 4 (.vec 6) 0 false] true false).runVector (.int .add 10 4 (.vec 6) 0 false) = (.done c, u) ∧ c.units ≠ []) ∧
    (let s : State := { user [] with gangs := [{ oneGang with preempt := true }] }
     s.h.run = .running ∧ (s.myGang.map fun g => (g.preempt, g.leave, g.felled, g.launch)) = some (true, none, false, 1) ∧ s.h.yld = false ∧
      s.h.priv = false ∧ s.h.viq = [] ∧ s.h.late = [] ∧ ∃ l ∈ s.launches, l.id = 1) ∧
    (let s : State := { user [] with gangs := [{ oneGang with felled := true }] }
     s.h.run = .running ∧ (s.myGang.map fun g => g.felled) = some true ∧ s.h.yld = false ∧ s.h.viq = [] ∧ s.h.late = []) ∧
    ((user [] fun h => { h with run := .ended }).hartAt place).isNone = true := by
  refine ⟨?_, ?_, ?_, ?_, ?_, ?_, ?_, ?_, ?_, ?_, done_of_laneWork (by decide +kernel), ?_, ?_, ?_⟩ <;> decide +kernel

theorem witness_HartRegisterSteps :
    -- a register that waits for queued instructions, and those that wait for accesses not yet performed, a store and a vector's
    (let e : LateOp → Late := fun op => ⟨op, false, 0, 0, []⟩
     let s : State := { State.reset with h := { State.reset.h with viq := [headOf (.tkpost 5) false false], late := [e (.store 0x1000 3 0)] } }
     let t : State := { State.reset with h := { State.reset.h with late := [e (.vector (headOf (.tkpost 5) true false))] } }
     s.h.viq ≠ [] ∧ (∃ x ∈ s.h.late, x.isVector = false) ∧ s.h.late ≠ [] ∧ [0x004, 0x005, 0x006, 0x010, 0x011, 0x012, 0x014, 0x110, 0x138, 0x139].all (assigned s.h.key.dm) = true ∧
      (t.h.viq = [] ∧ ∀ x ∈ t.h.late, x.isVector = true) ∧ State.reset.h.viq = [] ∧ State.reset.h.late = []) ∧
    ((user []).h.priv = false ∧ State.reset.h.priv = true) ∧
    ((0x0FF : BitVec 9).toNat < 0x100 ∧ 0x100 ≤ (0x100 : BitVec 9).toNat ∧ assigned (user []).h.key.dm 0x041 = true ∧ assigned (user []).h.key.dm 0x0FF = false) ∧
    ((user []).srWrite 0x041 0x1F).isSome = true ∧ (State.reset.srWrite 0x138 1).isNone = true ∧
    ((State.reset.flue (State.reset.ownFlue State.reset.h)).held = false ∧
      (let s := State.reset.setFlue (State.reset.ownFlue State.reset.h) fun x => { x with held := true }; (s.flue (s.ownFlue s.h)).held = true)) :=
  by decide +kernel

/-- A message in a die's inbox. -/
def message (code : Word) : Message := ⟨1, 0, 9, 3, code, 0x1000, true, some 0, false⟩

/-- Die manager core 0 with its cluster in a state. -/
def clustered (f : ClusterSt → ClusterSt) (gangs : List Gang := []) : State := { State.reset.setCluster 0 0 f with gangs := gangs }

theorem witness_DieRegisterSteps :
    ((user [] fun h => { h with priv := true }).h.priv = true ∧ (user []).h.key.dm = false ∧ State.reset.h.priv = true ∧
      State.reset.h.key.dm = true ∧ State.reset.h.key.die < 4) ∧
    -- rails: a flue in use, one that is not
    ((∃ h ∈ { State.reset with others := [launched (Hart.start place)] }.others, h.run = .running ∧ h.key.dm = false ∧
        flueOf (coreOf h.key) = ⟨0, 0, 0⟩) ∧
      (∀ h ∈ State.reset.h :: State.reset.others, ¬ (h.run = .running ∧ h.key.dm = false ∧ flueOf (coreOf h.key) = ⟨0, 0, 0⟩)) ∧
      (State.reset.cluster 0 0).clock = .on ∧ (2 : Word).toNat % 4 < 3 ∧ ¬ (3 : Word).toNat % 4 < 3) ∧
    -- CLOSE, PRE and SLEEP
    ((State.reset.cluster 0 0).pre = false ∧ (State.reset.cluster 0 0).sleep = false ∧ (State.reset.cluster 0 0).close = false) ∧
    (let s := clustered (fun c => { c with close := true, pre := true }) [oneGang]
     (s.cluster 0 0).pre = true ∧ ∃ g ∈ s.gangs, g.resident = true ∧ g.die = 0 ∧ g.clu = 0) ∧
    (let s := clustered (fun c => { c with close := true }) [oneGang]
     (s.cluster 0 0).close = true ∧ (s.cluster 0 0).sleep = false ∧ (∃ g ∈ s.gangs, g.resident = true ∧ g.die = 0 ∧ g.clu = 0) ∧
      (s.gangs.map fun g => g.id).Nodup) ∧
    (let s := (List.range 12).foldl (fun s f => s.setFlue ⟨0, 0, f⟩ fun x => { x with railState := 2 }) (clustered fun c => { c with close := true })
     (s.cluster 0 0).close = true ∧ (s.cluster 0 0).pre = false ∧ (s.cluster 0 0).sleep = false ∧ (s.cluster 0 0).clock = .on ∧
      s.ceBusy 0 0 = false ∧ (∀ g ∈ s.gangs, ¬ (g.resident = true ∧ g.die = 0 ∧ g.clu = 0)) ∧
      ∀ f < 12, (s.flue ⟨0, 0, f⟩).railState = 2 ∧ (s.flue ⟨0, 0, f⟩).railTo = none) ∧
    (let s := clustered fun c => { c with close := true, sleep := true }
     (s.cluster 0 0).close = true ∧ (s.cluster 0 0).pre = false ∧ (s.cluster 0 0).sleep = true) ∧
    State.reset.h.at (dmKey 0) = true ∧
    -- the mailbox and the fault queue
    ((4 : Word).toNat % 16 = 4 ∧ (7 : Word).toNat % 16 ≤ 7 ∧ ¬ 4 ≤ (3 : Word).toNat % 16 ∧ ¬ (8 : Word).toNat % 16 ≤ 7) ∧
    (let m : Message := { message 1 with src := 0, seq := some 0xFFFF }
     let s := State.reset.setDie 0 fun d => { d with messages := [m] }
     m ∈ (s.die 0).messages ∧ m.answered = false ∧ m.src = 0 ∧ m.seq = some ((0x1FFFF : Word).toNat % 2 ^ 16) ∧
      ∀ y ∈ (s.die 0).messages, y ≠ m → y.answered = true) ∧
    -- one that waits for an inbox, and a host's with a reply ring at 0x5000
    (let m : Message := { message 1 with seq := none }
     let s := State.reset.setDie 0 fun d => { d with messages := [message 1, m, message 2] }
     let v : Word := 0x5004
     (s.die 0).messages = [message 1] ++ m :: [message 2] ∧ (∀ y ∈ [message 1] ++ [message 2], y.seq.isSome = true) ∧ v.toNat % 16 = 4 ∧
      v.toNat / 2 ^ 12 * 2 ^ 12 ≠ 0 ∧ v.toNat / 2 ^ 12 * 2 ^ 12 + 2 ^ 12 ≤ 2 ^ 42 ∧ ((s.die 0).mbxtail - (s.die 0).mbxhead).toNat < 2 ^ (v.toNat % 16) ∧
      ofBytes (s.mem.bytes (0x1000 + 24) 8) / 2 ^ 8 % 2 = 0 ∧ (s.die 0).reports = []) ∧
    (let s := { State.reset.setDie 0 (fun d => { d with messages := [message 1] }) with mem := words [(0x1018, 4), (0x1020, 0x5000)] }
     s.WellKept ∧ s.mem.intact (0x1000 / 64) ∧ (message 1).src = 1 ∧ (message 1).answered = false ∧ (message 1).seq = some 0 ∧
      ofBytes (s.mem.bytes (0x1000 + 24) 8) / 2 ^ 8 % 2 = 0 ∧ ofBytes (s.mem.bytes (0x1000 + 32) 8) % 64 = 0 ∧
      ofBytes (s.mem.bytes (0x1000 + 32) 8) + 2 ^ 18 ≤ 2 ^ 42 ∧ (ofBytes (s.mem.bytes (0x1000 + 32) 8) + 8 * (3 % 2 ^ 4)) / 64 ≠ 0x1000 / 64) ∧
    (State.reset.die 0).selected.queue = [] ∧ ((State.reset.setCtl 0 0 fun x => { x with queue := [5], ovf := true }).die 0).selected.queue = [5] := by
  refine ⟨?_, ?_, ?_, ?_, ?_, ?_, ?_, ?_, ?_, ?_, ?_, ⟨by delta State.WellKept; decide +kernel,
    by delta Mem.intact; decide +kernel, ?_⟩, ?_⟩ <;> decide +kernel

/-! ### Power, storage, scheduling, the host, the fabric -/

/-- A flue whose core 0 has drawn in the window that ends with this lane cycle. -/
def drawn (d : Rat) (f : FlueSt → FlueSt := id) : State :=
  { State.reset.setFlue ⟨0, 0, 0⟩ f with cores := [(coreOf place, { CoreSt.reset with draw := d, drawReal := d })], ticks := 126 }

/-- A die manager core's command with two words: its engine, its first word and where its descriptor stands. -/
def cmd (eng w0 : Nat) (w1 : Word := 0x8000) : Cmd :=
  ⟨0, eng, 3, true, BitVec.ofNat 64 w0, w1, 0, 0, true, 0, none, none, dmKey 0, none, false⟩

theorem witness_PowerSteps :
    -- a core that issues embers and one at its limit
    (State.reset.ticks / 2 % 64 ≠ 63 ∧ (State.reset.flue ⟨0, 0, 0⟩).railState = 0 ∧ (State.reset.flue ⟨0, 0, 0⟩).railTo = none ∧
      (State.reset.cluster 0 0).clock = .on ∧ CoreSt.reset.level.toNat + 192 < CoreSt.reset.gateCap.toNat ∧
      ¬ ({ CoreSt.reset with gateCap := 192 } : CoreSt).level.toNat + 192 < ({ CoreSt.reset with gateCap := 192 } : CoreSt).gateCap.toNat) ∧
    -- the last lane cycle of a window, balanced and not, damped and not
    ((drawn 0).ticks / 2 % 64 = 63 ∧ ((drawn 0).flue ⟨0, 0, 0⟩).held = false ∧ ((drawn 0).flue ⟨0, 0, 0⟩).damped = false ∧
      ((drawn 0 fun x => { x with held := true }).flue ⟨0, 0, 0⟩).held = true) ∧
    (((drawn 1000).core (coreOf place)).draw = 1000 ∧ FlueSt.reset.dmpt < 127 ∧ max (-128 : Int) (min 127 (((1000 - 250) * 128 / 250 : Rat).floor)) = 127 ∧
      max (-128 : Int) (min 127 (((0 - 250) * 128 / 250 : Rat).ceil)) = -128 ∧ (0 : Rat) < 250 * (128 - (FlueSt.reset.embt : Rat)) / 128) ∧
    (let F := (drawn 0 fun x => { x with damped := true, good := 3 }).flue ⟨0, 0, 0⟩
     F.damped = true ∧ F.good + 1 = F.dhold ∧ F.pending = none ∧ 0 < F.dhold ∧ FlueSt.reset.good + 1 ≠ FlueSt.reset.dhold) ∧
    ((user []).h.run = .running ∧ (user []).h.key.dm = false ∧ flueOf (coreOf (user []).h.key) = ⟨0, 0, 0⟩) ∧
    -- rails and clocks
    ((State.reset.flue ⟨0, 0, 0⟩).railTo = none ∧ ∀ n < 3, (({ FlueSt.reset with railTo := some n } : FlueSt).railTo) = some n) ∧
    ((State.reset.cluster 0 0).clock ≠ .starting ∧ (clustered fun c => { c with clock := .starting }).cluster 0 0 =
      { ClusterSt.reset with clock := .starting }) ∧
    -- a copy engine's commands of no known opcode and of one
    ([0, 8, 255].all (fun op => decide ((cmd 1 op).eng = 1 ∧ (cmd 1 op).key.clu = 0 ∧ (cmd 1 op).record = none ∧
      ((cmd 1 op).word0.toNat % 2 ^ 8 = 0 ∨ 8 ≤ (cmd 1 op).word0.toNat % 2 ^ 8))) && decide ((cmd 1 7).word0.toNat % 2 ^ 8 < 8)) = true := by
  refine ⟨?_, ?_, ?_, ?_, ?_, ?_, ?_, ?_⟩ <;> decide +kernel

/-- Memory with a line at 0x1000 whose bits flipped or that is marked. -/
def damaged (m : LineMeta) : State := { State.reset with mem := ⟨[], [(0x40, m)]⟩ }

theorem witness_StorageSteps :
    (State.reset.WellKept ∧ (damaged ⟨0, [0, 1], false, 0⟩).WellKept) ∧ (pkgOf (0x40 * 64) = State.reset.pkg ∧ controllerOf (0x40 * 64 % 2 ^ 42) = some (0, 0)) ∧
    ((State.reset.die 0).ctl[0]?).isSome = true ∧ ((State.reset.mem.line 0x40).flips = [] ∧ (State.reset.mem.line 0x40).marked = false) ∧
    -- bad beyond repair, marked, and one symbol to repair
    (((damaged ⟨0, [], true, 0⟩).mem.line 0x40).marked = true ∧ ((damaged ⟨0, [], true, 0⟩).mem.line 0x40).severity ≠ 0 ∧
      ((damaged ⟨0, [0, 100], false, 0⟩).mem.line 0x40).flips ≠ []) ∧
    (((damaged ⟨0, [3], false, 14⟩).mem.line 0x40).severity = 0 ∧ (badSymbols ((damaged ⟨0, [3], false, 14⟩).mem.line 0x40)).length = 1 ∧
      14 + 1 ≠ 16 ∧ ((damaged ⟨0, [3], false, 15⟩).mem.line 0x40).corr + 1 = 16) ∧
    -- a flip that its coding does not see, and a full fault queue
    (((damaged ⟨1, [0], false, 2⟩).mem.line 0x40).severity = 0 ∧ badSymbols ((damaged ⟨1, [0], false, 2⟩).mem.line 0x40) = [] ∧
      ¬ ({ MemCtl.reset with queue := List.replicate 64 0 } : MemCtl).queue.length < 64) ∧
    -- a line outside memory, and one of a scratchpad; the last parity bit of a tag, and one past it
    (inMemory (0x0F000000000 / 64 * 64) = false ∧ (∀ x ∈ [spadKey 0 1 2 0x40], x / 64 * 64 = x ∧ ¬ (pkgOf x = State.reset.pkg ∧ inMemory (x % 2 ^ 42) = true))) ∧
    (let bits (tag : Nat) : Nat := 544 + nth [0, 16, 16, 16, 8, 8, 16, 0, 0, 24] tag 0
     (∀ tag < 12, bits tag = 544 + parityBits tag) ∧ 543 < bits 7 ∧ bits 7 ≤ 544 ∧ 567 < bits 9 ∧ bits 9 ≤ 568) ∧
    ((11 < 12 ∧ 20 ≤ 20 ∧ 104 < 105 ∧ 105 ≤ 105 ∧ 255 < 256) ∧ State.reset.agenda = []) := by
  delta State.WellKept; refine ⟨?_, ?_, ?_, ?_, ?_, ?_, ?_, ?_, ?_, ?_⟩ <;> decide +kernel

/-- A launch of one gang, all of it left. -/
def leftLaunch (how : Leave) : Launch := { oneLaunch with left := [(0, how)] }

/-- A die manager core's module where it is the only launch, with a page table in reach. -/
def completing (l : Launch) : State := { State.reset with launches := [l] }

/-- Page tables that map the first gigabyte to itself, readable and writable by anyone. -/
def tables : Mem :=
  let next (t : Nat) : Nat := 1 + t / 4096 * 2 ^ 16 + 0xFFF * 2 ^ 52
  words [(0x10000, next 0x11000), (0x11000, next 0x12000), (0x12000, next 0x13000), (0x13000, 0xFF + 0xFFF * 2 ^ 52)]

/-- A member of a grove that was felled, with a page list not yet returned. -/
def felledMember : Member := ⟨none, false, true, some 0x3000, false, none, true, false⟩

/-- Its grove in slot 5. -/
def felledGrove : Grove := { fresh with members := [felledMember], n := 1 }

/-- A launch of four gangs of two harts, none placed yet. -/
def placed : Launch := { oneLaunch with record := { oneLaunch.record with ctl := 0x10004 }, placedAny := false }

/-- It stands at the head of device queue 0 of die 0. -/
def placing : State :=
  let s := scheduled 1 0 State.reset
  { s.setDie 0 (fun d => { d with headLaunch := d.headLaunch.set 0 (some 1), accepted := d.accepted.set 0 [0] }) with launches := [placed] }

theorem line_of_lineAt {s : State} {q : Nat} {p : QLine → Bool} (h : lineAt s q p = true) :
    ∃ y, s.qline 0 q = (some y, s) ∧ p y = true := by
  unfold lineAt at h
  split at h
  · rename_i y t e
    simp only [Bool.and_eq_true, decide_eq_true_eq] at h
    exact ⟨y, by rw [e, h.1], h.2⟩
  · cases h

theorem witness_Placement :
    (placing.gangs = [] ∧ placed.die = 0 ∧ placed.queue = 0 ∧ placed.prio = 0 ∧ (placing.die 0).headLaunch[0]? = some (some placed.id) ∧
      (∀ j < 64, j ≠ 0 → (placing.die 0).headLaunch[j]? ≠ some (some placed.id)) ∧ (placing.die 0).journal.isSome = true) ∧
    ((placing.die 0).hostTails = [] ∧ ∃ y, placing.qline 0 0 = (some y, placing) ∧ (y.en && !y.bad placing.pkg && y.prio == placed.prio &&
      decide (y.head < y.tail) && decide (y.tail = y.head + ((placing.die 0).waiting 0).length) && decide (y.cancel < 2 ^ 63)) = true) ∧
    (∀ j < 64, j ≠ 0 → ∃ y, placing.qline 0 j = (some y, placing) ∧ (!y.en && decide (y.cancel < 2 ^ 63)) = true) ∧
    (placed.left = [] ∧ placed.reason = 0 ∧ placed.cancelled = false ∧ placed.next < placed.record.ngang ∧ placed.record.groveN = 0 ∧
      placed.grove = none ∧ placed.record.pack = false ∧ placed.record.spad ≤ 64 ∧ placed.record.nbar ≤ 64 ∧
      ∀ e ∈ placed.record.waits, placed.record.waits.count e ≤ (placing.die 0).eventCount e) ∧
    ((placing.cluster 0 0).close = false ∧ (placing.cluster 0 0).sleep = false ∧ (placing.cluster 0 0).clock = .on ∧
      (∀ h ∈ placing.h :: placing.others, h.run = .running → h.key.dm = true) ∧
      (∀ c < 48, (placing.core (coreKey 0 0 c)).lgoff = 0 ∧ ∀ k < 8, (placing.core (coreKey 0 0 c)).lprCur.toNat / 16 ^ k % 16 < 8) ∧
      (∀ f < 12, (placing.flue ⟨0, 0, f⟩).railState = 0 ∧ (placing.flue ⟨0, 0, f⟩).railReq = 0 ∧ (placing.flue ⟨0, 0, f⟩).railTo = none) ∧
      ∀ y ∈ (placing.cluster 0 0).counters.toList, y.owner = none) := by
  refine ⟨?_, ⟨?_, line_of_lineAt (by decide +kernel)⟩, fun j hj h0 => line_of_lineAt
      ((by decide +kernel : ∀ j < 64, j ≠ 0 → lineAt placing j (fun y => !y.en && decide (y.cancel < 2 ^ 63)) = true) j hj h0), ?_, ?_⟩ <;> decide +kernel

/-- Launches that end with a reason, with gangs that failed, were killed, or were cancelled beside others. -/
def overs : List Launch :=
  [{ oneLaunch with reason := 1 }, leftLaunch (.failed 4), leftLaunch .killed,
    { oneLaunch with record := { oneLaunch.record with ctl := 3 }, left := [(0, .ended), (2, .felled), (1, .cancelled)], cancelled := true }].map fun l =>
    { l with ptroot := 0x10000, record := { l.record with save := 0x3000 } }

/-- Each is over, and its bitmap and its word can be written. -/
theorem witness_SchedulingSteps_words :
    (∀ l ∈ overs, let s : State := { completing l with mem := tables }
      let y := (agentXlat (l.ctx l.die) l.record.save .store 3).on s
      let w := y.2.writeAt 0x3000 (toBytes 8 0) (some 0)
      let x := (agentXlat (l.ctx l.die) l.record.done .store 3).on w
      s.launchOf l.id = some l ∧ (l.left.map Prod.fst).Nodup ∧ s.mem.wf = true ∧ s.cmds = [] ∧ s.gangs = [] ∧ l.grove = none ∧ l.ptroot ≠ 0 ∧
        l.record.save.toNat % 4096 + 8 * ((l.record.ctl.toNat % 2 ^ 16 + 63) / 64) ≤ 4096 ∧
        gives y ⟨0x3000, 0, false, false, false⟩ = true ∧ y.2.reachable l.die 0x3000 = true ∧ gives x ⟨0x2000, 0, false, false, false⟩ = true ∧
        x.2.reachable l.die 0x2000 = true ∧ (s.die l.die).journal = none) ∧
    (overs.map fun l => (l.reason, l.cancelled, l.left.map Prod.snd)) =
      [(1, false, []), (0, false, [.failed 4]), (0, false, [.killed]), (0, true, [.ended, .felled, .cancelled])] := by decide +kernel

theorem witness_SchedulingSteps :
    ((State.reset.die 0).journal = none ∧ (∀ q < 64, (State.reset.die 0).headLaunch[q]? = some none) ∧ State.reset.gangs = []) ∧
    (let s : State := { State.reset with launches := [oneLaunch] }
     s.launchOf oneLaunch.id = some oneLaunch ∧ oneLaunch.left.length ≠ oneLaunch.record.ctl.toNat % 2 ^ 16 ∧ oneLaunch.reason = 0 ∧
      oneLaunch.cancelled = false) ∧
    (∀ how ∈ [Leave.ended, .felled], let l := leftLaunch how
      (completing l).launchOf l.id = some l ∧ l.left.length = l.record.ctl.toNat % 2 ^ 16 ∧ (completing l).cmds = [] ∧ l.grove = none ∧
      l.reason = 0 ∧ l.cancelled = false ∧ (∀ p ∈ l.left, p.2 = Leave.ended ∨ p.2 = Leave.felled) ∧ l.die < 4) ∧
    (let l : Launch := { leftLaunch .ended with ptroot := 0x10000 }
     let s : State := { completing l with mem := tables }
     let t := ((agentXlat (l.ctx l.die) l.record.done .store 3).on s)
     s.WellKept ∧ l.ptroot ≠ 0 ∧ l.record.done.toNat % 8 = 0 ∧ gives t ⟨0x2000, 0, false, false, false⟩ = true ∧
      t.2.reachable l.die 0x2000 = true ∧ 0x2000 % 8 = 0 ∧ (s.die l.die).journal = none) ∧
    (let l : Launch := { oneLaunch with grove := some (0, 5, 0) }
     let s : State := { State.reset with launches := [l], groves := [felledGrove] }
     s.groveAt 5 = some felledGrove ∧ felledGrove.members[0]? = some felledMember ∧ l ∈ s.launches ∧ l.grove = some (s.pkg, 5, 0) ∧
      (∀ y ∈ s.launches, y = l) ∧ s.remoteLists = [] ∧
      0 < 0 + l.record.ctl.toNat % 2 ^ 16 ∧ felledMember.felled = true ∧ felledMember.gone = true ∧ felledMember.returned = false ∧
      felledMember.priv.isSome = true ∧ felledMember.gang = none) ∧
    ((∃ j < fresh.n, j ∉ fresh.felled ∧ (fresh.members[j]?.map fun y => y.gone) = some false) ∧
      (∀ y ∈ [{ felledMember with returned := true }], y.gone = true ∧ (y.priv = none ∨ y.felled = false ∨ y.returned = true)) ∧
      State.reset.groveAt 5 = none ∧ State.reset.remoteLists = []) := by
  refine ⟨?_, ?_, ?_, ⟨by delta State.WellKept; decide +kernel, ?_⟩, ?_⟩ <;> decide +kernel

/-- Die 0 with its host channel at 0x3000: one entry at 0x5000 to take, and an inbox at 0x6000. -/
def channelled : State :=
  let s := State.reset.setDie 0 fun d => { d with qcbase := 0x2000, mbxbase := 0x6004 }
  { s with mem := words [(0x3010, 0x5000), (0x3018, 0x103), (0x5000, 1), (0x5008, 2)] }

theorem witness_HostSteps :
    (({ State.reset with cxl256 := false } : State).cxl256 = false ∧ State.reset.cxl256 = true) ∧
    ((State.reset.die 0).journal = none ∧ (∀ d < 4, (State.reset.die d).journal = none) ∧ State.reset.WellKept ∧ 0x2028 % 8 = 0 ∧
      inMemory 0x2028 = true ∧ State.reset.reachable 0 0x2028 = true ∧ State.reset.mem.intact (0x2028 / 64)) ∧
    -- a cancel request for a launch that goes on, and for one cancelled with a gang that still runs
    (let s : State := { scheduled 1 1 State.reset with launches := [{ oneLaunch with seq := 7 }], gangs := [oneGang] }
     (s.die 0).journal.isSome = true ∧ (∀ y ∈ s.launches, y.id = oneLaunch.id ∧ y.die = 0 ∧ y.queue = 0 ∧ y.reason = 0 ∧
      y.seq.toNat = (7 : Word).toNat % 2 ^ 63 ∧ y.cancelled = false ∧ y.left.length ≠ y.record.ctl.toNat % 2 ^ 16) ∧
      (∃ g ∈ s.gangs, g.launch = ({ oneLaunch with cancelled := true } : Launch).id) ∧
      -- its line, its journal's, and the entry, which is free or still live
      (∀ a ∈ [0x2028, 0x4000, 0x4058], inMemory a = true ∧ s.reachable 0 a = true ∧ intactAt s (a / 64) = true ∧ intactAt journalFull (a / 64) = true) ∧
      ofBytes (s.mem.bytes 0x4000 8) = 0 ∧ ofBytes (s.mem.bytes 0x4058 8) / 2 ^ 8 % 8 = 0 ∧ ofBytes (journalFull.mem.bytes 0x4058 8) / 2 ^ 8 % 8 = 5) ∧
    -- the channel's line, its one message, and the inbox
    (let s := channelled
     s.WellKept ∧ (s.mem.intact (0x3000 / 64) ∧ s.mem.intact (0x5000 / 64)) ∧ s.reachable 0 0x3000 = true ∧ s.reachable 0 0x5000 = true ∧
      inMemory 0x3000 = true ∧ inMemory 0x5000 = true ∧ ofBytes (s.mem.bytes 0x3018 8) = 2 ^ 8 + 3 ∧ ofBytes (s.mem.bytes 0x3008 8) = 0 ∧
      ofBytes (s.mem.bytes 0x3010 8) = 0x5000 ∧ (s.die 0).reports = [] ∧ (s.die 0).messages = [] ∧ (s.die 0).inbox = some (0x6000, 4) ∧
      (s.die 0).hasRoom = true ∧ 0x6000 + 32 * 2 ^ 4 ≤ 2 ^ 42) ∧
    ofBytes (State.reset.mem.bytes 0x1018 8) / 2 ^ 8 % 2 = 0 ∧
    ((∀ a, 0x2000 ≤ a → a < 0x2001 → inMemory a = true) ∧ inMemory 0x0F000000000 = false) ∧
    -- messages: PING, RETIRE and KEYLOAD, well formed and not, trusted and not, and another code
    (let s (m : Message) := State.reset.setDie 0 fun d => { d with messages := [m] }
     ([1, 0x101, 2, 0x102, 3, 0x70003, 0x80003, 4, 127, 128, 255] : List Word).all (fun w => ((s (message w)).die 0).messages == [message w] &&
      (message w).seq.isSome && !(message w).answered) = true) ∧
    ((message 2).word1.toNat / 2 ^ 54 % 2 ^ 9 = 0 ∧ (message 2).word1.toNat / 2 ^ 4 % 2 ^ 8 = 0 ∧ (message 2).src = 1 ∧
      State.reset.badPages.length < 4096 ∧ 4096 ≤ (List.replicate 4096 (0 : Word)).length ∧
      ¬ (({ message 2 with src := 0, priv := false } : Message).src = 1 ∨ ({ message 2 with src := 0, priv := false } : Message).priv = true) ∧
      inMemory ((message 3).word1.toNat % 2 ^ 42 + 15) = true ∧ (message 0x180).word0.toNat / 2 ^ 8 % 2 ^ 8 ≠ 0 ∧
      State.reset.attested = false ∧ ({ State.reset with attested := true } : State).attested = true) ∧
    ((State.reset.die 0).messages = []) ∧
    -- a double-trap report with room for it, and none
    (let s := State.reset.setDie 0 fun d => { d with mbxbase := 0x5004, reports := [message 1] }
     (s.die 0).hasRoom = true ∧ (s.die 0).inbox = some (0x5000, 4) ∧ (s.die 0).reports = [] ++ message 1 :: [] ∧
      0x5000 + 32 * 2 ^ 4 ≤ 2 ^ 42 ∧ 0x5000 % 64 = 0 ∧ s.h.at (dmKey 0) = true ∧ (State.reset.die 0).hasRoom = false) := by
  refine ⟨?_, ⟨?_, ?_, by delta State.WellKept; decide +kernel, ?_, ?_, ?_, by delta Mem.intact; decide +kernel⟩, ?_,
    ⟨by delta State.WellKept; decide +kernel, by delta Mem.intact; decide +kernel, ?_⟩, ?_,
    ⟨fun a h1 h2 => by rw [show a = 0x2000 by omega]; decide +kernel, ?_⟩, ?_, ?_, ?_, ?_⟩ <;> decide +kernel

theorem witness_FabricSteps :
    (17 < 18 ∧ 1 ≠ State.reset.pkg) ∧ (0 < 4 ∧ 3 < 4 ∧ ¬ (0 < 4 ∧ 4 < 4 ∧ 0 ≠ 4)) ∧
    (let s : State := { State.reset with gangs := [{ oneGang with die := 3 }, { oneGang with id := 2, die := 3, resident := false }], launches := [oneLaunch] }
     (∀ y ∈ s.gangs, s.across 0 3 y = true) ∧ controllerOf 0x1000 = some (0, 0)) ∧
    (State.reset.WellKept ∧ (∀ x, 0x1000 ≤ x → x < 0x1000 + 1 → inMemory x = true ∧ State.reset.mem.intact (x / 64)) ∧ (1 : Nat) ≤ 64 ∧
      0x1000 % 8 = 0 ∧ ofBytes (State.reset.mem.bytes 0x1000 8) = (0 : Word).toNat ∧ ofBytes (State.reset.mem.bytes 0x1000 8) ≠ (1 : Word).toNat) ∧
    inMemory 0x0F000000000 = false ∧
    (let s : State := { State.reset with groves := [fresh] }
     s.groveAt 5 = some fresh ∧ fresh.winner = none ∧ fresh.noAnswer = false ∧ fresh.posts = [] ∧ fresh.members[2]? = some (memberOf none false) ∧
      (memberOf none false).posted = none ∧ (memberOf none false).left = false ∧ 1 < fresh.quorum ∧
      (fresh.members.filter fun x => x.posted.isSome || x.left).length + 1 < fresh.n) := by
  refine ⟨?_, ?_, ?_,
    ⟨by delta State.WellKept; decide +kernel, fun x h1 h2 => by
      rw [show x = 0x1000 by omega]; exact ⟨by decide +kernel, by delta Mem.intact; decide +kernel⟩,
      ?_, ?_, ?_, ?_⟩, ?_, ?_⟩ <;> decide +kernel

/-! ### Engines -/

/-- The key an address of a command goes to without translation: a window address in the cluster's scratchpads, or a bypassed one. -/
def landing (s : State) (c : Ctx) (va : Word) : Nat :=
  if inWindow va then spadKey c.die c.clu (windowCore va) (windowOff va) else s.pkg * 2 ^ 42 + va.toNat

/-- Whether it goes there, to a home that answers and an undisturbed line. -/
def landsIn (s : State) (c : Ctx) (va : Word) : Bool :=
  (if inWindow va then c.window && decide (windowCore va < 48) && (c.priv || inPartition c.sppart (windowCore va) (windowOff va))
    else bypasses c va) && s.reachable c.die (landing s c va) && intactAt s (landing s c va / 64)

theorem landing_line (s : State) (c : Ctx) (a : Word) : landing s c a % 64 = a.toNat % 64 := by
  unfold landing
  split
  · simp only [spadKey, spadBase, windowOff, field, natBits, Nat.shiftRight_eq_div_pow]; omega
  · omega

theorem landing_same_line (s : State) (c : Ctx) (a b : Word) (h : b.toNat / 64 = a.toNat / 64) :
    landing s c b / 64 = landing s c a / 64 := by
  have hw : inWindow b = inWindow a := by
    simp only [inWindow, field, natBits, Nat.shiftRight_eq_div_pow]
    rw [show b.toNat / 2 ^ 24 = a.toNat / 2 ^ 24 by omega]
  have hc : windowCore b = windowCore a := by
    simp only [windowCore, field, natBits, Nat.shiftRight_eq_div_pow]; omega
  unfold landing
  rw [hw, hc]
  split
  · simp only [spadKey, spadBase, windowOff, field, natBits, Nat.shiftRight_eq_div_pow]; omega
  · omega

theorem lets_of {s : State} {c : Ctx} {on : Word → Prop} (h : ∀ a, on a → landsIn s c a = true) (kind : Kind) (T : Nat → Prop) :
    s.Lets c kind T (landing s c) 0 on := by
  intro a ha
  have h := h a ha
  simp only [landsIn, Bool.and_eq_true] at h
  obtain ⟨⟨h1, h2⟩, h3⟩ := h
  refine ⟨landing_line s c a, fun b _ hb => landing_same_line s c a b hb, h2, intact_of h3, fun u hu => ?_⟩
  have hp : u.pkg = s.pkg := by have h := congrArg State.pkg hu.1; exact h
  by_cases hw : inWindow a = true
  · simp only [hw, if_true, Bool.and_eq_true, decide_eq_true_eq, Bool.or_eq_true] at h1
    refine ⟨⟨landing s c a, 0, false, false, true⟩, none, ?_, fun _ => dirtyM_none _ _ _, rfl, rfl, rfl, rfl⟩
    have hn : (!c.window || decide (48 ≤ windowCore a)) = false := by simp [h1.1.1, h1.1.2]
    have hq : (!c.priv && !inPartition c.sppart (windowCore a) (windowOff a)) = false := by
      rcases h1.2 with h | h <;> simp [h]
    simp only [resolve, hw, translateWindow, hn, hq, if_true, Bool.false_eq_true, if_false, landing]
    rw [M.on_bind_ok (M.on_pure u _), M.on_pure]
  · simp only [hw, Bool.false_eq_true, if_false] at h1
    refine ⟨bypass u a, none, resolve_of_bypasses h1 kind 0 u, fun _ => dirtyM_none _ _ _, ?_, rfl, rfl, rfl⟩
    simp only [bypass, landing, hw, Bool.false_eq_true, if_false, hp]

/-- The words of a descriptor. -/
def wordsOf (ws : List Nat) (i : Nat) : Word := BitVec.ofNat 64 (ws.getD i 0)

/-- Memory with a descriptor at 0x8000, and more. -/
def described (ws : List Nat) (more : List (Nat × Nat) := []) : Mem :=
  more.foldl (fun m p => m.store p.1 (toBytes 8 p.2)) (words ((List.range 8).map fun i => (0x8000 + 8 * i, ws.getD i 0)))

/-- The module with one command pushed. -/
def pushed (c : Cmd) (ws : List Nat) (more : List (Nat × Nat) := []) : State :=
  { State.reset with cmds := [c], mem := described ws more }

/-- The checks of `State.Next`. -/
def nextAt (s : State) (c : Cmd) (ws : List Nat) : Bool :=
  s.mem.wf && s.cmds == [c] && c.record.isNone && c.two && c.word1.toNat % 64 == 0 && (s.cluster c.key.die c.key.clu).clock == .on &&
    landsIn s c.ctx c.word1 &&
    (List.range 8).all fun i => s.mem.bytes (landing s c.ctx c.word1 + 8 * i) 8 == toBytes 8 (wordsOf ws i).toNat

theorem next_of {s : State} {c : Cmd} {ws : List Nat} (h : nextAt s c ws = true) : s.Next c [] (wordsOf ws) := by
  simp only [nextAt, Bool.and_eq_true, beq_iff_eq, Option.isNone_iff_eq_none, List.all_eq_true, List.mem_range] at h
  obtain ⟨⟨⟨⟨⟨⟨⟨h1, h2⟩, h3⟩, h4⟩, h5⟩, hc⟩, h6⟩, h7⟩ := h
  exact ⟨h1, h2, List.not_mem_nil, h3, h4, h5, hc, landing s c.ctx, lets_of (fun a ha => by rw [ha]; exact h6) _ _, h7⟩

/-- The address of byte `x` of row `j`. -/
def rowAt (base pitch : Word) (j x : Nat) : Word := base + BitVec.ofNat 64 j * pitch + BitVec.ofNat 64 x

/-- Whether every byte of some rows lands. -/
def rowsLand (s : State) (c : Ctx) (R N : Nat) (f : Nat → Nat → Word) : Bool :=
  (List.range R).all fun j => (List.range N).all fun x => landsIn s c (f j x)

theorem rows_let {s : State} {c : Ctx} {R N : Nat} {f : Nat → Nat → Word} (h : rowsLand s c R N f = true) (kind : Kind) (T : Nat → Prop)
    (p : Nat → Prop) : s.Lets c kind T (landing s c) 0 (fun a => ∃ j x, (j < R ∧ x < N) ∧ p j ∧ a = f j x) := by
  refine lets_of (fun a ha => ?_) kind T
  obtain ⟨j, x, ⟨hj, hx⟩, _, rfl⟩ := ha
  simp only [rowsLand, List.all_eq_true, List.mem_range] at h
  exact h j hj x hx

/-- The keys of the bytes of some rows, in order. -/
def keysOf (s : State) (c : Ctx) (R N : Nat) (f : Nat → Nat → Word) : List Nat :=
  (List.range R).flatMap fun j => (List.range N).map fun x => landing s c (f j x)

/-- The hypotheses that the clauses for moves share: the command is next; sources and destinations land; no destination byte is
another's or a source's. -/
def movesAt (s : State) (c : Cmd) (ws : List Nat) (R N : Nat) (src dst : Nat → Nat → Word) : Bool :=
  nextAt s c ws && rowsLand s c.ctx R N src && rowsLand s c.ctx R N dst && decide ((keysOf s c.ctx R N dst).Nodup) &&
    (keysOf s c.ctx R N src).all fun k => !(keysOf s c.ctx R N dst).contains k

theorem witness_moves {s : State} {c : Cmd} {ws : List Nat} {R N : Nat} {src dst : Nat → Nat → Word} (h : movesAt s c ws R N src dst = true)
    (T : Nat → Prop) (p : Nat → Prop) :
    s.Next c [] (wordsOf ws) ∧ s.Lets c.ctx .load T (landing s c.ctx) 0 (fun a => ∃ j x, (j < R ∧ x < N) ∧ p j ∧ a = src j x) ∧
    s.Lets c.ctx .store T (landing s c.ctx) 0 (fun a => ∃ j x, (j < R ∧ x < N) ∧ True ∧ a = dst j x) ∧
    (keysOf s c.ctx R N dst).Nodup ∧ ∀ k ∈ keysOf s c.ctx R N src, k ∉ keysOf s c.ctx R N dst := by
  simp only [movesAt, Bool.and_eq_true, decide_eq_true_eq, List.all_eq_true, Bool.not_eq_true', List.contains_eq_mem, decide_eq_false_iff_not] at h
  obtain ⟨⟨⟨⟨h1, h2⟩, h3⟩, h4⟩, h5⟩ := h
  exact ⟨next_of h1, rows_let h2 _ _ _, rows_let h3 _ _ _, h4, h5⟩

/-- `COPY` of two rows of one byte, `FILL` of one, `SPFILL` of one block by a hart of no gang. -/
theorem witness_EngineCopies_copies :
    (let ws := [0x1000, 0x2000, 0, 2, 0x40, 0x80, 0, 0]
     movesAt (pushed (cmd 1 (1 + 2 ^ 32)) ws) (cmd 1 (1 + 2 ^ 32)) ws 2 1 (rowAt 0x1000 0x40) (rowAt 0x2000 0x80) = true) ∧
    (let ws := [0x1234, 0x2000, 0, 1, 0, 0x80, 0, 0]
     movesAt (pushed (cmd 1 (6 + 2 ^ 32)) ws) (cmd 1 (6 + 2 ^ 32)) ws 1 1 (rowAt 0x1234 0) (rowAt 0x2000 0x80) = true) ∧
    (let ws := [0x1000, 0xFE00000000000000, 0, 1, 0, 0, 0, 0]
     let c := cmd 1 (7 + 256 * 2 ^ 32)
     (nextAt (pushed c ws) c ws = true ∧ c.key = dmKey 0 ∧ c.eng = 1 ∧ c.gang = none ∧ inWindow (wordsOf ws 1) = true ∧ windowCore (wordsOf ws 1) < 48 ∧
      (wordsOf ws 0).toNat % 256 = 0 ∧ (wordsOf ws 1).toNat % 256 = 0) ∧
      rowsLand (pushed c ws) c.ctx 1 256 (rowAt 0x1000 0) = true ∧ rowsLand (pushed c ws) c.ctx 1 256 (rowAt 0xFE00000000000000 0) = true ∧
      ∀ x < 256, landing (pushed c ws) c.ctx (rowAt 0xFE00000000000000 0 0 x) = spadKey 0 0 0 0 + x ∧
        landing (pushed c ws) c.ctx (rowAt 0x1000 0 0 x) = 0x1000 + x) := by decide +kernel

/-- The list of addresses or indexes that a command of a gather unit reads. -/
def listAt (s : State) (c : Cmd) (list : Word) (n : Nat) (ps : List Nat) : Bool :=
  (List.range ps.length).all fun u => landsIn s c.ctx (list + BitVec.ofNat 64 (n * u)) &&
    s.mem.bytes (landing s c.ctx (list + BitVec.ofNat 64 (n * u))) n == toBytes n (wordsOf ps u).toNat

theorem witness_list {s : State} {c : Cmd} {list : Word} {n : Nat} {ps : List Nat} (h : listAt s c list n ps = true) :
    (∀ u < ps.length, s.mem.bytes (landing s c.ctx (list + BitVec.ofNat 64 (n * u))) n = toBytes n (wordsOf ps u).toNat) ∧
    s.Lets c.ctx .load (fun _ => False) (landing s c.ctx) 0 (fun a => ∃ u < ps.length, a = list + BitVec.ofNat 64 (n * u)) := by
  simp only [listAt, List.all_eq_true, List.mem_range, Bool.and_eq_true, beq_iff_eq] at h
  exact ⟨fun u hu => (h u hu).2, lets_of (fun a ⟨u, hu, ha⟩ => by rw [ha]; exact (h u hu).1) _ _⟩

/-- `SPFILL` of one block by a hart of a resident gang whose set has room. -/
theorem witness_EngineCopies_installs :
    let ws := [0x1000, 0xFE00000000000000, 0, 1, 0, 0, 0, 0]
    let c := { cmd 1 (7 + 256 * 2 ^ 32) with gang := some 1, sppart := 0x0040FFFFFFFFFFFF }
    let s := { pushed c ws with gangs := [oneGang], others := [{ launched (Hart.start place) with sppart := c.sppart }] }
    nextAt s c ws = true ∧ s.gangOf 1 = some oneGang ∧ oneGang.deadSpad = false ∧ oneGang.copied = false ∧
      (∃ m ∈ s.members 1, m.sppart = c.sppart) ∧ (oneGang.die, oneGang.clu) = (c.key.die, c.key.clu) ∧ (s.cluster 0 0).clock = .on ∧ canonical (wordsOf ws 0) = true ∧
      inPartition c.sppart (windowCore (wordsOf ws 1)) (windowOff (wordsOf ws 1)) = true ∧ (s.core ⟨false, 0, 0, 0⟩).tags = [] ∧
      rowsLand s c.ctx 1 256 (rowAt 0x1000 0) = true ∧ rowsLand s c.ctx 1 256 (rowAt 0xFE00000000000000 0) = true := by decide +kernel

/-- `PGATHER` of sixteen bytes each from an address and from none, and `IGATHER` of two elements of each width. -/
theorem witness_EngineCopies_gathers :
    (let ws := [0x4000, 0x2000, 0x10, 16, 0x20, 0, 0, 0]
     let c := cmd 2 (1 + 2 * 2 ^ 32)
     let s := pushed c ws [(0x4000, 0x1000), (0x4008, 0)]
     listAt s c 0x4000 8 [0x1000, 0] = true ∧
     movesAt s c ws 2 16 (fun u x => wordsOf [0x1000, 0] u + 0x10 + BitVec.ofNat 64 x) (rowAt 0x2000 0x20) = true) ∧
    ((List.range 3).all fun iw => (List.range 4).all fun ew =>
      let ws := [0x4000, 0x2000, 0x1000, 0, 0, 0, 0, 0]
      let c := cmd 2 (2 + ew * 2 ^ 8 + iw * 2 ^ 12 + 2 * 2 ^ 32)
      let s := pushed c ws [(0x4000, 0x40 + 0x10 * 256 ^ 2 ^ (iw + 1))]
      listAt s c 0x4000 (2 ^ (iw + 1)) [0x40, if iw = 2 then 0 else 0x10] &&
      movesAt s c ws 2 (2 ^ ew) (fun u x => 0x1000 + wordsOf [0x40, if iw = 2 then 0 else 0x10] u + BitVec.ofNat 64 x)
        (rowAt 0x2000 (BitVec.ofNat 64 (2 ^ ew)))) = true := by decide +kernel

/-- `SEND` of one row of two samples, unmarked and marked by key 0. -/
theorem witness_EngineCopies_sends :
    let ws := [0x1000, 0x30000000000, 0x10002, 0, 0, 0, 0, 0]
    (let c := cmd 4 1
     movesAt (pushed c ws) c ws 1 2 (rowAt 0x1000 0) (rowAt 0x30000000000 0) = true ∧ (wordsOf ws 2).toNat % 2 ^ 16 = 2 ∧ (wordsOf ws 2).toNat / 2 ^ 16 = 1 ∧
      ∀ j < 1, ∀ x < 2, inWindow (rowAt 0x1000 0 j x) = false ∧ (pushed c ws).hostKey (landing (pushed c ws) c.ctx (rowAt 0x30000000000 0 j x)) = true) ∧
    (let c := cmd 4 (1 + 2 ^ 15)
     let s := { pushed c ws with keys := State.reset.keys.setIfInBounds 0 (some 7) }
     movesAt s c ws 1 2 (rowAt 0x1000 0) (rowAt 0x30000000000 0) = true ∧ s.keys[0]? = some (some 7)) ∧
    -- two marked samples of ten bits
    (let c := cmd 4 (1 + 2 ^ 8 + 2 ^ 15)
     let s := { pushed c ws with keys := State.reset.keys.setIfInBounds 0 (some 7) }
     movesAt s c ws 1 4 (rowAt 0x1000 0) (rowAt 0x30000000000 0) = true ∧ c.word0.toNat / 2 ^ 8 % 8 = 1) := by decide +kernel

/-- Pushes of a known and of an unknown opcode on each engine but the firmware's. -/
theorem witness_EngineCopies_pushes :
    let s := user [(5, 1), (6, 5), (7, 0)]
    s.h.lost = [] ∧ (s.cluster (s.cmdKey 1).die (s.cmdKey 1).clu).clock = .on ∧ (∀ e ∈ [1, 2, 3, 4], (s.h.fifo e).out ≠ 8) ∧ (s.rd 5).toNat % 2 ^ 8 = 1 ∧
      ¬ (1 ≤ (s.rd 6).toNat % 2 ^ 8 ∧ (s.rd 6).toNat % 2 ^ 8 ≤ 4) ∧ ¬ 1 ≤ (s.rd 7).toNat % 2 ^ 8 := by decide +kernel

/-- Whether a command stands alone, with no record yet, on a cluster whose clock runs. -/
def aloneAt (s : State) (c : Cmd) : Bool :=
  s.mem.wf && s.cmds == [c] && c.record.isNone && (s.cluster c.key.die c.key.clu).clock == .on

theorem alone_of {s : State} {c : Cmd} (h : aloneAt s c = true) :
    s.WellKept ∧ s.cmds = c :: [] ∧ c ∉ ([] : List Cmd) ∧ c.record = none ∧ (s.cluster c.key.die c.key.clu).clock = .on := by
  simp only [aloneAt, Bool.and_eq_true, beq_iff_eq, Option.isNone_iff_eq_none] at h
  exact ⟨h.1.1.1, h.1.1.2, List.not_mem_nil, h.1.2, h.2⟩

/-- `MARKCFG` from another core, clearing slot 3, and loading slot 3. -/
theorem witness_EngineCopies_keys :
    (let c := { cmd 4 (2 + 3 * 2 ^ 8) with key := place }
     aloneAt (pushed c []) c = true ∧ c.key.dm = false) ∧
    (let c := cmd 4 (2 + 3 * 2 ^ 8 + 2 ^ 11) 0
     aloneAt (pushed c []) c = true ∧ c.key.dm = true ∧ c.word0.toNat / 2 ^ 11 % 2 = 1) ∧
    (let c := cmd 4 (2 + 3 * 2 ^ 8) 0x1000
     aloneAt (pushed c []) c = true ∧ c.key.dm = true ∧ c.word0.toNat / 2 ^ 11 % 2 = 0 ∧
      rowsLand (pushed c []) c.ctx 1 16 (rowAt 0x1000 0) = true) := by decide +kernel

/-- A record of the current hart's command, no command, and a command that no engine knows. -/
theorem witness_EngineCopies_records :
    (let c := { cmd 2 1 with record := some 7 }
     (pushed c []).cmds = [c] ∧ c.record = some 7 ∧ c.uid = (pushed c []).h.uid ∧ c.eng < 6 ∧ dmKey 0 = (pushed c []).h.key ∧
      (pushed c []).h.run = .running ∧ ∀ z ∈ (pushed c []).others, z.uid ≠ c.uid) ∧
    State.reset.cmds = [] ∧
    (let c := cmd 2 8
     aloneAt (pushed c []) c = true ∧ c.uid = (pushed c []).h.uid ∧ 8 ≤ c.word0.toNat % 2 ^ 8 ∧
      dmKey 0 = (pushed c []).h.key ∧ (pushed c []).h.run = .running ∧ ∀ z ∈ (pushed c []).others, z.uid ≠ c.uid) := by decide +kernel

/-! ### Conversions: pages of layout 11 -/

/-- A package without failed links, alone in its domain, its host's window in reach. -/
def plainPackage (s : State) : Prop := s.pkg = 0 ∧ s.deadLinks = [] ∧ s.fabSize = 0 ∧ s.cxl256 = true

theorem key_plain {s : State} (hs : plainPackage s) (l : Nat) : s.pkg * 2 ^ 42 + l = l := by rw [hs.1, Nat.zero_mul, Nat.zero_add]

theorem reachable_plain {s : State} (hs : plainPackage s) (die l : Nat) (h : l < 2 ^ 42) : s.reachable die l = true := by
  have h1 : ¬ spadBase ≤ l := by unfold spadBase; omega
  have h2 : pkgOf l = s.pkg := by rw [hs.1]; exact Nat.div_eq_of_lt h
  simp only [State.reachable, h1, h2, if_true, if_false, hs.2.1, hs.2.2.2, List.contains_nil, Bool.not_false, Bool.true_or]
  split <;> rfl

theorem readTable_plain {s : State} (hs : plainPackage s) {l e : Nat} (h : l < 2 ^ 42) (ha : l % 64 = 0)
    (hi : (s.mem.line (l / 64)).flips = [] ∧ (s.mem.line (l / 64)).marked = false) (he : ofBytes (s.mem.bytes l 8) = e) (die : Nat) (va : Word)
    (kind : Kind) (lg : Nat) : (readTable die va kind lg l 8).on s = (.ok e, s) := by
  have hk := key_plain hs l
  have hr := reachable_plain hs die l h
  rw [← he]
  have := readTable_line (s := s) (die := die) (l := l) (n := 8) (by rw [hk]; exact hr) (by rw [hk]; exact hi)
      (by rw [hk]; omega) va kind lg
  rw [hk] at this
  exact this


/-- An entry of a table that goes on to the table at `t`. -/
def onTo (t : Nat) : Nat := 1 + t / 4096 * 2 ^ 16 + 0xFFF * 2 ^ 52

/-- A block of layout 11 with every permission, `A` and `D`, at frame 0. -/
def blockEntry : Nat := 0xBFF + 0xFFF * 2 ^ 52

/-- Page tables at 0x10000 that map the first 2^30 addresses to themselves in layout 11. -/
def giantAt (s : State) : Bool :=
  s.pkg == 0 && s.deadLinks.isEmpty && s.fabSize == 0 && s.cxl256 && s.mem.wf && cellGet s.mem.cells 0x12000 == 0xFF &&
    [(0x10000, onTo 0x11000), (0x11000, onTo 0x12000), (0x12000, blockEntry)].all fun p =>
      ofBytes (s.mem.bytes p.1 8) == p.2 && intactAt s (p.1 / 64)

/-- What the block gives. -/
def blockOf (c : Ctx) (va : Word) : TlbEntry := ⟨c.asid, va.toNat / 2 ^ 30 * 2 ^ 30, 30, 0, 0xBFF, 0, none, 0x12000, 1⟩

theorem resolve_giant {u : State} {c : Ctx} {va : Word} (h : giantAt u = true) (hc : c.tlb = none ∧ c.ptroot = 0x10000)
    (ha : va.toNat < 2 ^ 30) (kind : Kind) :
    (resolve c va kind 0).on u = (.ok (⟨va.toNat, 11, false, false, false⟩, some (blockOf c va)), u) := by
  simp only [giantAt, Bool.and_eq_true, beq_iff_eq, List.isEmpty_iff, List.all_cons, List.all_nil, and_true] at h
  obtain ⟨⟨⟨⟨⟨⟨h1, h2⟩, h3⟩, hx⟩, h4⟩, h5⟩, ⟨e1, i1⟩, ⟨e2, i2⟩, e3, i3⟩ := h
  have hp : plainPackage u := ⟨h1, h2, h3, hx⟩
  have m1 : u.malformed (onTo 0x11000) 3 = false := by
    simp only [State.malformed, State.badFrame, State.homePkg, h1]; rfl
  have m2 : u.malformed (onTo 0x12000) 2 = false := by
    simp only [State.malformed, State.badFrame, State.homePkg, h1]; rfl
  have m3 : u.malformed blockEntry 1 = false := by
    simp only [State.malformed, State.badFrame, State.homePkg, h1]; rfl
  have r1 := readTable_plain hp (l := 0x10000) (by decide) (by decide) (intact_of i1) e1 c.die va kind 0
  have r2 := readTable_plain hp (l := 0x11000) (by decide) (by decide) (intact_of i2) e2 c.die va kind 0
  have r3 := readTable_plain hp (l := 0x12000) (by decide) (by decide) (intact_of i3) e3 c.die va kind 0
  have f (lo : Nat) (hl : 30 ≤ lo) : field va lo 9 = 0 := field_high (Nat.lt_of_lt_of_le ha (Nat.pow_le_pow_right (by decide) hl))
  have w3 : (walkUpper c va kind 0 2 0x12000).on u = (.ok (.inl (blockOf c va)), u) := by
    have h := walkUpper_block (n := 1) (t := 0x12000) (i := 0) (f _ (by decide)) (by decide) r3 ⟨by decide +kernel, by decide +kernel, m3⟩
    rw [h, State.homePkg, h1]
    rfl
  have w2 : (walkUpper c va kind 0 3 0x11000).on u = (.ok (.inl (blockOf c va)), u) := by
    rw [walkUpper_next (n := 1) (t := 0x11000) (i := 0) (f _ (by decide)) (by decide) r2 ⟨by decide +kernel, by decide +kernel, m2⟩]
    exact w3
  have w1 : (walkUpper c va kind 0 4 0x10000).on u = (.ok (.inl (blockOf c va)), u) := by
    rw [walkUpper_next (n := 2) (t := 0x10000) (i := 0) (f _ (by decide)) (by decide) r1 ⟨by decide +kernel, by decide +kernel, m1⟩]
    exact w2
  have hk : (walk c va kind 0).on u = (.ok (blockOf c va), u) := walk_block (by rw [hc.2]; exact w1)
  have hw : inWindow va = false := by
    simp only [inWindow, field, natBits, Nat.shiftRight_eq_div_pow, beq_eq_false_iff_ne]; omega
  have hn : canonical va = true := by
    simp only [canonical, Nat.shiftRight_eq_div_pow, Bool.or_eq_true, beq_iff_eq]; omega
  have hb : (c.dm && field c.ptroot 12 30 == 0) = false := by rw [hc.2]; cases c.dm <;> rfl
  have hh : u.held c va = none := by unfold State.held; rw [hc.1]
  have hperm : (checkPerm c (blockOf c va) va kind 0).on u = (.ok (), u) := by
    cases kind <;> simp [checkPerm, blockOf, natBits]
  have hi : u.install c (blockOf c va) = u := by
    unfold State.install
    rw [hc.1]
    refine State.orByte_set (l := 0x12000) h4 ?_ ?_
    · rw [key_plain hp]; exact intact_of i3
    · rw [key_plain hp, h5]; rfl
  rw [resolve_walked hw hn hb hh hk hperm hi]
  have ho : va.toNat % 2 ^ 30 = va.toNat := Nat.mod_eq_of_lt ha
  simp only [TlbEntry.phys, blockOf, ho, Nat.zero_mul, Nat.zero_add]
  rfl

theorem dirty_giant (u : State) (c : Ctx) (va : Word) : (dirtyM c va (some (blockOf c va))).on u = (.ok (), u) := dirtyM_set rfl

/-- The tables stay while other bytes are written. -/
theorem giant_apart {s u : State} {T : Nat → Prop} (h : giantAt s = true) (hu : s.Apart T u)
    (hT : ∀ k, T k → k / 64 ≠ 0x400 ∧ k / 64 ≠ 0x440 ∧ k / 64 ≠ 0x480) : giantAt u = true := by
  obtain ⟨h1, h2, h3, _, h5⟩ := hu
  have e : u = { s with mem := u.mem } := by
    have := congrArg (fun x : State => { x with mem := u.mem }) h1; exact this
  have hb (l n : Nat) (hl : ∀ x < n, ¬ T (l + x)) : u.mem.bytes l n = s.mem.bytes l n := by
    refine List.ext_getElem? fun i => ?_
    by_cases hi : i < n
    · simp only [Mem.bytes, cellsGet_getElem _ _ _ _ hi, h3 _ (hl i hi)]
    · simp only [Mem.bytes]
      rw [List.getElem?_eq_none (by rw [cellsGet_length]; omega), List.getElem?_eq_none (by rw [cellsGet_length]; omega)]
  have hl (l : Nat) (hl : l = 0x400 ∨ l = 0x440 ∨ l = 0x480) : u.mem.line l = s.mem.line l :=
    h5 l fun k hk ht => by have := hT k ht; omega
  have n (l : Nat) (h : l / 64 = 0x400 ∨ l / 64 = 0x440 ∨ l / 64 = 0x480) (hm : l % 64 = 0) : ∀ x < 8, ¬ T (l + x) :=
    fun x hx ht => by have := hT _ ht; omega
  have hc : cellGet u.mem.cells 0x12000 = cellGet s.mem.cells 0x12000 := h3 _ (n 0x12000 (by decide) (by decide) 0 (by decide))
  have hp : u.pkg = s.pkg ∧ u.deadLinks = s.deadLinks ∧ u.fabSize = s.fabSize ∧ u.cxl256 = s.cxl256 := by
    rw [e]; exact ⟨rfl, rfl, rfl, rfl⟩
  simp only [giantAt, intactAt, List.all_cons, List.all_nil, Bool.and_true] at h ⊢
  rw [hp.1, hp.2.1, hp.2.2.1, hp.2.2.2, hc, hb 0x10000 8 (n _ (by decide) (by decide)), hb 0x11000 8 (n _ (by decide) (by decide)),
    hb 0x12000 8 (n _ (by decide) (by decide)), hl (0x10000 / 64) (by decide), hl (0x11000 / 64) (by decide), hl (0x12000 / 64) (by decide),
    show u.mem.wf = true from h2]
  simp only [Bool.and_eq_true] at h ⊢
  exact ⟨⟨⟨h.1.1.1, trivial⟩, h.1.2⟩, h.2⟩

/-- Where an engine's accesses land under these tables. -/
theorem lets_giant {s : State} {c : Ctx} (hs : giantAt s = true) (hc : c.tlb = none ∧ c.ptroot = 0x10000) (kind : Kind) {T : Nat → Prop}
    (hT : ∀ k, T k → k / 64 ≠ 0x400 ∧ k / 64 ≠ 0x440 ∧ k / 64 ≠ 0x480) {on : Word → Prop}
    (h : ∀ a, on a → (decide (a.toNat < 2 ^ 30) && intactAt s (a.toNat / 64)) = true) : s.Lets c kind T BitVec.toNat 11 on := by
  intro a ha
  have h := h a ha
  simp only [Bool.and_eq_true, decide_eq_true_eq] at h
  have g := hs
  simp only [giantAt, Bool.and_eq_true, beq_iff_eq, List.isEmpty_iff] at g
  refine ⟨rfl, fun b _ hb => hb, reachable_plain ⟨g.1.1.1.1.1.1, g.1.1.1.1.1.2, g.1.1.1.1.2,
    g.1.1.1.2⟩ _ _ (Nat.lt_trans h.1 (by decide)), intact_of h.2, fun u hu => ?_⟩
  exact ⟨_, _, resolve_giant (giant_apart hs hu hT) hc h.1 kind, fun _ => dirty_giant u c a, rfl, rfl, rfl, rfl⟩

/-- A command of the copy engine under these tables, with its descriptor in the scratchpad of core 0. -/
def paged (w0 : Nat) : Cmd := { cmd 1 w0 0xFE00000000000000 with ptroot := 0x10000 }

/-- The module with such a command pushed. -/
def pagedState (c : Cmd) (ws : List Nat) (more : List (Nat × Nat) := []) : State :=
  { State.reset with cmds := [c], mem := words ((List.range 8).map (fun i => (spadKey 0 0 0 0 + 8 * i, ws.getD i 0)) ++
      [(0x10000, onTo 0x11000), (0x11000, onTo 0x12000), (0x12000, blockEntry)] ++ more) }

/-- The line of each byte of a span below 2^30 is undisturbed and holds no table. -/
def openAt (s : State) (base : Word) (n : Nat) : Bool :=
  (List.range n).all fun x =>
    let l := (base + BitVec.ofNat 64 x).toNat / 64
    decide ((base + BitVec.ofNat 64 x).toNat < 2 ^ 30) && intactAt s l && l != 0x400 && l != 0x440 && l != 0x480

theorem lets_open {s : State} {c : Ctx} {d b : Word} {n m : Nat} (hs : giantAt s = true) (hc : c.tlb = none ∧ c.ptroot = 0x10000)
    (hd : openAt s d n = true) (hb : openAt s b m = true) (kind : Kind) :
    s.Lets c kind (fun k => ∃ x < n, k = (d + BitVec.ofNat 64 x).toNat) BitVec.toNat 11 (fun a => ∃ x < m, a = b + BitVec.ofNat 64 x) := by
  simp only [openAt, List.all_eq_true, List.mem_range, Bool.and_eq_true, bne_iff_ne, decide_eq_true_eq] at hd hb
  refine lets_giant hs hc kind (fun k hk => ?_) (fun a ha => ?_)
  · obtain ⟨x, hx, rfl⟩ := hk
    exact ⟨(hd x hx).1.1.2, (hd x hx).1.2, (hd x hx).2⟩
  · obtain ⟨x, hx, rfl⟩ := ha
    simp only [Bool.and_eq_true, decide_eq_true_eq]; exact (hb x hx).1.1.1

/-- The address of byte `x` of element `j` of width `w`. -/
def elAt (base : Word) (w j x : Nat) : Word := base + BitVec.ofNat 64 (j * w) + BitVec.ofNat 64 x

/-- `CONV` of two f32 to bf16, and `CONVEF` of them with bf16 residues. -/
theorem witness_EngineConversions_conv :
    (let ws := [0x1000, 0x2000, 0, 1, 0, 0, 0, 0]
     let c := cmd 1 (2 + 8 * 2 ^ 8 + 9 * 2 ^ 13 + 2 * 2 ^ 32)
     let s := pushed c ws [(0x1000, 0x3F8000003F800000)]
     nextAt s c ws = true ∧ rowsLand s c.ctx 2 4 (elAt 0x1000 4) = true ∧ rowsLand s c.ctx 2 2 (elAt 0x2000 2) = true ∧
     (keysOf s c.ctx 2 2 (elAt 0x2000 2)).Nodup ∧ (keysOf s c.ctx 2 4 (elAt 0x1000 4)).all (fun k => !(keysOf s c.ctx 2 2 (elAt 0x2000 2)).contains k) = true ∧
     Fmt.ofCode 8 = some (.flt fmtF32) ∧ Fmt.ofCode 9 = some (.flt fmtBF16) ∧ ((Fmt.flt fmtF32).read 0 0x3F800000).isSome = true ∧
     (∀ i < 2, ∀ x < 4, cellGet s.mem.cells (landing s c.ctx (elAt 0x1000 4 i x)) = BitVec.ofNat 8 (0x3F800000 / 256 ^ x))) ∧
    (let ws := [0x1000, 0x2000, 0x3000, 1, 0, 0, 0, 0]
     let c := cmd 1 (3 + 8 * 2 ^ 8 + 9 * 2 ^ 13 + 9 * 2 ^ 18 + 2 * 2 ^ 32)
     let s := pushed c ws [(0x1000, 0x3F8000003F800000)]
     nextAt s c ws = true ∧ rowsLand s c.ctx 2 4 (elAt 0x1000 4) = true ∧ rowsLand s c.ctx 2 2 (elAt 0x2000 2) = true ∧
     rowsLand s c.ctx 2 2 (elAt 0x3000 2) = true ∧ residueFmt 9 = some fmtBF16 ∧
     (keysOf s c.ctx 2 2 (elAt 0x2000 2) ++ keysOf s c.ctx 2 2 (elAt 0x3000 2)).Nodup ∧
     (keysOf s c.ctx 2 4 (elAt 0x1000 4)).all (fun k =>
       !(keysOf s c.ctx 2 2 (elAt 0x2000 2) ++ keysOf s c.ctx 2 2 (elAt 0x3000 2)).contains k) = true) := by
  constructor <;> decide +kernel

/-- `CONVEF` with `ACC` of three packed e2m1 to the same, with bf16 residues of 0.5 to add. -/
theorem witness_EngineConversions_packed :
    let ws := [0x1000, 0x2000, 0x3000, 1, 0, 0, 0, 0]
    let c := cmd 1 (3 + 13 * 2 ^ 8 + 13 * 2 ^ 13 + 9 * 2 ^ 18 + 2 ^ 27 + 3 * 2 ^ 32)
    let s := pushed c ws [(0x1000, 0xF42), (0x3000, 0x3F003F003F00)]
    nextAt s c ws = true ∧ rowsLand s c.ctx 1 2 (elAt 0x1000 2) = true ∧ rowsLand s c.ctx 1 2 (elAt 0x2000 2) = true ∧
      rowsLand s c.ctx 3 2 (elAt 0x3000 2) = true ∧ c.word0.toNat / 2 ^ 27 % 2 = 1 ∧ Fmt.ofCode 13 = some (.flt fmtE2M1) ∧
      (keysOf s c.ctx 1 2 (elAt 0x2000 2) ++ keysOf s c.ctx 3 2 (elAt 0x3000 2) ++ keysOf s c.ctx 1 2 (elAt 0x1000 2)).Nodup ∧
      (∀ i < 3, ((Fmt.flt fmtE2M1).read 0 (nth [2, 4, 15] i 0)).isSome = true ∧
        (cellGet s.mem.cells (landing s c.ctx (0x1000 + BitVec.ofNat 64 (i / 2)))).toNat / 16 ^ (i % 2) % 16 = nth [2, 4, 15] i 0 ∧
        ∀ x < 2, cellGet s.mem.cells (landing s c.ctx (elAt 0x3000 2 i x)) = BitVec.ofNat 8 (0x3F00 / 256 ^ x)) := by decide +kernel

/-- `COMP` of one byte into a block: PLAIN, nine bytes padded to sixteen. -/
theorem witness_EngineConversions_comp :
    let ws := [0x1000, 0x2000, 0, 1, 0, 0, 0, 0]
    let c := paged (4 + 2 ^ 32)
    let s := pagedState c ws [(0x1000, 7)]
    nextAt s c ws = true ∧ giantAt s = true ∧ openAt s 0x2000 16 = true ∧ openAt s 0x1000 1 = true ∧ cellGet s.mem.cells 0x1000 = 7 ∧
      encodeBlock 0 [7] = [0, 0, 1, 0, 0, 0, 0, 0, 7, 0, 0, 0, 0, 0, 0, 0] ∧ c.ctx.tlb = none ∧ c.ctx.ptroot = 0x10000 := by decide +kernel

/-- `DECOMP` of that block. -/
theorem witness_EngineConversions_decomp :
    let ws := [0x1000, 0x2000, 0, 1, 0, 0, 0, 0]
    let c := paged (5 + 2 ^ 32)
    let s := pagedState c ws [(0x1000, 0x10000), (0x1008, 7)]
    let bs : List Byte := [0, 0, 1, 0, 0, 0, 0, 0, 7]
    let b := BlockHead.ofWord (ofBytes (bs.take 8))
    nextAt s c ws = true ∧ giantAt s = true ∧ openAt s 0x2000 1 = true ∧ openAt s 0x1000 9 = true ∧ s.mem.bytes 0x1000 9 = bs ∧
      bs.length = 8 + b.body ∧ b.broken = false ∧ b.failure (some 0) (bs.drop 8) = none ∧ b.count = 1 := by decide +kernel

/-! ### Collectives -/

/-- A collective that joined as rank 0 of two, and the other rank's join. -/
def joint (w0 : Nat) (theirs : List Join) : State :=
  let c := { cmd 3 w0 with joined := true }
  { pushed c [] with joins := ⟨9, 0, c.word0, 2, 1, [0, 1], [], some (0, 3, 0x1000, 0x2000)⟩ :: theirs }

/-- Rank 1's join. -/
def theirs (w0 : Nat) (data : List Byte) : Join := ⟨9, 1, BitVec.ofNat 64 w0, 2, 1, [0, 1], data, none⟩

/-- The first join of `DBAR`; joined while rank 1 is missing; rank 1 joined differently; `DBAR` complete. -/
theorem witness_Collectives_joins :
    (let ws := [0, 0, 0x4000, 2, 9, 0, 0, 0]
     let c := cmd 3 4
     let s := pushed c ws [(0x4000, 0x10000)]
     nextAt s c ws = true ∧ s.joins = [] ∧ c.joined = false ∧ c.word0 = 4 ∧ s.unreachable = [] ∧ s.pkg ∈ [0, 1] ∧ [0, 1].Nodup ∧
      rowsLand s c.ctx 1 4 (rowAt 0x4000 0) = true ∧ s.mem.bytes 0x4000 4 = [0, 0, 1, 0]) ∧
    ((joint 4 []).joins.length = 1 ∧ ((joint 4 []).cluster 0 0).clock = .on ∧ (joint 4 []).unreachable = [] ∧ (joint 4 []).mem.wf = true) ∧
    ((theirs 0x104 []).word0 ≠ (cmd 3 4).word0 ∧ (theirs 0x104 []).tag = 9 ∧ (theirs 0x104 []).own = none) ∧
    ((theirs 4 []).word0 = (cmd 3 4).word0 ∧ (theirs 4 []).n = 2 ∧ (theirs 4 []).root = 1 ∧ (theirs 4 []).list = [0, 1] ∧ (theirs 4 []).rank = 1) ∧
    ([theirs 4 []].map Join.rank).Nodup :=
  by decide +kernel

/-- `BCAST` and `ALLGATH` of two bytes, `ALLRED` of one 32-bit integer: rank 0 gives zeros from memory. -/
theorem witness_Collectives_data :
    [(2 + 2 * 2 ^ 32, 2, 2), (3 + 2 * 2 ^ 32, 2, 4), (1 + 2 * 2 ^ 8 + 2 ^ 32, 4, 4), (1 + 6 * 2 ^ 8 + 2 ^ 32, 4, 4)].all (fun p =>
      let x := theirs p.1 (List.replicate p.2.1 5)
      let s := joint p.1 [x]
      let c := { cmd 3 p.1 with joined := true }
      s.cmds == [c] && s.mem.wf && s.joins.length == 2 && (s.joins.drop 1).find? (fun x => x.rank == 1) == some x &&
        x.data.length == p.2.1 && s.mem.bytes (landing s c.ctx 0x1000) p.2.1 == List.replicate p.2.1 0 &&
        rowsLand s c.ctx 1 p.2.1 (rowAt 0x1000 0) && rowsLand s c.ctx 1 p.2.2 (rowAt 0x2000 0) &&
        decide ((keysOf s c.ctx 1 p.2.2 (rowAt 0x2000 0)).Nodup)) = true := by decide +kernel

/-! ### Worked examples of the spec -/

/-- What a step leaves, as some check. -/
def leaves (o : Host.Outcome State Fault Refusal) (p : State → Bool) : Bool :=
  match o with
  | .next t => p t
  | _ => false

/-- A sum wraps modulo 2^64 (R82). -/
theorem test_add_wraps : leaves (exec (.add 7 5 6) (made [(5, 0xFFFFFFFFFFFFFFFF), (6, 2)])) (fun t => t.rd 7 == 1 && t.h.pc == 4) = true := by
  decide +kernel

/-- Core 5's byte 0x1000 (after R217). -/
theorem test_window_address : (inWindow 0xFE00000000141000 && windowCore 0xFE00000000141000 == 5 && windowOff 0xFE00000000141000 == 0x1000) = true := by
  decide

/-- The first example of R48: 0.75 and then 5 give 23 with exponent 158. -/
theorem test_a96_exact :
    let a := (A96.zero.step [⟨.fin false 3 (-2), false⟩]).1
    a = ⟨158, 3⟩ ∧ a.step [⟨.fin false 5 0, false⟩] = (⟨158, 23⟩, 0) ∧ (⟨158, 23⟩ : A96).toBits = 0x9E0000000000000000000017 := by decide

/-- The second example of R48: order A loses what order B keeps. -/
theorem test_a96_order :
    let big : List Prod := [⟨.fin false 1 40, false⟩]
    let small : List Prod := [⟨.fin false 1 (-46), false⟩]
    (((A96.zero.step big).1.step small).1.step small) = (⟨115, 2 ^ 85⟩, Fl.nx) ∧
      (((A96.zero.step small).1.step small).1.step big) = (⟨115, 2 ^ 85 + 1⟩, 0) ∧
      (⟨115, 2 ^ 85 + 1⟩ : A96).toBits = 0x732000000000000000000001 := by decide +kernel

/-- The example of R55: f32 1.5, NaN, 300.0 and -7.2 to i8. -/
theorem test_vcvt_f32_i8 : ([0x3FC00000, 0x7FC00000, 0x43960000, 0xC0E66666].map (convertElem (.flt fmtF32) (.int 8) ⟨.rne, 0⟩)) =
    [some ⟨2, Fl.nx, false⟩, some ⟨0, Fl.nv, true⟩, some ⟨127, Fl.nv, false⟩, some ⟨0xF9, Fl.nx, false⟩] := by decide +kernel

/-- The example of R45. -/
theorem test_l8 : l8Components 0x0325 0x75310246 = [.fin false 13 (-2), .fin true 9 (-2), .fin false 5 (-2), .fin false 1 (-2),
    .fin true 3 (-2), .fin false 7 (-2), .fin false 11 (-2), .fin false 15 (-2)] := by decide

/-- The example of R116: three merged runs. -/
theorem test_vadd_runs :
    let s := vectors [] fun h => { withRows 2 [(2, .run [(7, 5), (0, 3), (0xFFFFFFFD, 8)]), (3, .run [(1, 8), (2, 8)])] h with vl := 16, rc := 1 }
    leaves (exec (.vaddVV 4 2 3 0 0) s) (fun t => (t.h.vreg 4).row == .run [(8, 5), (1, 3), (0xFFFFFFFF, 8)]) = true := by decide +kernel

/-- The example of R122: the division stops at the zero run. -/
theorem test_vdiv_stops :
    let s := vectors [] fun h => { withRows 2 [(2, .run [(7, 5), (0, 3), (0xFFFFFFFD, 8)]), (4, .run [(8, 5), (1, 3), (0xFFFFFFFF, 8)]), (6, .plain [])] h
      with vl := 16, rc := 1, vcfg := 0x202 }
    leaves (exec (.vdivVV 6 4 2 0 0) s) (fun t => t.h.tcause == 7 && t.h.tval == 0 && t.h.tinfo == 3 && t.h.vsi == 5 && t.h.vsr == 0 &&
      (t.h.vreg 6).row == .plain (List.replicate 5 1 ++ List.replicate 11 0)) = true := by decide +kernel

/-- The block after R289: 40 times 5 and 24 times 9. -/
theorem test_block : (encodeBlock 2 (List.replicate 40 5 ++ List.replicate 24 9)).take 18 =
    toBytes 8 0x00000002000A3F09 ++ [5, 0, 0, 0, 9, 0, 0, 0, 0x27, 0x17] := by decide +kernel

/-- The example of R353: 1.0, 2^24, 1.0 and -2^24 sum to 1.0 with `NX`. -/
theorem test_allred : (collOf (cmd 3 (0x801 + 2 ^ 32)) [0, 0, 0, 4, 0, 0, 0, 0]).result
    ([0x3F800000, 0x4B800000, 0x3F800000, 0xCB800000].map (toBytes 4)) = (toBytes 4 0x3F800000, 0x10) := by decide +kernel

/-- An infinity becomes the largest finite e4m3 with `OF` and `NX` (R52). -/
theorem test_infinity_e4m3 : convertElem (.flt fmtF32) (.flt fmtE4M3) ⟨.rne, 0⟩ 0x7F800000 = some ⟨0x7E, Fl.of ||| Fl.nx, false⟩ := by decide

/-- All code on a die manager core runs privileged, after `TRET` too (R5). -/
theorem test_tret_manager : leaves (exec .tret State.reset) (fun t => t.h.priv) = true := by decide +kernel

/-- `SPZERO` checks its operand before the address's alignment (R70). -/
theorem test_spzero_order : leaves (exec (.spzero 5 6) (user [(5, 0xFE00000000000020), (6, 32)])) (fun t => t.h.tcause == 0x0B) = true := by
  decide +kernel

/-- A store that commits with its access still to be performed (R139). -/
theorem test_deferred_store :
    let s : State := { State.reset.withFetchWord 32 (encode (.sd 0 0 64)).toNat with agenda := [.defer State.reset.h.key] }
    leaves (step s) (fun t => t.h.pc == 4 && t.h.late.length == 1) = true := by decide +kernel

end Sys2Proof.Tests
end

section
/-! PROOFS. The state after module reset, the return from a trap, and what the system registers give and take. -/

namespace Sys2Proof.Machine

/-! ### Reset and the return from a trap -/

theorem exec_tret (s : State) : exec .tret s = execTret s := rfl

/-- Settles O26: by level, what `tret` does (R109). -/
theorem trapReturn : Obligations.TrapReturn := by
  unfold Obligations.TrapReturn
  intro s
  rw [exec_tret, execTret]
  exact ⟨fun hp => if_pos hp, fun hp => if_neg (by simp [hp])⟩

/-- What a die manager core holds after module reset: privileged, with the values of a hart start. -/
theorem Hart.dm_registers (d : Nat) :
    let h := Hart.dm d
    h.priv = true ∧ h.run = .running ∧ h.vcfg = 2 ∧ h.vl = 0 ∧ h.rc = 1 ∧ h.fflags = 0 ∧
    h.tsave = 2 ∧ h.ih = false ∧ h.event = 0 ∧ h.evmask = 0 ∧ h.timecmp = BitVec.allOnes 64 ∧
    (∀ r : Reg, h.rd r = 0) ∧ h.mm = false ∧ h.tbn = 0 ∧ h.vsi = 0 ∧ h.vsr = 0 ∧ h.vsp = 0 ∧ h.viq = [] ∧ h.front = none ∧
    h.late = [] ∧ h.tcause = 0 ∧ h.tval = 0 ∧ h.tpc = 0 ∧ h.tinfo = 0 := by
  have hrd (r : Reg) : (Hart.dm d).rd r = 0 := by simp [Hart.rd, Hart.dm, Hart.start]
  exact ⟨rfl, rfl, rfl, rfl, rfl, rfl, rfl, rfl, rfl, rfl, rfl, hrd, rfl, rfl, rfl, rfl, rfl, rfl, rfl, rfl, rfl, rfl, rfl, rfl⟩

theorem State.die_reset {d : Nat} (hd : d < 4) : State.reset.die d = Die.reset := by
  simp [State.die, State.reset, hd]

/-- Settles O5: every hart of the reset module is a die manager core, and every die a reset die. -/
theorem resetState : Obligations.ResetState := by
  unfold Obligations.ResetState
  intro s
  have hharts : ∀ h ∈ s.h :: s.others, ∃ d, h = Hart.dm d := by
    intro h hh
    have : h = Hart.dm 0 ∨ h = Hart.dm 1 ∨ h = Hart.dm 2 ∨ h = Hart.dm 3 := by simpa [s, State.reset] using hh
    rcases this with rfl | rfl | rfl | rfl <;> exact ⟨_, rfl⟩
  refine ⟨rfl, rfl, ?_, ?_, fun _ => rfl, rfl, rfl, rfl, rfl⟩
  · intro h hh
    obtain ⟨d, rfl⟩ := hharts h hh
    exact Hart.dm_registers d
  · intro d hd
    rw [State.die_reset hd]
    exact ⟨rfl, rfl, rfl, rfl, rfl, rfl, rfl⟩

/-! ### Access (R97) -/

theorem exec_getsr (d : Reg) (n : BitVec 9) (s : State) : exec (.getsr d n) s = execGetsr d n s := rfl
theorem exec_putsr (a : Reg) (n : BitVec 9) (s : State) : exec (.putsr a n) s = execPutsr a n s := rfl
theorem exec_swapsr (d a : Reg) (n : BitVec 9) (s : State) : exec (.swapsr d a n) s = execSwapsr d a n s := rfl
theorem exec_setsrb (d a : Reg) (n : BitVec 9) (s : State) : exec (.setsrb d a n) s = execSetsrb d a n s := rfl
theorem exec_clrsrb (d a : Reg) (n : BitVec 9) (s : State) : exec (.clrsrb d a n) s = execClrsrb d a n s := rfl

/-- A register number below 0x100, or any at privileged level, is within the level's reach. -/
theorem State.reaches {s : State} {n : Nat} (hr : n < 0x100 ∨ s.h.priv = true) : (decide (0x100 ≤ n) && !s.h.priv) = false := by
  rcases hr with hn | hp
  · rw [decide_eq_false (Nat.not_le_of_lt hn), Bool.false_and]
  · rw [hp, Bool.not_true, Bool.and_false]

/-- A register within reach that exists passes the check. -/
theorem State.srCheck_reached {s : State} {n : Nat} (hr : n < 0x100 ∨ s.h.priv = true) (ha : assigned s.h.key.dm n = true)
    (enc : Word) : s.srCheck n enc = none := by
  simp only [State.srCheck, State.reaches hr, ha, Bool.not_true, Bool.false_eq_true, if_false]

/-- A register write as a change of the register file alone. -/
theorem Hart.wr_eq (h : Hart) (d : Reg) (v : Word) :
    h.wr d v = { h with x := if d = 0 then h.x else h.x.set d.toNat v d.isLt } := by
  unfold Hart.wr
  split <;> rfl

/-- Writing a result is writing `D` and going on four bytes further. -/
theorem State.result_eq_wrote (s : State) (d : Reg) (v : Word) : s.result d v = .next (s.wrote d v 4) := by
  simp only [State.result, State.wr, State.adv, Hart.wr_eq]
  rfl

/-- The registers whose bits clear by writing 1 are `EVENT` and `UVPIN`. -/
theorem w1c_iff (n : BitVec 9) : w1c n.toNat = true ↔ n = 0x040 ∨ n = 0x15B := by
  simp [w1c, ← BitVec.toNat_inj]

/-- Out of the level's reach, a register number raises PRIV. -/
theorem State.srCheck_priv {s : State} {n : Nat} (hn : 0x100 ≤ n) (hp : s.h.priv = false) (enc : Word) :
    s.srCheck n enc = some (.next (s.takeTrap 0x03 enc 0 s.h.pc)) := by
  simp only [State.srCheck, hn, hp, decide_true, Bool.not_false, Bool.and_self, if_true]
  rfl

/-- Within reach, an unassigned number raises ILLOP. -/
theorem State.srCheck_unassigned {s : State} {n : Nat} (hr : n < 0x100 ∨ s.h.priv = true) (ha : assigned s.h.key.dm n = false)
    (enc : Word) : s.srCheck n enc = some (.next (s.takeTrap 0x01 enc 0 s.h.pc)) := by
  simp only [State.srCheck, State.reaches hr, ha, Bool.not_false, Bool.false_eq_true, if_false, if_true]
  rfl

/-- Where the check of the register number fails, each of the five instructions ends as the check says. -/
theorem sys_checked {s : State} {d a : Reg} {n : BitVec 9} {r : Word → Out}
    (hc : ∀ enc, s.srCheck n.toNat enc = some (r enc)) :
    ∀ i ∈ [Instr.getsr d n, .putsr a n, .swapsr d a n, .setsrb d a n, .clrsrb d a n], exec i s = r (encode i) := by
  simp only [List.forall_mem_cons, exec_getsr, exec_putsr, exec_swapsr, exec_setsrb, exec_clrsrb, execGetsr, execPutsr,
    execSwapsr, execSetsrb, execClrsrb, hc]
  exact ⟨rfl, rfl, rfl, rfl, rfl, by simp⟩

/-- What a read and write does: the old value goes to `D` where the register takes the new one, and OPND has it where not. -/
theorem State.srModify_some {s : State} {d : Reg} {n : Nat} {v : Word} :
    (∀ t, s.srWrite n v = some t → s.srModify d n (some v) = .next ((t.srReadEffect n).wrote d (s.srValue s.h n) 4)) ∧
    (s.srWrite n v = none → s.srModify d n (some v) = .next (s.takeTrap 0x0B v 1 s.h.pc)) := by
  constructor
  · intro t ht
    simp only [State.srModify, ht, State.result_eq_wrote]
  · intro hw
    simp only [State.srModify, hw]
    rfl

/-- Settles O22: the check of the register number comes first, and read, write and both are said once for all five instructions. -/
theorem systemRegisterAccess : Obligations.SystemRegisterAccess := by
  unfold Obligations.SystemRegisterAccess
  refine ⟨fun s d a n hr ha => ?_, fun s d a n i hi => ⟨fun hn hp => ?_, fun hr ha => ?_⟩⟩
  · intro old A clears puts
    have hc := State.srCheck_reached hr ha
    have hputs {i : Instr} {v : Word} (h : exec i s = s.srModify d n.toNat (some v)) : puts i v := by
      simp only [puts, h]
      exact State.srModify_some
    refine ⟨?_, fun t ht => ?_, fun hw => ?_, ?_, fun hn => ?_, fun hn => ?_⟩
    · rw [exec_getsr, execGetsr, hc, ← State.result_eq_wrote]
    · rw [exec_putsr, execPutsr, hc]
      simp only [State.srWriteInstr, A, ht]
      rfl
    · rw [exec_putsr, execPutsr, hc]
      simp only [State.srWriteInstr, A, hw]
      rfl
    · exact hputs (by rw [exec_swapsr, execSwapsr, hc])
    · have hw : w1c n.toNat = false := Bool.eq_false_iff.mpr fun e => hn ((w1c_iff n).mp e)
      exact ⟨hputs (by simp only [exec_setsrb, execSetsrb, hc, hw]; rfl),
        hputs (by simp only [exec_clrsrb, execClrsrb, hc, hw]; rfl)⟩
    · have hw : w1c n.toNat = true := (w1c_iff n).mpr hn
      refine ⟨?_, hputs (by simp only [exec_clrsrb, execClrsrb, hc, hw]; rfl)⟩
      rw [exec_setsrb, execSetsrb, hc, ← State.result_eq_wrote]
      simp only [hw]
      rfl
  · exact sys_checked (r := fun enc => .next (s.takeTrap 0x03 enc 0 s.h.pc)) (State.srCheck_priv hn hp) i hi
  · exact sys_checked (r := fun enc => .next (s.takeTrap 0x01 enc 0 s.h.pc)) (State.srCheck_unassigned hr ha) i hi

/-! ### Writes (R8) -/

theorem field_bit (v : Word) (n : Nat) : field v n 1 = (v.getLsbD n).toNat := by
  simp [field, natBits, BitVec.getLsbD, Nat.shiftRight_eq_div_pow, Nat.toNat_testBit]

/-- `VMAX` as the register reads it does not look at the gang (R110): only at the hart's own lane groups. -/
theorem State.vmax_own_groups (s : State) (h : Hart) (c : Word) :
    s.vmax h (c &&& ~~~0x800) = 256 * (s.groups h.key).length * 2 ^ field (c &&& ~~~0x800) 3 2 / 2 ^ field (c &&& ~~~0x800) 0 2 := by
  have hgs : ¬ field (c &&& ~~~0x800) 11 1 = 1 := by
    rw [field_bit]
    simp
  simp only [State.vmax, if_neg hgs]

/-- Two harts that a read of register `n` does not tell apart: they differ at most in registers that software writes whole, and
not in the one read. Of a hart given as an update of `h`, only the fields that the update touches need a proof. -/
structure Hart.ReadsAlike (n : Nat) (g h : Hart) : Prop where
  rest : { g with
    vsi := h.vsi, vsr := h.vsr, vsp := h.vsp, dl := h.dl, dt := h.dt, fflags := h.fflags, xlist := h.xlist, xcount := h.xcount
    xlimit := h.xlimit, evmask := h.evmask, tvec := h.tvec, tcause := h.tcause, tval := h.tval, tpc := h.tpc, tinfo := h.tinfo
    ih := h.ih, pprv := h.pprv, tscr := h.tscr } = h := by rfl
  vsi : n = 0x004 → g.vsi = h.vsi := by exact fun _ => rfl
  vsr : n = 0x005 → g.vsr = h.vsr := by exact fun _ => rfl
  vsp : n = 0x006 → g.vsp = h.vsp := by exact fun _ => rfl
  dl0 : n = 0x008 → g.dl[0] = h.dl[0] := by exact fun _ => rfl
  dl1 : n = 0x009 → g.dl[1] = h.dl[1] := by exact fun _ => rfl
  dl2 : n = 0x00A → g.dl[2] = h.dl[2] := by exact fun _ => rfl
  dt0 : n = 0x00C → g.dt[0] = h.dt[0] := by exact fun _ => rfl
  dt1 : n = 0x00D → g.dt[1] = h.dt[1] := by exact fun _ => rfl
  dt2 : n = 0x00E → g.dt[2] = h.dt[2] := by exact fun _ => rfl
  fflags : n = 0x010 → g.fflags = h.fflags := by exact fun _ => rfl
  xlist : n = 0x011 → g.xlist = h.xlist := by exact fun _ => rfl
  xcnt : n = 0x012 → g.xlimit ++ g.xcount = h.xlimit ++ h.xcount := by exact fun _ => rfl
  evmask : n = 0x041 → g.evmask = h.evmask := by exact fun _ => rfl
  tvec : n = 0x100 → g.tvec = h.tvec := by exact fun _ => rfl
  tcause : n = 0x101 → g.tcause = h.tcause := by exact fun _ => rfl
  tval : n = 0x102 → g.tval = h.tval := by exact fun _ => rfl
  tpc : n = 0x103 → g.tpc = h.tpc := by exact fun _ => rfl
  tinfo : n = 0x104 → g.tinfo = h.tinfo := by exact fun _ => rfl
  tstat : n = 0x105 → b2n g.pprv + 2 * b2n g.ih = b2n h.pprv + 2 * b2n h.ih := by exact fun _ => rfl
  tscr : n = 0x106 → g.tscr = h.tscr := by exact fun _ => rfl

/-- A read of a register depends on nothing of the current hart but what that register names. -/
theorem State.srValue_alike (s : State) {n : Nat} {g h : Hart} (a : Hart.ReadsAlike n g h) :
    ({ s with h := g } : State).srValue g n = s.srValue h n := by
  have hmax : BitVec.ofNat 64 (({ s with h := g } : State).vmax g (g.vcfg &&& ~~~0x800)) =
      BitVec.ofNat 64 (s.vmax h (h.vcfg &&& ~~~0x800)) := by
    rw [State.vmax_own_groups, State.vmax_own_groups, ← a.rest]
    rfl
  have wide {k : Nat} {x y : BitVec k} (e : x = y) : x.setWidth 64 = y.setWidth 64 := congrArg _ e
  rw [← a.rest] at hmax ⊢
  unfold State.srValue
  split
  -- `h_n` is the n-th register of `srValue`: `VMAX` and those of `ReadsAlike`; the others read what `rest` says is the same.
  case h_4 => exact hmax
  case h_5 => exact a.vsi rfl
  case h_6 => exact a.vsr rfl
  case h_7 => exact a.vsp rfl
  case h_8 => exact wide (a.dl0 rfl)
  case h_9 => exact wide (a.dl1 rfl)
  case h_10 => exact wide (a.dl2 rfl)
  case h_11 => exact a.dt0 rfl
  case h_12 => exact a.dt1 rfl
  case h_13 => exact a.dt2 rfl
  case h_14 => exact wide (a.fflags rfl)
  case h_15 => exact a.xlist rfl
  case h_16 => exact a.xcnt rfl
  case h_30 => exact wide (a.evmask rfl)
  case h_34 => exact a.tvec rfl
  case h_35 => exact wide (a.tcause rfl)
  case h_36 => exact a.tval rfl
  case h_37 => exact a.tpc rfl
  case h_38 => exact a.tinfo rfl
  case h_39 => exact congrArg (BitVec.ofNat 64) (a.tstat rfl)
  case h_40 => exact a.tscr rfl
  all_goals rfl

/-! The values that a register narrower than the word reads back as. -/

theorem setWidth_roundtrip (v : Word) (k : Nat) (hk : k ≤ 64) : (v.setWidth k).setWidth 64 = v &&& BitVec.ofNat 64 (2 ^ k - 1) := by
  apply BitVec.eq_of_toNat_eq
  have hlt : 2 ^ k - 1 < 2 ^ 64 := by
    have := Nat.pow_le_pow_right (n := 2) (by omega) hk
    omega
  have hv : v.toNat % 2 ^ k < 2 ^ 64 := Nat.lt_of_le_of_lt (Nat.mod_le ..) v.isLt
  rw [BitVec.toNat_and, BitVec.toNat_ofNat, Nat.mod_eq_of_lt hlt, Nat.and_two_pow_sub_one_eq_mod]
  simp only [BitVec.toNat_setWidth, Nat.mod_eq_of_lt hv]

theorem halves_append (v : Word) : ((v >>> 32).setWidth 32 : BitVec 32) ++ (v.setWidth 32 : BitVec 32) = v := by
  ext i hi
  simp only [BitVec.getElem_append, BitVec.getElem_setWidth, BitVec.getLsbD_ushiftRight]
  split
  · rfl
  · rw [← BitVec.getLsbD_eq_getElem]
    congr 1
    omega

theorem low_bits (v : Word) : BitVec.ofNat 64 (b2n (v.getLsbD 0) + 2 * b2n (v.getLsbD 1)) = v &&& 3 := by
  have hb (i : Nat) : b2n (v.getLsbD i) = v.toNat / 2 ^ i % 2 := by
    rw [BitVec.getLsbD, ← Nat.toNat_testBit]
    cases v.toNat.testBit i <;> rfl
  have h3 : (v &&& 3).toNat = v.toNat % 4 := Nat.and_two_pow_sub_one_eq_mod _ 2
  apply BitVec.eq_of_toNat_eq
  rw [h3, BitVec.toNat_ofNat, hb, hb]
  omega

/-- A write of a register with the writable bits `p.2` that holds what was written under them, and changes nothing else that
software reads of the hart, nor its program counter, scalar registers or memory. -/
def State.WriteHolds (s : State) (v : Word) (p : Nat × Word) : Prop :=
  ∃ t, s.srWrite p.1 v = some t ∧ t.srValue t.h p.1 = v &&& p.2 ∧ (∀ n, n ≠ p.1 → t.srValue t.h n = s.srValue s.h n) ∧
    t.h.pc = s.h.pc ∧ (∀ r, t.rd r = s.rd r) ∧ t.mem = s.mem

/-- The rule of a write that changes the current hart alone: what `p` reads, and that no other register reads differently. -/
theorem State.WriteHolds.of_hart {s : State} {p : Nat} {v m : Word} {g : Hart} (hw : s.srWrite p v = some { s with h := g })
    (hv : ({ s with h := g } : State).srValue g p = v &&& m) (ha : ∀ n, n ≠ p → Hart.ReadsAlike n g s.h)
    (hpc : g.pc = s.h.pc) (hx : g.x = s.h.x) : s.WriteHolds v (p, m) := by
  refine ⟨_, hw, hv, fun n hn => ?_, hpc, fun r => ?_, rfl⟩
  · exact State.srValue_alike s (ha n hn)
  · simp only [State.rd, Hart.rd, hx]

/-- The registers that software reads and writes whole, each with its writable bits (R8, R29 to R34, R104). -/
def wholeRegs : List (Nat × Word) :=
  [(0x004, BitVec.allOnes 64), (0x005, BitVec.allOnes 64), (0x006, BitVec.allOnes 64), (0x008, 0xFFFF), (0x009, 0xFFFF),
    (0x00A, 0xFFFF), (0x00C, BitVec.allOnes 64), (0x00D, BitVec.allOnes 64), (0x00E, BitVec.allOnes 64), (0x010, 0x7F),
    (0x011, ~~~15), (0x012, BitVec.allOnes 64), (0x041, 0x1F), (0x100, ~~~3), (0x101, 0xFF), (0x102, BitVec.allOnes 64),
    (0x103, ~~~1), (0x104, BitVec.allOnes 64), (0x105, 3), (0x106, BitVec.allOnes 64)]

theorem State.writeHolds_wholeRegs (s : State) (v : Word) : ∀ p ∈ wholeRegs, s.WriteHolds v p := by
  have whole : v = v &&& BitVec.allOnes 64 := BitVec.and_allOnes.symm
  have low (k : Nat) (hk : k ≤ 64) := setWidth_roundtrip v k hk
  have low16 {x : BitVec 16} (e : x = v.setWidth 16) : x.setWidth 64 = v &&& 0xFFFF := e ▸ low 16 (by omega)
  simp only [wholeRegs, List.forall_mem_cons]
  exact ⟨
    .of_hart rfl whole (fun n hn => { vsi := (absurd · hn) }) rfl rfl,
    .of_hart rfl whole (fun n hn => { vsr := (absurd · hn) }) rfl rfl,
    .of_hart rfl whole (fun n hn => { vsp := (absurd · hn) }) rfl rfl,
    .of_hart rfl (low16 (Vector.getElem_set_self _))
      (fun n hn => { dl0 := (absurd · hn), dl1 := fun _ => by simp, dl2 := fun _ => by simp }) rfl rfl,
    .of_hart rfl (low16 (Vector.getElem_set_self _))
      (fun n hn => { dl0 := fun _ => by simp, dl1 := (absurd · hn), dl2 := fun _ => by simp }) rfl rfl,
    .of_hart rfl (low16 (Vector.getElem_set_self _))
      (fun n hn => { dl0 := fun _ => by simp, dl1 := fun _ => by simp, dl2 := (absurd · hn) }) rfl rfl,
    .of_hart rfl ((Vector.getElem_set_self _).trans whole)
      (fun n hn => { dt0 := (absurd · hn), dt1 := fun _ => by simp, dt2 := fun _ => by simp }) rfl rfl,
    .of_hart rfl ((Vector.getElem_set_self _).trans whole)
      (fun n hn => { dt0 := fun _ => by simp, dt1 := (absurd · hn), dt2 := fun _ => by simp }) rfl rfl,
    .of_hart rfl ((Vector.getElem_set_self _).trans whole)
      (fun n hn => { dt0 := fun _ => by simp, dt1 := fun _ => by simp, dt2 := (absurd · hn) }) rfl rfl,
    .of_hart rfl (low 7 (by omega)) (fun n hn => { fflags := (absurd · hn) }) rfl rfl,
    .of_hart rfl rfl (fun n hn => { xlist := (absurd · hn) }) rfl rfl,
    .of_hart rfl ((halves_append v).trans whole) (fun n hn => { xcnt := (absurd · hn) }) rfl rfl,
    .of_hart rfl (low 5 (by omega)) (fun n hn => { evmask := (absurd · hn) }) rfl rfl,
    .of_hart rfl rfl (fun n hn => { tvec := (absurd · hn) }) rfl rfl,
    .of_hart rfl (low 8 (by omega)) (fun n hn => { tcause := (absurd · hn) }) rfl rfl,
    .of_hart rfl whole (fun n hn => { tval := (absurd · hn) }) rfl rfl,
    .of_hart rfl rfl (fun n hn => { tpc := (absurd · hn) }) rfl rfl,
    .of_hart rfl whole (fun n hn => { tinfo := (absurd · hn) }) rfl rfl,
    .of_hart rfl (low_bits v) (fun n hn => { tstat := (absurd · hn) }) rfl rfl,
    .of_hart rfl whole (fun n hn => { tscr := (absurd · hn) }) rfl rfl,
    by simp⟩

theorem badCfg_iff (v : Word) :
    badCfg v = false ↔ v.toNat / 2 ^ 12 = 0 ∧ v.toNat % 8 < 4 ∧ v.toNat / 2 ^ 5 % 4 ≠ 3 := by
  have hv := v.isLt
  simp only [badCfg, field, natBits, Nat.shiftRight_eq_div_pow, Bool.or_eq_false_iff, bne_eq_false_iff_eq, beq_eq_false_iff_ne]
  omega

/-- An unprivileged write of a register that is read-only at that level is ignored (R8). -/
theorem State.srWrite_unprivileged {s : State} (v : Word) (hp : s.h.priv = false) :
    ∀ n ∈ [0x000, 0x001, 0x002, 0x003, 0x018, 0x019, 0x01A, 0x01B, 0x020, 0x021, 0x022, 0x028, 0x029, 0x030, 0x038, 0x050, 0x051],
      s.srWrite n v = some s := by
  have hif (o : Option State) : (if !s.h.priv then some s else o) = some s := by rw [hp]; rfl
  simp only [List.forall_mem_cons]
  exact ⟨hif _, hif _, hif _, rfl, rfl, rfl, rfl, rfl, rfl, rfl, rfl, hif _, rfl, rfl, rfl, rfl, rfl, by simp⟩

theorem State.srWrite_vl {s : State} (v : Word) (hp : s.h.priv = true) :
    s.srWrite 0x000 v = if v.toNat ≤ s.vmax s.h s.h.vcfg then some { s with h := { s.h with vl := v.toNat } } else none := by
  change (if !s.h.priv then some s else _) = _
  rw [hp]
  rfl

theorem State.srWrite_rc {s : State} (v : Word) (hp : s.h.priv = true) :
    s.srWrite 0x002 v = if 1 ≤ v.toNat ∧ v.toNat ≤ 32 then some { s with h := { s.h with rc := v.toNat } } else none := by
  change (if !s.h.priv then some s else _) = _
  rw [hp]
  rfl

theorem State.srWrite_vcfg {s : State} (v : Word) (hp : s.h.priv = true) :
    s.srWrite 0x001 v =
      if v.toNat / 2 ^ 12 = 0 ∧ v.toNat % 8 < 4 ∧ v.toNat / 2 ^ 5 % 4 ≠ 3 ∧ s.h.vl ≤ s.vmax s.h v
      then some { s with h := { s.h with vcfg := v } } else none := by
  change (if !s.h.priv then some s else if badCfg v || decide (s.vmax s.h v < s.h.vl) then none else _) = _
  have hok : (badCfg v || decide (s.vmax s.h v < s.h.vl)) = false ↔
      v.toNat / 2 ^ 12 = 0 ∧ v.toNat % 8 < 4 ∧ v.toNat / 2 ^ 5 % 4 ≠ 3 ∧ s.h.vl ≤ s.vmax s.h v := by
    rw [Bool.or_eq_false_iff, badCfg_iff, decide_eq_false_iff_not, Nat.not_lt, and_assoc, and_assoc]
  rw [hp]
  simp only [← hok]
  cases badCfg v || decide (s.vmax s.h v < s.h.vl) <;> rfl

/-- Settles O23: the registers held whole, and the others by level. -/
theorem systemRegisterWrites : Obligations.SystemRegisterWrites := by
  unfold Obligations.SystemRegisterWrites
  exact ⟨State.writeHolds_wholeRegs, fun s v => ⟨State.srWrite_unprivileged v,
    fun hp => ⟨State.srWrite_vl v hp, State.srWrite_vcfg v hp, State.srWrite_rc v hp⟩⟩⟩

end Sys2Proof.Machine
end
